-- ==== Sys2Proof/Word.lean ====
section
/-! DEFINITION. The word types of the ZL-2416 and the sparse map its state is written with (00 R3, R4). -/

namespace Sys2Proof

/-- A 32-bit register word (06 R106). -/
abbrev Word := BitVec 32

/-- One byte of device memory (00 R4). -/
abbrev Byte := BitVec 8

/-- A 64-bit register or lane mask; lane `l` is bit `l` (07 R139). -/
abbrev Mask := BitVec 64

/-- Sparse data by key: keys strictly rising, no entry equal to the default its reader names. -/
abbrev Map (α : Type) := List (Nat × α)

end Sys2Proof
end

