-- ==== Sys2Proof/Machine/Map.lean ====
section
/-! DEFINITION. The sparse maps of State: lists of key and value with keys strictly rising and no entry equal to what an unlisted
key reads as, so equal contents are equal data. -/

namespace Sys2Proof.Machine

/-- The value at a key, if listed. -/
def mfind {α : Type} : Map α → Nat → Option α
  | [], _ => none
  | (k', v) :: m, k => if k' = k then some v else mfind m k

/-- The value at a key; `d` where the map lists none. -/
def mget {α : Type} (m : Map α) (k : Nat) (d : α) : α := (mfind m k).getD d

/-- List a value at a key, in key order. -/
def mput {α : Type} : Map α → Nat → α → Map α
  | [], k, v => [(k, v)]
  | (k', v') :: m, k, v =>
    if k < k' then (k, v) :: (k', v') :: m
    else if k' = k then (k, v) :: m
    else (k', v') :: mput m k v

/-- List nothing at a key. -/
def mdel {α : Type} : Map α → Nat → Map α
  | [], _ => []
  | (k', v') :: m, k => if k' = k then mdel m k else (k', v') :: mdel m k

/-- Write a value at a key of a map whose unlisted keys read as `d`: writing `d` removes the entry. -/
def mset {α : Type} [DecidableEq α] (m : Map α) (k : Nat) (v d : α) : Map α :=
  if v = d then mdel m k else mput m k v

/-- Every key lies above `b`, and the keys rise. -/
def risesFrom {α : Type} : Nat → Map α → Bool
  | _, [] => true
  | b, (k, _) :: m => decide (b ≤ k) && risesFrom (k + 1) m

/-- The canonical form: keys strictly rising, no value equal to the default. -/
def canonical {α : Type} [DecidableEq α] (m : Map α) (d : α) : Bool :=
  risesFrom 0 m && m.all fun kv => decide (kv.2 ≠ d)

/-- Bits [lo + len - 1 : lo] of a number. -/
def bits (x lo len : Nat) : Nat := x / 2 ^ lo % 2 ^ len

/-- Write a field of `len` bits at `lo`. -/
def setBits (x lo len v : Nat) : Nat := x - bits x lo len * 2 ^ lo + v % 2 ^ len * 2 ^ lo

/-- One bit of a number, as a truth value. -/
def nbit (x i : Nat) : Bool := x.testBit i

/-- A truth value as 1 or 0. -/
def b2n (b : Bool) : Nat := if b then 1 else 0

/-- A number read as a two's-complement integer of `w` bits (02 R20). -/
def sint (w x : Nat) : Int := if x % 2 ^ w < 2 ^ (w - 1) then (x % 2 ^ w : Nat) else (x % 2 ^ w : Nat) - 2 ^ w

/-- An integer wrapped to `w` bits (00 R3). -/
def wrap (w : Nat) (x : Int) : Nat := (x % (2 ^ w : Int)).toNat

/-- The 32-bit word of an integer. -/
def word32 (x : Int) : Word := BitVec.ofInt 32 x

/-- The first `n` lanes whose bit is set in a mask, lowest first (08 R159: lanes in ascending order). -/
def lanesFrom (m : Mask) : Nat → Nat → List Nat
  | 0, _ => []
  | n + 1, l => if m.getLsbD l then l :: lanesFrom m n (l + 1) else lanesFrom m n (l + 1)

/-- The lanes of a mask in ascending order. -/
def lanesOf (m : Mask) : List Nat := lanesFrom m 64 0

/-- The mask of one lane. -/
def laneBit (l : Nat) : Mask := BitVec.ofNat 64 (2 ^ l)

/-- The mask of a list of lanes. -/
def maskOf (ls : List Nat) : Mask := ls.foldl (fun m l => m ||| laneBit l) 0

/-- Keep the list and append a value where it is not there yet. -/
def addNew (l : List Nat) (x : Nat) : List Nat := if l.contains x then l else l ++ [x]

/-- The bytes of a number, `n` of them, little-endian (00 R4). -/
def bytesOf : Nat → Nat → List Byte
  | 0, _ => []
  | n + 1, x => BitVec.ofNat 8 x :: bytesOf n (x / 256)

/-- The number of a list of bytes, little-endian (00 R4). -/
def ofBytes : List Byte → Nat
  | [] => 0
  | b :: bs => b.toNat + 256 * ofBytes bs

/-- Pieces of `n` elements of a list; the fuel bounds their number. -/
def chunks {α : Type} (n : Nat) : Nat → List α → List (List α)
  | 0, _ => []
  | _ + 1, [] => []
  | fuel + 1, l => l.take n :: chunks n fuel (l.drop n)

end Sys2Proof.Machine
end

