-- ==== Sys2Proof/Machine/Flags.lean ====
section
/-! DEFINITION. The sticky flags of FSTAT (02 R35, Table 2-6). -/

namespace Sys2Proof.Machine

/-- Seven flag bits. -/
abbrev Flags := BitVec 7

def flInvalid : Flags := 1
def flDivZ : Flags := 2
def flOver : Flags := 4
def flUnder : Flags := 8
def flInexact : Flags := 16
def flSat : Flags := 32
def flNanIn : Flags := 64

/-- A flag set on a condition. -/
def flIf (c : Bool) (f : Flags) : Flags := if c then f else 0

end Sys2Proof.Machine
end

