-- ==== Sys2Proof/Machine/Float.lean ====
section
/-! DEFINITION. Number formats and exact arithmetic (02 R15-R34): a floating value is a NaN, an infinity or an exact dyadic number;
operations are exact and round once. Types are named by the codes of 06 Table 6-11. -/

namespace Sys2Proof.Machine

/-- A value of a floating format: `fin neg m e` is (-1)^neg x m x 2^e. -/
inductive FVal where
  | nan
  | inf (neg : Bool)
  | fin (neg : Bool) (m : Nat) (e : Int)
  deriving DecidableEq, Repr

/-- Fraction bits of a floating type (02 Table 2-2, R18, R19, R21). -/
def fmtMant (t : Nat) : Nat :=
  match t with
  | 8 => 23
  | 9 => 7
  | 10 => 10
  | 11 => 3
  | 12 => 2
  | _ => 1

/-- Exponent bits. -/
def fmtExp (t : Nat) : Nat :=
  match t with
  | 8 | 9 => 8
  | 10 | 12 => 5
  | 11 => 4
  | _ => 2

/-- Exponent bias. -/
def fmtBias (t : Nat) : Nat := 2 ^ (fmtExp t - 1) - 1

/-- The code of the largest finite magnitude (02 Table 2-1): E4M3 ends at 0x7E, E2M1 at 7. -/
def fmtMax (t : Nat) : Nat :=
  match t with
  | 8 => 0x7F7FFFFF
  | 9 => 0x7F7F
  | 10 => 0x7BFF
  | 11 => 0x7E
  | 12 => 0x7B
  | _ => 7

/-- Has the format infinities? -/
def fmtHasInf (t : Nat) : Bool := t = 8 || t = 9 || t = 10 || t = 12

/-- The canonical NaN (02 Table 2-2, R18, R19). -/
def fmtNan (t : Nat) : Nat :=
  match t with
  | 8 => 0x7FC00000
  | 9 => 0x7FC0
  | 10 => 0x7E00
  | 11 => 0x7F
  | 12 => 0x7E
  | _ => 0

/-- The place of the sign bit. -/
def fmtSign (t : Nat) : Nat := fmtExp t + fmtMant t

/-- A code with its sign. -/
def withSign (t : Nat) (neg : Bool) (mag : Nat) : Nat := mag + (if neg then 2 ^ fmtSign t else 0)

/-- The value of a code (02 R16, R18, R19, R21). -/
def fDecode (t code : Nat) : FVal :=
  let mb := fmtMant t
  let neg := nbit code (fmtSign t)
  let ef := bits code mb (fmtExp t)
  let fr := bits code 0 mb
  let top := 2 ^ fmtExp t - 1
  if fmtHasInf t && ef = top then (if fr = 0 then .inf neg else .nan)
  else if t = 11 && ef = top && fr = 7 then .nan
  else if ef = 0 then .fin neg fr (1 - (fmtBias t : Int) - mb)
  else .fin neg (2 ^ mb + fr) ((ef : Int) - fmtBias t - mb)

/-- Does rounding go up, away from zero (02 Tables 2-4, R27)? `n` is the truncated magnitude, `r` of `den` the rest, `u` the draw. -/
def roundsUp (mode : Nat) (neg : Bool) (u n r den : Nat) : Bool :=
  match mode with
  | 0 => den < 2 * r || (2 * r = den && n % 2 = 1)
  | 1 => false
  | 2 => !neg && r ≠ 0
  | 3 => neg && r ≠ 0
  | 4 => den ≤ 2 * r && r ≠ 0
  | _ => u < r * 2 ^ 32 / den

/-- Round m x 2^e to a whole number of units 2^q: the magnitude in units, and whether it differs. -/
def roundUnits (mode : Nat) (neg : Bool) (u m : Nat) (e q : Int) : Nat × Bool :=
  if q ≤ e then (m * 2 ^ (e - q).toNat, false)
  else
    let den := 2 ^ (q - e).toNat
    let n := m / den
    let r := m % den
    (n + b2n (roundsUp mode neg u n r den), r ≠ 0)

/-- The exact value (-1)^neg x m x 2^e rounded once to type `t` (02 R26, R32, R33). `more` says the exact value is not dyadic, so the
result is inexact however it rounds (10 R227). Types without infinities saturate. -/
def fRound (t mode u : Nat) (sat neg : Bool) (m : Nat) (e : Int) (more : Bool) : Nat × Flags :=
  if m = 0 then (withSign t neg 0, 0) else
  let mb := fmtMant t
  let emin : Int := 1 - fmtBias t
  let q := max ((Nat.log2 m : Int) + e) emin
  let (n, inx) := roundUnits mode neg u m e (q - mb)
  let code := (q - emin).toNat * 2 ^ mb + n
  if fmtMax t < code then
    if sat || !fmtHasInf t then (withSign t neg (fmtMax t), flSat ||| flInexact)
    else (withSign t neg (fmtMax t + 1), flOver ||| flInexact)
  else
    let inexact := inx || more
    (withSign t neg code, (if inexact then flInexact else 0) ||| (if inexact && code < 2 ^ mb then flUnder else 0))

/-- A value delivered in a type: NaN canonical, infinities as R33 (no flag for the delivery of an infinity that is exact). -/
def fDeliver (t mode u : Nat) (sat : Bool) : FVal → Nat × Flags
  | .nan => (fmtNan t, flNanIn)
  | .inf neg => if fmtHasInf t then (withSign t neg (fmtMax t + 1), 0) else (withSign t neg (fmtMax t), flSat)
  | .fin neg m e => fRound t mode u sat neg m e false

def FVal.isNan : FVal → Bool
  | .nan => true
  | _ => false

def FVal.isZero : FVal → Bool
  | .fin _ m _ => m = 0
  | _ => false

def FVal.sign : FVal → Bool
  | .nan => false
  | .inf n => n
  | .fin n _ _ => n

/-- A term of an exact sum: `bad` is a product 0 x infinity (02 R32). -/
inductive FTerm where
  | val (v : FVal)
  | bad
  deriving DecidableEq, Repr

/-- The exact product of two values (02 R32). -/
def fMulX (a b : FVal) : FTerm :=
  match a, b with
  | .nan, _ => .val .nan
  | _, .nan => .val .nan
  | .inf s, .inf t => .val (.inf (s != t))
  | .inf s, .fin t m _ => if m = 0 then .bad else .val (.inf (s != t))
  | .fin s m _, .inf t => if m = 0 then .bad else .val (.inf (s != t))
  | .fin s m e, .fin t n f => .val (.fin (s != t) (m * n) (e + f))

/-- The exact product of a value with a power of two. -/
def fScaleX (v : FVal) (k : Int) : FVal :=
  match v with
  | .fin s m e => .fin s m (e + k)
  | w => w

/-- A finite value in units of 2^e (e at most its own exponent). -/
def finUnits (e : Int) : FVal → Int
  | .fin s m f => (if s then -1 else 1) * ((m * 2 ^ (f - e).toNat : Nat) : Int)
  | _ => 0

/-- The least exponent of the finite non-zero values of a list; 0 where there is none. -/
def minExp : List FVal → Option Int
  | [] => none
  | .fin _ m e :: vs =>
    if m = 0 then minExp vs else
    match minExp vs with
    | none => some e
    | some f => some (min e f)
  | _ :: vs => minExp vs

/-- What a sum of terms is before rounding: the value and the flags of its special values (02 R32). The sign of an exact zero
follows the mode; a sum whose every term is a zero of one sign is that zero. A NaN term beside a product of zero and infinity or opposed
infinities raises NANIN alone (log 71, DESIGN CHOICE). -/
def fSumX (mode : Nat) (ts : List FTerm) : FVal × Flags :=
  let vs := ts.filterMap fun | .val v => some v | .bad => none
  if vs.any FVal.isNan then (.nan, flNanIn)
  else if ts.contains .bad then (.nan, flInvalid)
  else if vs.contains (.inf false) && vs.contains (.inf true) then (.nan, flInvalid)
  else if vs.contains (.inf false) then (.inf false, 0)
  else if vs.contains (.inf true) then (.inf true, 0)
  else
    let e := (minExp vs).getD 0
    let s := (vs.map (finUnits e)).foldl (· + ·) 0
    if s = 0 then
      let zeros := vs.all FVal.isZero
      let neg := if zeros && vs.all FVal.sign && !vs.isEmpty then true
        else if zeros && vs.all (fun v => !v.sign) then false
        else mode = 3
      (.fin neg 0 0, 0)
    else (.fin (s < 0) s.natAbs e, 0)

/-- A sum of terms rounded once to a type (02 R37, R38). -/
def fSum (t mode u : Nat) (sat : Bool) (ts : List FTerm) : Nat × Flags :=
  match fSumX mode ts with
  | (.nan, fl) => (fmtNan t, fl)
  | (v, fl) =>
    let (c, fl') := fDeliver t mode u sat v
    (c, fl ||| fl')

/-- A FP32 code in which a subnormal stands as zero of its sign when flush-to-zero is on (02 R29). -/
def flushIn (ftz : Bool) (code : Nat) : Nat :=
  if ftz && bits code 23 8 = 0 then bits code 31 1 * 2 ^ 31 else code

/-- A FP32 result under flush-to-zero: a subnormal one becomes zero of its sign with underflow and inexact (02 R29). -/
def flushOut (ftz : Bool) (r : Nat × Flags) : Nat × Flags :=
  if ftz && bits r.1 23 8 = 0 && bits r.1 0 23 ≠ 0 then (bits r.1 31 1 * 2 ^ 31, r.2 ||| flUnder ||| flInexact) else r

/-- Compare finite or infinite values as numbers: -1, 0 or 1; zeros of both signs are equal. -/
def fCompare (a b : FVal) : Int :=
  match a, b with
  | .nan, _ => 0
  | _, .nan => 0
  | .inf s, .inf t => if s = t then 0 else if s then -1 else 1
  | .inf s, .fin .. => if s then -1 else 1
  | .fin .., .inf t => if t then 1 else -1
  | .fin s m e, .fin t n f =>
    let g := min e f
    let d := finUnits g (.fin s m e) - finUnits g (.fin t n f)
    if d < 0 then -1 else if d = 0 then 0 else 1

/-- Order with -0 below +0 (10 Table 10-7). -/
def fLess (a b : FVal) : Bool :=
  let c := fCompare a b
  c < 0 || (c = 0 && a.isZero && a.sign && !b.sign)

/-- The lesser or greater of two codes of a type: canonical NaN with NaN-in for a NaN (10 Table 10-7). -/
def fMinMax (t : Nat) (wantMax : Bool) (a b : Nat) : Nat × Flags :=
  let x := fDecode t a
  let y := fDecode t b
  if x.isNan || y.isNan then (fmtNan t, flNanIn)
  else if (if wantMax then fLess x y else fLess y x) then (b, 0) else (a, 0)

/-- A comparison under condition codes 0-5 (10 R219): with a NaN only not-equal is true, and NaN-in is set. -/
def fCond (t cond a b : Nat) : Bool × Flags :=
  let x := fDecode t a
  let y := fDecode t b
  if x.isNan || y.isNan then (cond = 1, flNanIn)
  else
    let c := fCompare x y
    ((match cond with
      | 0 => c = 0
      | 1 => c ≠ 0
      | 2 => c < 0
      | 3 => 0 ≤ c
      | 4 => 0 < c
      | _ => c ≤ 0), 0)

/-- A value rounded to an integer under a mode and a draw: its exact integer and whether it differs. -/
def fToInt (mode u : Nat) (v : FVal) : Int × Bool :=
  match v with
  | .fin s m e =>
    let (n, inx) := roundUnits mode s u m e 0
    ((if s then -(n : Int) else n), inx)
  | _ => (0, false)

/-- An integer as an exact value. -/
def intVal (x : Int) : FVal := .fin (x < 0) x.natAbs 0

/-- Bits of a floating or integer type of Table 6-11. -/
def elemBits (t : Nat) : Nat :=
  match t with
  | 0 | 1 | 8 => 32
  | 2 | 3 | 9 | 10 => 16
  | 4 | 5 | 11 | 12 => 8
  | 6 | 7 => 64
  | 13 => 4
  | 14 => 3
  | 15 => 5
  | _ => 8

/-- Is a type signed (even codes below 8)? -/
def isSigned (t : Nat) : Bool := t % 2 = 0

/-- The integer a code of an integer type stands for (02 R20). -/
def intOf (t code : Nat) : Int :=
  if isSigned t then sint (elemBits t) code else ((code % 2 ^ elemBits t : Nat) : Int)

/-- Least and greatest values of an integer type. -/
def intLo (t : Nat) : Int := if isSigned t then -(2 : Int) ^ (elemBits t - 1) else 0
def intHi (t : Nat) : Int := if isSigned t then (2 : Int) ^ (elemBits t - 1) - 1 else (2 : Int) ^ elemBits t - 1

/-- An integer clamped to a type's range, and whether it was clamped. -/
def clampInt (t : Nat) (x : Int) : Int × Bool :=
  if x < intLo t then (intLo t, true) else if intHi t < x then (intHi t, true) else (x, false)

/-- A conversion between types 0-12 (02 R33, R34, 10 R223). -/
def convert (dst src code mode u : Nat) (sat : Bool) : Nat × Flags :=
  if src < 8 then
    let x := intOf src code
    if dst < 8 then
      if sat then
        let (y, c) := clampInt dst x
        (wrap (elemBits dst) y, if c then flSat else 0)
      else (wrap (elemBits dst) x, 0)
    else fDeliver dst mode u sat (intVal x)
  else
    let v := fDecode src code
    if dst < 8 then
      match v with
      | .nan => (0, flInvalid ||| flNanIn)
      | .inf s => (wrap (elemBits dst) (if s then intLo dst else intHi dst), flSat ||| flInvalid)
      | .fin .. =>
        let (x, inx) := fToInt mode u v
        let (y, c) := clampInt dst x
        (wrap (elemBits dst) y, if c then flSat ||| flInvalid else if inx then flInexact else 0)
    else fDeliver dst mode u sat v

/-- Negate and absolute value on a floating code: the sign bit alone (06 R128). -/
def fMods (t : Nat) (abs neg : Bool) (code : Nat) : Nat :=
  let s := 2 ^ fmtSign t
  let c := if abs then code % s else code
  if neg then (if c < s then c + s else c - s) else c

/-- Negate and absolute value on a code of an integer type: on the value in that type, wrapping at its width, absolute value first (06 R128,
10 R206). -/
def iMods (t : Nat) (abs neg : Bool) (code : Nat) : Nat :=
  let w := elemBits t
  let c := if abs then wrap w |intOf t code| else code % 2 ^ w
  if neg then wrap w (-(c : Int)) else c

end Sys2Proof.Machine
end

