-- ==== Sys2Proof/Config.lean ====
section
/-! DEFINITION. What an implementation fixes and the values the manual leaves open: constants with no body, so nothing can be
proved of their value (assumption log 2, DESIGN CHOICE). -/

namespace Sys2Proof

/-- A value the manual leaves open; the argument is the state's counter of such values (log 2, DESIGN CHOICE). -/
opaque Config.freeNat : Nat → Nat

/-- The 64-byte attestation public key of the device (17 R385, R386), as a number of 512 bits. -/
opaque Config.attPublicKey : Nat

/-- The 29,792-byte SLH-DSA-SHAKE-256s signature over a report (17 R385): the manual names the scheme, the device holds the
private key; the argument is the signed report as a number. -/
opaque Config.attSignature : Nat → Nat

/-- SHAKE256 with 512 bits of output (17 R383), on bytes given as a list: named by the manual, standardised outside it (log 11, DESIGN CHOICE). -/
opaque Config.shake256 : List Byte → Nat

/-- The SHAKE256 digest of the public key of firmware images, fused in the device (17 R384). -/
opaque Config.fusedKeyDigest : Nat

/-- Does an SLH-DSA-SHAKE-256s signature over a digest verify against a public key (17 R384, FIPS 205): key, digest and signature as numbers?
Named by the manual, standardised outside it (log 11, DESIGN CHOICE). -/
opaque Config.slhVerifies : Nat → Nat → Nat → Bool

/-- Where in the DRAM of stack 0 a package's almanac stands (17 R383): the boot block names it. -/
opaque Config.almanacAddr : Nat → Nat

/-- Packages that exist in the pod (00 R1: at most 64). The model holds every package id; which are populated is the pod's. -/
opaque Config.populated : Nat → Bool

end Sys2Proof
end

