-- ==== Sys2Proof/Syntax.lean ====
section
/-! DEFINITION. The syntax: one constructor of `Instr` for every row of the opcode table. Rows 0-153 are instruction words, with
their fields; rows 154-283 are the steps the device takes beside a word's issue, with the unit each happens to (06 Table 6-16,
95_what_each_step_holds). Units are named by number: `gs` = 16 x package + stack, `gc` = 24 x gs + core. -/

namespace Sys2Proof

/-- Format A (06 R126): destination, no-write-back, two operand codes, predicate with its inversion. -/
structure FmtA where
  d : BitVec 6
  n : Bool
  a : BitVec 7
  b : BitVec 7
  g : Bool
  p : BitVec 3
  deriving DecidableEq, Repr

/-- Format A with a subop in [3:0] (06 R126, R132): no predicate. -/
structure FmtS where
  d : BitVec 6
  n : Bool
  a : BitVec 7
  b : BitVec 7
  deriving DecidableEq, Repr

/-- Format I with an 18-bit immediate (06 R127). -/
structure FmtI where
  d : BitVec 6
  n : Bool
  imm : BitVec 18
  deriving DecidableEq, Repr

/-- Format I with a source and an 11-bit immediate (06 R127). -/
structure FmtIS where
  d : BitVec 6
  n : Bool
  a : BitVec 7
  imm : BitVec 11
  deriving DecidableEq, Repr

/-- The X word (06 R128, Table 6-10); its reserved bits [3:0] are zero. -/
structure FmtX where
  sc : BitVec 7
  rnd : BitVec 3
  sat : Bool
  nega : Bool
  absa : Bool
  negb : Bool
  absb : Bool
  negc : Bool
  absc : Bool
  ty : BitVec 5
  sub : BitVec 6
  deriving DecidableEq, Repr

/-- Format M (06 R129). -/
structure FmtM where
  data : BitVec 6
  addr : BitVec 7
  scope : BitVec 4
  order : BitVec 2
  space : BitVec 2
  szop : BitVec 4
  deriving DecidableEq, Repr

/-- Format B (06 R130). -/
structure FmtB where
  cneg : Bool
  cpred : BitVec 3
  off : BitVec 21
  deriving DecidableEq, Repr

/-- Format E (06 R131): five scalar register numbers. -/
structure FmtE where
  ea : BitVec 5
  eb : BitVec 5
  ec : BitVec 5
  ed : BitVec 5
  ee : BitVec 5
  deriving DecidableEq, Repr

/-- Control word of CPY and CPYI (09 R196, Table 9-7). -/
structure CopyCtl where
  src : BitVec 2
  dst : BitVec 2
  ord : Bool
  deriving DecidableEq, Repr

/-- Control word of GATH and SCAT (09 R196): `far` is [1:0], `near` is [5:4]. -/
structure GathCtl where
  far : BitVec 2
  ord : Bool
  idx16 : Bool
  near : BitVec 2
  deriving DecidableEq, Repr

/-- Control word of MLOOP (11 R250). -/
structure MloopCtl where
  tile : BitVec 3
  md : BitVec 2
  sk : BitVec 5
  deriving DecidableEq, Repr

/-- Control word of MST (11 Table 11-8); bits [31:20] are zero. -/
structure MstCtl where
  itile : Bool
  mreq : Bool
  trn : Bool
  sat : Bool
  rnd : BitVec 3
  scale : Bool
  bias : Bool
  act : BitVec 3
  mx : Bool
  ty : BitVec 5
  space : BitVec 2
  deriving DecidableEq, Repr

/-- Control word of VRSET (12 Table 12-3). -/
structure VrCtl where
  acc : Bool
  ofmt : Bool
  vfmt : BitVec 2
  afmt : Bool
  bsel : BitVec 3
  deriving DecidableEq, Repr

/-- A firmware image the boot ROM measures (17 R383, R384): its type, version and bytes, and the public key and the signature it carries, none
where the signature is absent. -/
structure FwImage where
  mr : Nat
  image : Nat
  version : Nat
  bytes : List Byte
  key : BitVec 512
  signature : Option Nat
  deriving DecidableEq, Repr

/-- One constructor per row of the opcode table. -/
inductive Instr where
  /-- IADD (R212). -/
  | iadd (f : FmtA)
  /-- ISUB (R212). -/
  | isub (f : FmtA)
  /-- IMUL (R212). -/
  | imul (f : FmtA)
  /-- IMULH (R212). -/
  | imulh (f : FmtA) (x : FmtX)
  /-- IMAD (R212). -/
  | imad (f : FmtA) (x : FmtX)
  /-- IMADW (R212). -/
  | imadw (f : FmtA) (x : FmtX)
  /-- IMIN (R212). -/
  | imin (f : FmtA) (x : FmtX)
  /-- IMAX (R212). -/
  | imax (f : FmtA) (x : FmtX)
  /-- IABS (R212). -/
  | iabs (f : FmtA)
  /-- AND (R212). -/
  | andW (f : FmtA)
  /-- OR (R212). -/
  | orW (f : FmtA)
  /-- XOR (R212). -/
  | xorW (f : FmtA)
  /-- ANDN (R212). -/
  | andn (f : FmtA)
  /-- SHL (R212). -/
  | shl (f : FmtA)
  /-- SHR (R212). -/
  | shr (f : FmtA)
  /-- SAR (R212). -/
  | sar (f : FmtA)
  /-- ROTL (R212). -/
  | rotl (f : FmtA)
  /-- BFX (R213). -/
  | bfx (f : FmtA)
  /-- BFI (R213). -/
  | bfi (f : FmtA) (x : FmtX)
  /-- POPC (R212). -/
  | popc (f : FmtA)
  /-- CLZ (R212). -/
  | clz (f : FmtA)
  /-- BREV (R212). -/
  | brev (f : FmtA)
  /-- ISET (R214). -/
  | iset (f : FmtA) (x : FmtX)
  /-- SEL (R216). -/
  | sel (f : FmtA) (x : FmtX)
  /-- MOV (R215). -/
  | mov (f : FmtA)
  /-- MOVI (R215). -/
  | movi (f : FmtI)
  /-- MOVI_H (R215). -/
  | moviH (f : FmtI)
  /-- MOVX (R215). -/
  | movx (f : FmtA)
  /-- MOVXW (R215). -/
  | movxw (f : FmtA)
  /-- LEA (R215). -/
  | lea (f : FmtA) (x : FmtX)
  /-- FADD (R218). -/
  | fadd (f : FmtA)
  /-- FMUL (R218). -/
  | fmul (f : FmtA)
  /-- FFMA (R218). -/
  | ffma (f : FmtA) (x : FmtX)
  /-- FMIN (R218). -/
  | fmin (f : FmtA)
  /-- FMAX (R218). -/
  | fmax (f : FmtA)
  /-- FSET (R219). -/
  | fset (f : FmtA) (x : FmtX)
  /-- FCLASS (R220). -/
  | fclass (f : FmtA)
  /-- FRND (R218). -/
  | frnd (f : FmtA) (x : FmtX)
  /-- FSCALE (R218). -/
  | fscale (f : FmtA)
  /-- DUADD (R221). -/
  | duadd (f : FmtA) (x : FmtX)
  /-- DUMUL (R221). -/
  | dumul (f : FmtA) (x : FmtX)
  /-- DUFMA (R221). -/
  | dufma (f : FmtA) (x : FmtX)
  /-- DUMIN (R221). -/
  | dumin (f : FmtA) (x : FmtX)
  /-- DUMAX (R221). -/
  | dumax (f : FmtA) (x : FmtX)
  /-- DUSET (R222). -/
  | duset (f : FmtA) (x : FmtX)
  /-- CVT (R223). -/
  | cvt (f : FmtA) (x : FmtX)
  /-- ZPK (R224). -/
  | zpk (f : FmtA) (x : FmtX)
  /-- ZUPK (R224). -/
  | zupk (f : FmtA) (x : FmtX)
  /-- MXPK (R225). -/
  | mxpk (f : FmtA) (x : FmtX)
  /-- MXUPK (R225). -/
  | mxupk (f : FmtA) (x : FmtX)
  /-- FDOT4 (R226). -/
  | fdot4 (f : FmtA) (x : FmtX)
  /-- IDOT4 (R226). -/
  | idot4 (f : FmtA) (x : FmtX)
  /-- SADD (R234). -/
  | sadd (f : FmtS)
  /-- SSUB (R234). -/
  | ssub (f : FmtS)
  /-- SMUL (R234). -/
  | smul (f : FmtS)
  /-- SAND (R234). -/
  | sand (f : FmtS)
  /-- SOR (R234). -/
  | sor (f : FmtS)
  /-- SXOR (R234). -/
  | sxor (f : FmtS)
  /-- SSHL (R234). -/
  | sshl (f : FmtS)
  /-- SSHR (R234). -/
  | sshr (f : FmtS)
  /-- SSET_EQ (R234). -/
  | ssetEq (f : FmtS)
  /-- SSET_NE (R234). -/
  | ssetNe (f : FmtS)
  /-- SSET_LT (R234). -/
  | ssetLt (f : FmtS)
  /-- SSET_GE (R234). -/
  | ssetGe (f : FmtS)
  /-- SSET_LTU (R234). -/
  | ssetLtu (f : FmtS)
  /-- SSET_GEU (R234). -/
  | ssetGeu (f : FmtS)
  /-- SMOV (R234). -/
  | smov (f : FmtS)
  /-- SMOVI (R234). -/
  | smovi (f : FmtI)
  /-- SMOVI_H (R234). -/
  | smoviH (f : FmtI)
  /-- SADD_IMM (R234). -/
  | saddImm (f : FmtIS)
  /-- SAND_IMM (R234). -/
  | sandImm (f : FmtIS)
  /-- SSHL_IMM (R234). -/
  | sshlImm (f : FmtIS)
  /-- SSHR_IMM (R234). -/
  | sshrImm (f : FmtIS)
  /-- RCP (R227). -/
  | rcp (f : FmtA)
  /-- RSQ (R227). -/
  | rsq (f : FmtA)
  /-- SQRT (R227). -/
  | sqrt (f : FmtA)
  /-- EX2 (R227). -/
  | ex2 (f : FmtA)
  /-- LG2 (R227). -/
  | lg2 (f : FmtA)
  /-- SIN (R227). -/
  | sin (f : FmtA)
  /-- COS (R227). -/
  | cos (f : FmtA)
  /-- TANH (R227). -/
  | tanh (f : FmtA)
  /-- PLOP (R217). -/
  | plop (f : FmtA) (x : FmtX)
  /-- P2V (R217). -/
  | p2v (f : FmtA)
  /-- V2P (R217). -/
  | v2p (f : FmtA)
  /-- SHFL (R229). -/
  | shfl (f : FmtA) (x : FmtX)
  /-- VOTE (R230). -/
  | vote (f : FmtA) (x : FmtX)
  /-- REDX (R231). -/
  | redx (f : FmtA) (x : FmtX)
  /-- SCAN (R231). -/
  | scan (f : FmtA) (x : FmtX)
  /-- MATCH (R232). -/
  | matchW (f : FmtA) (x : FmtX)
  /-- V2S (R233). -/
  | v2s (f : FmtA)
  /-- LD (R183). -/
  | ld (f : FmtM)
  /-- ST (R183). -/
  | st (f : FmtM)
  /-- ATOM (R184). -/
  | atom (f : FmtM)
  /-- CAS (R185). -/
  | cas (f : FmtM)
  /-- POST (R186). -/
  | post (f : FmtM)
  /-- MIGRATE (R188). -/
  | migrate (f : FmtM)
  /-- MIGRATE_ONE (R188). -/
  | migrateOne (f : FmtM)
  /-- HOME (R189). -/
  | home (f : FmtM)
  /-- LDT (R190). -/
  | ldt (f : FmtM)
  /-- STT (R190). -/
  | stt (f : FmtM)
  /-- CPY (R197). -/
  | cpy (f : FmtE) (c : CopyCtl)
  /-- CPYI (R198). -/
  | cpyi (f : FmtE) (c : CopyCtl)
  /-- CPYS (R198). -/
  | cpys (f : FmtE)
  /-- GATH (R199). -/
  | gath (f : FmtE) (c : GathCtl)
  /-- SCAT (R199). -/
  | scat (f : FmtE) (c : GathCtl)
  /-- FILL (R200). -/
  | fill (f : FmtE)
  /-- SEAL (R203). -/
  | seal (f : FmtE)
  /-- WAITB (R203). -/
  | waitb (f : FmtE)
  /-- MMA (R247). -/
  | mma (f : FmtA) (x : FmtX)
  /-- MLOOP (R250). -/
  | mloop (f : FmtE) (c : MloopCtl)
  /-- MLD (R256). -/
  | mld (f : FmtE)
  /-- MLDT (R256). -/
  | mldt (f : FmtE)
  /-- MST (R259). -/
  | mst (f : FmtE) (c : MstCtl)
  /-- MVACC (R257). -/
  | mvacc (f : FmtA) (x : FmtX)
  /-- MACCV (R257). -/
  | maccv (f : FmtA) (x : FmtX)
  /-- MZERO (R258). -/
  | mzero (f : FmtA)
  /-- MSCL (R258). -/
  | mscl (f : FmtA)
  /-- VRSET (R270). -/
  | vrset (f : FmtE) (c : VrCtl)
  /-- VRRUN (R272). -/
  | vrrun (f : FmtE)
  /-- VRACT (R271). -/
  | vract (f : FmtE)
  /-- BRA (R282). -/
  | bra (f : FmtB)
  /-- BRC (R282). -/
  | brc (f : FmtB)
  /-- CALL (R282). -/
  | call (f : FmtB)
  /-- BRX (R283). -/
  | brx (a : BitVec 7)
  /-- CALLR (R283). -/
  | callr (a : BitVec 7)
  /-- RET (R283). -/
  | ret
  /-- JMPT (R285). -/
  | jmpt (a b : BitVec 7)
  /-- EXIT (R288). -/
  | exitW
  /-- NOP (R289). -/
  | nop
  /-- YIELD (R289). -/
  | yield
  /-- ELECT (R290). -/
  | elect
  /-- ENDE (R290). -/
  | ende
  /-- LBRK (R287). -/
  | lbrk
  /-- LEAVE (R296). -/
  | leave
  /-- LOOP (R286). -/
  | loop (a : BitVec 7) (l : BitVec 8)
  /-- ENTER (R296). -/
  | enter (i : BitVec 16)
  /-- GROW (R297). -/
  | grow (n : BitVec 4)
  /-- SHRINK (R297). -/
  | shrink (n : BitVec 4)
  /-- BAR (R292). -/
  | bar (d : BitVec 6) (a : BitVec 7) (k : BitVec 4) (o : BitVec 3)
  /-- ARRIVE (R292). -/
  | arrive (a : BitVec 7) (k : BitVec 4) (o : BitVec 3)
  /-- AWAIT (R292). -/
  | await (d : BitVec 6) (k : BitVec 4) (o : Bool)
  /-- JOIN (R294). -/
  | join (k : BitVec 4)
  /-- JOINK (R298). -/
  | joink (d : BitVec 6) (a : BitVec 7)
  /-- TRAP (R299). -/
  | trap (c : BitVec 7)
  /-- TRET (R300). -/
  | tret
  /-- GETS (R302). -/
  | gets (d : BitVec 6) (i : BitVec 7)
  /-- SETS (R302). -/
  | sets (i b : BitVec 7)
  /-- HALT (R303). -/
  | halt (c : BitVec 7)
  /-- REPLAY (R301). -/
  | replay
  /-- DUMP (R304). -/
  | dump (c : BitVec 7)
  /-- STEP (R306). -/
  | step (d : BitVec 6) (a b : BitVec 7)
  /-- RDCTX (R307). -/
  | rdctx (d : BitVec 6) (a b : BitVec 7)
  /-- WRCTX (R307). -/
  | wrctx (d : BitVec 6) (a b : BitVec 7)
  /-- RESUME (R308). -/
  | resume (d : BitVec 6) (a b : BitVec 7)
  /-- CLAUSE_FETCH (R119). -/
  | clauseFetch (ctx entry : Nat)
  /-- CHANNEL_FLIT_RECEIVE (R95). -/
  | channelFlitReceive (ch : Nat) (flit : BitVec 576)
  /-- LOAD_RESULT (R182). -/
  | loadResult (op : Nat) (lanes : Mask)
  /-- STORE_PERFORM (R182). -/
  | storePerform (op : Nat) (lanes : Mask)
  /-- ATOMIC_PERFORM (R62). -/
  | atomicPerform (op : Nat)
  /-- POST_PERFORM (R186). -/
  | postPerform (msg : Nat)
  /-- POST_ACK (R153). -/
  | postAck (ack : Nat)
  /-- WAIT_LINE_WAKE (R64). -/
  | waitLineWake (ctx : Nat)
  /-- INV_PAGE (R57). -/
  | invPage (gs vpage pslot : Nat)
  /-- INV_SLOT (R57). -/
  | invSlot (gs pslot : Nat)
  /-- INV_ALL (R57). -/
  | invAll (gs : Nat)
  /-- INVALIDATION_DROP_END (R58). -/
  | invalidationDropEnd (gs : Nat)
  /-- MIGRATION_DEPART (R144). -/
  | migrationDepart (ctx : Nat)
  /-- LANDING_OFFER (R145). -/
  | landingOffer (src dst : Nat)
  /-- LANDING_GRANT (R145). -/
  | landingGrant (gs : Nat)
  /-- ACK_SEND_TIMER (R95). -/
  | ackSendTimer (ch : Nat)
  /-- CONTEXT_LANDING (R146). -/
  | contextLanding (msg : Nat)
  /-- LANDING_ACK (R146). -/
  | landingAck (ack : Nat)
  /-- CONTEXT_PLACE (R147). -/
  | contextPlace (ctx : Nat)
  /-- CORE_TO_CORE_ARRIVAL (R149). -/
  | coreToCoreArrival (ctx : Nat)
  /-- GROUP_SPLIT (R150). -/
  | groupSplit (ctx : Nat)
  /-- VISIT_CHAIN_LEG (R151). -/
  | visitChainLeg (ctx : Nat)
  /-- JOIN_ARRIVAL (R152). -/
  | joinArrival (ctx : Nat)
  /-- RSTACK_EXTENSION_CLAIM (R141). -/
  | rstackExtensionClaim (ctx : Nat)
  /-- DOORBELL (R83). -/
  | doorbell (gs page slot khandle args : Nat)
  /-- BANK_LAUNCH_START (R86). -/
  | bankLaunchStart (gs : Nat)
  /-- BANK_PASS_START (R81). -/
  | bankPassStart (gs : Nat)
  /-- BANK_COLUMN_CYCLE (R66). -/
  | bankColumnCycle (gs : Nat)
  /-- BANK_PASS_END (R74). -/
  | bankPassEnd (gs : Nat)
  /-- ROW_EMULATION_END (R81). -/
  | rowEmulationEnd (gs : Nat)
  /-- BANK_LAUNCH_COMPLETE (R87). -/
  | bankLaunchComplete (gs : Nat)
  /-- TILE_READ_SERVE (R103). -/
  | tileReadServe (msg : Nat)
  /-- TILE_WRITE_SERVE (R103). -/
  | tileWriteServe (msg : Nat)
  /-- COPY_START (R201). -/
  | copyStart (cmd : Nat)
  /-- COPY_SECTOR_ISSUE (R194). -/
  | copySectorIssue (cmd : Nat)
  /-- COPY_SECTOR_LAND (R194). -/
  | copySectorLand (cmd sector : Nat)
  /-- K_STEP_END (R249). -/
  | kStepEnd (cmd : Nat)
  /-- MLOOP_STEP_START (R252). -/
  | mloopStepStart (cmd : Nat)
  /-- MLOOP_FETCH_SECTOR (R253). -/
  | mloopFetchSector (cmd : Nat)
  /-- MLD_START (R256). -/
  | mldStart (cmd : Nat)
  /-- TILE_WORD_COMPLETE (R264). -/
  | tileWordComplete (cmd : Nat)
  /-- MST_START (R262). -/
  | mstStart (cmd : Nat)
  /-- MST_CAPTURE_END (R262). -/
  | mstCaptureEnd (cmd : Nat)
  /-- EPILOGUE_STORE_SECTOR (R264). -/
  | epilogueStoreSector (cmd sector : Nat)
  /-- VRSET_START (R270). -/
  | vrsetStart (cmd : Nat)
  /-- VRACT_START (R271). -/
  | vractStart (cmd : Nat)
  /-- VRRUN_START (R272). -/
  | vrrunStart (cmd : Nat)
  /-- VR_ROW_HANDOFF (R274). -/
  | vrRowHandoff (cmd : Nat)
  /-- VR_ROW_DONE (R273). -/
  | vrRowDone (cmd row : Nat)
  /-- VR_RESULT_PERFORM (R275). -/
  | vrResultPerform (cmd row : Nat)
  /-- BARRIER_ARRIVAL (R291). -/
  | barrierArrival (msg : Nat)
  /-- BARRIER_RELEASE (R295). -/
  | barrierRelease (ctx entry : Nat)
  /-- JOIN_HOLD_TIMEOUT (R285). -/
  | joinHoldTimeout (ctx entry : Nat)
  /-- LOOP_ITERATION (R287). -/
  | loopIteration (ctx : Nat)
  /-- NINTH_PATH_RELEASE (R281). -/
  | ninthPathRelease (ctx entry : Nat)
  /-- GROUP_END (R288). -/
  | groupEnd (ctx : Nat)
  /-- JOINK_ANSWER (R298). -/
  | joinkAnswer (joink : Nat)
  /-- REPORT_DELIVERY (R334). -/
  | reportDelivery (report : Nat)
  /-- LANDING_NOTICE (R334). -/
  | landingNotice (notice : Nat)
  /-- LAUNCH_CHECK (R312). -/
  | launchCheck (launch : Nat)
  /-- TEAM_PLACE (R315). -/
  | teamPlace (gs : Nat)
  /-- PREEMPT (R320). -/
  | preempt (gs : Nat)
  /-- GROUP_EVICT (R340). -/
  | groupEvict (ctx : Nat)
  /-- EVICTION_SAVE_END (R342). -/
  | evictionSaveEnd (save : Nat)
  /-- GROUP_RETURN (R321). -/
  | groupReturn (save : Nat)
  /-- RESTORE_END (R343). -/
  | restoreEnd (save : Nat)
  /-- ACTIVE_FILL (R322). -/
  | activeFill (gc : Nat)
  /-- PENDING_EXCHANGE (R323). -/
  | pendingExchange (gc : Nat)
  /-- PATH_PROMOTION (R324). -/
  | pathPromotion (ctx entry : Nat)
  /-- GROW_EVICTION (R327). -/
  | growEviction (gc : Nat)
  /-- HALT_LINE_ARRIVAL (R336). -/
  | haltLineArrival (stop : Nat)
  /-- STOP_ARRIVAL (R356). -/
  | stopArrival (stop : Nat)
  /-- DUMP_IMAGE_WRITTEN (R370). -/
  | dumpImageWritten (dump : Nat)
  /-- DUMP_PEER_ACK (R371). -/
  | dumpPeerAck (dump : Nat)
  /-- HOST_WRITE (R375). -/
  | hostWrite (pkg bar off : Nat) (data : List Byte)
  /-- HOST_READ (R375). -/
  | hostRead (pkg bar off size : Nat)
  /-- LINK_DOWN (R376). -/
  | linkDown (pkg : Nat) (surprise : Bool)
  /-- LINK_UP (R376). -/
  | linkUp (pkg : Nat)
  /-- HQ_NOP (R379). -/
  | hqNop (pkg q : Nat)
  /-- HQ_LAUNCH (R379). -/
  | hqLaunch (pkg q : Nat)
  /-- HQ_SIGNAL (R379). -/
  | hqSignal (pkg q : Nat)
  /-- HQ_BAD_ENTRY (R379). -/
  | hqBadEntry (pkg q : Nat)
  /-- DEVICE_RESET (R381). -/
  | deviceReset (pkg : Nat) (images : List FwImage)
  /-- SELF_TEST_END (R382). -/
  | selfTestEnd (pkg stks unit code planes : Nat)
  /-- ATT_REPORT_DONE (R385). -/
  | attReportDone (pkg : Nat)
  /-- CAP_EFFECT (R387). -/
  | capEffect (pkg : Nat)
  /-- REGISTER_WRITE (R5). -/
  | registerWrite (gs off size value : Nat)
  /-- RDCTX_COPY_COMPLETE (R307). -/
  | rdctxCopyComplete (cmd : Nat)
  /-- WRCTX_WRITE_END (R307). -/
  | wrctxWriteEnd (cmd : Nat)
  /-- CORE_CYCLE (R369). -/
  | coreCycle (gc : Nat)
  /-- SCRUB_VISIT_START (R77). -/
  | scrubVisitStart (gs bank : Nat)
  /-- SCRUB_VISIT_END (R77). -/
  | scrubVisitEnd (gs bank : Nat)
  /-- SEASON_BOUNDARY (R78). -/
  | seasonBoundary (gs : Nat)
  /-- DRAM_REFRESH (R405). -/
  | dramRefresh (gs bank : Nat)
  /-- SCRUB_CTL_WRITE (R80). -/
  | scrubCtlWrite (gs value : Nat)
  /-- MESH_UNCORRECTABLE (R90). -/
  | meshUncorrectable (pkg : Nat) (owner : Option Nat)
  /-- TABLE_WALK (R55). -/
  | tableWalk (gc pslot va : Nat)
  /-- GRANT_RETURN (R145). -/
  | grantReturn (gs src : Nat)
  /-- REPLAY_TIMEOUT (R95). -/
  | replayTimeout (ch : Nat)
  /-- SPARE_SWITCH (R98). -/
  | spareSwitch (ch : Nat)
  /-- SPARE_SWITCH_END (R98). -/
  | spareSwitchEnd (ch : Nat)
  /-- RETRAIN (R98). -/
  | retrain (ch : Nat) (ok : Bool)
  /-- TRAINING (R99). -/
  | training (ch inc : Nat)
  /-- LOSS_OF_LIGHT (R101). -/
  | lossOfLight (ch : Nat)
  /-- PEER_DOWN (R101). -/
  | peerDown (pkg peer : Nat)
  /-- PRIORITY_AGING (R310). -/
  | priorityAging (launch : Nat)
  /-- CORE_HOT (R316). -/
  | coreHot (gc temp : Nat)
  /-- CORE_COOL (R316). -/
  | coreCool (gc temp : Nat)
  /-- DROOP_EVENT (R316). -/
  | droopEvent (gc : Nat)
  /-- AVOID_EXPIRY (R316). -/
  | avoidExpiry (gc : Nat)
  /-- SCHED_CTL_WRITE (R319). -/
  | schedCtlWrite (gs value : Nat)
  /-- FAULT_RETRY (R331). -/
  | faultRetry (gs place : Nat)
  /-- FAULT_KILL (R331). -/
  | faultKill (gs place : Nat)
  /-- PARTITION_KILL (R337). -/
  | partitionKill (pkg pslot : Nat)
  /-- VCTL_ARM (R353). -/
  | vctlArm (gs core pred value : Nat)
  /-- VCTL_DISARM (R353). -/
  | vctlDisarm (gs core pred value : Nat)
  /-- HALT_REQUEST (R360). -/
  | haltRequest (gs value : Nat)
  /-- HALT_AT_REGION (R360). -/
  | haltAtRegion (gs value : Nat)
  /-- DUMP_REQUEST (R360). -/
  | dumpRequest (gs value : Nat)
  /-- TRACE_ENABLE (R362). -/
  | traceEnable (gs value : Nat)
  /-- TRACE_DISABLE (R362). -/
  | traceDisable (gs value : Nat)
  /-- TRACE_DRAIN_END (R362). -/
  | traceDrainEnd (gs : Nat)
  /-- HIST_CLR (R369). -/
  | histClr (gc : Nat)
  /-- PRIV_AREA_WRITE (R380). -/
  | privAreaWrite (gs off value : Nat)
  /-- ATT_GO (R385). -/
  | attGo (pkg value : Nat)
  /-- MCTP_ATTEST_REQUEST (R385). -/
  | mctpAttestRequest (pkg nonce : Nat)
  /-- PWR_CTL_WRITE (R387). -/
  | pwrCtlWrite (pkg value : Nat)
  /-- SOFT_ERROR (R78). -/
  | softError (gs bank row col : Nat) (uncorrectable : Bool)
  /-- HQ_CTL_WRITE (R378). -/
  | hqCtlWrite (pkg q value : Nat)
  /-- HQ_TAIL_WRITE (R379). -/
  | hqTailWrite (pkg q value : Nat)
  deriving DecidableEq, Repr

end Sys2Proof
end

