-- ==== Sys2Proof/Machine/State.lean ====
section
/-! DEFINITION. The state of the pod: everything the manual gives the machine, as plain data. INVENTORY.md '## State' lists each
piece with the rule that names it and its reset value. Units are named by number: a stack is `gs` = 16 x package + stack, a core is
`gc` = 24 x gs + core; contexts, teams, launches, commands and messages carry handles the model gives out. -/

namespace Sys2Proof.Machine

/-! ## Paths and contexts -/

/-- A latch (06 R110): the result of one word, by lane; a scalar result stands at key 0. -/
structure Latch where
  wide : Bool
  scalar : Bool
  vals : Map (BitVec 64)
  deriving DecidableEq, Repr

/-- The clause a path is in (06 R117, R119): its header's fields and the words still to issue; `wait` clears when the first issues. -/
structure Clause where
  base : Nat
  cls : Nat
  set : Nat
  wait : BitVec 8
  live : BitVec 8
  words : List Word
  /-- Registers of the clause's long-latency writes, each with the handle of its access or command. -/
  longDst : List (Nat × Nat)
  deriving DecidableEq, Repr

/-- Why HOLD is set (13 R281, R285, R287). -/
inductive HoldKind where
  | none
  | join
  | loop
  | ninth
  deriving DecidableEq, Repr

/-- What a path waits for at a boundary. -/
inductive Wait where
  | none
  /-- BAR or AWAIT at barrier `nb` until generation `gen` is released (13 R292); `dst` receives the payload. -/
  | barrier (nb gen : Nat) (dst : Option Nat) (lanes : Mask)
  /-- JOIN at `nb` (13 R294). -/
  | join (nb : Nat)
  /-- A quad collective waits for its meeting (11 R248). -/
  | matrix
  deriving DecidableEq, Repr

/-- One entry of the path table (07 Table 7-1) with what stands beside it on the core. -/
structure Path where
  v : Bool
  pc : Nat
  hold : Bool
  kind : HoldKind
  since : Nat
  mask : Mask
  clause : Option Clause
  latches : List (Option Latch)
  wait : Wait
  stopped : Bool
  lastIssue : Nat
  handler : Bool
  deriving DecidableEq, Repr

/-- An open loop level (13 R286). -/
structure LoopLevel where
  lc : Nat
  start : Nat
  len : Nat
  deriving DecidableEq, Repr

/-- Where a context is (07 R144-R147, 14 R322, 15 R340). -/
inductive Place where
  | pending
  | active
  /-- Left its source; its flits are on the way. -/
  | moving
  /-- Written to the landing area of its destination stack, waiting for a core. -/
  | landed
  /-- Held in a save image. -/
  | saved
  | ended
  deriving DecidableEq, Repr

/-- Why a context leaves its place at the boundary. -/
inductive Leave where
  /-- To perform the word at another home (09 R180). -/
  | access
  /-- To the birth core for an engine clause (07 R142). -/
  | birth
  /-- To the base core for a JOIN (07 R152). -/
  | join
  /-- The next home of a visit chain (07 R151). -/
  | chain
  deriving DecidableEq, Repr

/-- A departure decided and not yet made: the path whose word or boundary asks for it, destination stack, and core where one is named. -/
structure Depart where
  why : Leave
  entry : Nat
  gs : Nat
  core : Option Nat
  deriving DecidableEq, Repr

/-- A park at a faulting word or header (15 R331). -/
structure Park where
  code : Nat
  entry : Nat
  place : Nat
  gs : Nat
  deriving DecidableEq, Repr

/-- A stop that has taken a unit: the stop event and its code (16 R356-R358). -/
structure Stop where
  ev : Nat
  code : Nat
  deriving DecidableEq, Repr

/-- A stop record (15 Table 15-5). -/
structure StopRec where
  unitNo : Nat
  reason : Nat
  cause : Nat
  skid : Nat
  gs : Nat
  core : Nat
  gidx : Nat
  unh : Bool
  dead : Bool
  launch : Nat
  teamLin : Nat
  pc : Nat
  stepNo : Nat
  reg0 : Nat
  reg1 : Nat
  depth : Nat
  cycle : Nat
  addr : Nat
  lanes : Mask
  aux : Nat
  deriving DecidableEq, Repr

/-- A home of a split decided at a boundary by the word of path `entry` (07 R150): stack, core for team space, its lanes. -/
structure SplitPart where
  entry : Nat
  gs : Nat
  core : Option Nat
  lanes : Mask
  deriving DecidableEq, Repr

/-- A POST issued under VISIT (07 R155): its path, code offset and word, and the lanes not yet performed with the address and data the
word read at issue; registers are read again at the visit (18 R388). `held` is a precise firing that keeps the next lane unperformed, which `shown`
has been shown to the predicates. -/
structure VisitPost where
  entry : Nat
  pc : Nat
  word : FmtM
  lanes : List (Nat × Nat × Nat)
  held : Option Nat
  shown : Bool
  deriving DecidableEq, Repr

/-- A step a debug agent asked for (13 R306). -/
structure Stepping where
  entry : Nat
  clause : Bool
  issued : Bool
  deriving DecidableEq, Repr

/-- The stall reasons of 16 Table 16-6 that a context can show. -/
abbrev StallCode := Nat

/-- A group, or a part of a split group: the header of 07 Table 7-1 and what the core holds for it. -/
structure Ctx where
  team : Nat
  launch : Nat
  gidx : Nat
  pslot : Nat
  user : Bool
  debug : Bool
  width : Nat
  walloc : Nat
  live : BitVec 8
  inHandler : Bool
  splitPart : Bool
  haltPend : Bool
  part : Nat
  nparts : Nat
  splitGen : Nat
  leader : Option Nat
  leaderPath : Nat
  birthGc : Nat
  baseGc : Nat
  trap : Nat
  codeBase : Nat
  privBase : Nat
  lanes : Mask
  paths : List Path
  preds : Map Mask
  sregs : Map Word
  sPrev : Map Word
  fstat : Map (BitVec 7)
  /-- Flags of completed engine words by wait slot, lanes and flags: they land when a wait on the slot is met (02 Table 2-7). -/
  slotFlags : List (Nat × Mask × BitVec 7)
  vregs : Map Word
  dead : Map Bool
  rstack : Map (List Word)
  ext : Bool
  wslot : Map Nat
  loops : List LoopLevel
  /-- Registers of the levels above DEPTH, lowest first (07 Table 7-1). -/
  loopRegs : List LoopLevel
  err42 : Bool
  splitB : Nat
  visit : Bool
  ftz : Bool
  seed : Word
  scnt : Word
  rdepth : Nat
  region : Map (BitVec 16)
  anchor : Nat
  fcause : Word
  faddr : BitVec 64
  fpc : Word
  flanes : BitVec 64
  place : Place
  gc : Nat
  slotNo : Nat
  stall : StallCode
  since : Nat
  depart : Option Depart
  split : List SplitPart
  chain : List (Nat × Option Nat)
  chainEntry : Nat
  chainDone : Mask
  /-- Sectors of a lane's LDT or STT run performed at the stops so far (09 R190). -/
  chainSec : Map Nat
  /-- Addresses at issue of the lanes whose runs the stops have begun. -/
  chainAddr : Map Nat
  /-- The chain's word is an acquire (08 R165). -/
  chainAcq : Bool
  visits : List VisitPost
  parked : Option Park
  stop : Option Stop
  pathStop : Option Stop
  /-- The record of a group that is stopped, or of which a path is; a new place of the group takes it (16 R407). -/
  stopRec : Option StopRec
  step : Option Stepping
  lineWait : List Nat
  grow : Nat
  coll : Nat
  lastArr : Map Nat
  bornAt : Nat
  activeAt : Nat
  atRegion : Bool
  /-- A post of the group was lost, and no release has yet waited on it (05 Table 5-4). -/
  lost : Bool
  /-- Path, code offset and stage (false the execute class, true its accesses) of the word a precise core firing kept from issuing: it is not
  shown again (16 R351, R355). -/
  seen : Option (Nat × Nat × Bool)
  /-- The path that stopped at its word, none of whose clause has issued: a precise core firing or a dead register (16 R355, 07 R143). -/
  atWord : Option Nat
  /-- Code of a fault met while the halt line's stop was on its way, 0 for none (15 R337). -/
  met : Nat
  /-- Handle given out at its last join: posts sent before it are its parts' own (08 R169, 18 R390). -/
  joinedAt : Nat
  /-- Handle of the window set the context stands in: parts of a split share one on the core where they formed (07 R150). -/
  win : Nat
  /-- Cycle of the group's last issue, whichever path it was (14 R324). -/
  lastIssue : Nat
  deriving DecidableEq, Repr

/-! ## Memory accesses and messages under way -/

/-- What an access does at its home (08 Table 8-1). -/
inductive AccKind where
  | load
  | store
  | atom
  | cas
  deriving DecidableEq, Repr

/-- One lane's element of an access: `n` bytes at reference `pa`; `reg` is the first register it fills; `va` is one more than its
global virtual address, 0 in the other spaces; `leaf` is the size of the leaf that translated it, in bits (03 R58); `shown`: a precise firing
has held it, so it is not shown to those predicates again (16 R351). -/
structure LaneAcc where
  lane : Nat
  pa : Nat
  n : Nat
  reg : Nat
  data : Nat
  cmp : Nat
  va : Nat
  leaf : Nat
  shown : Bool
  deriving DecidableEq, Repr

/-- A memory word issued at its home and not yet performed in every lane (08 R157, 09 R182); `region` is the top region id at issue. -/
structure Access where
  id : Nat
  ctx : Nat
  entry : Nat
  kind : AccKind
  sz : Nat
  lanes : List LaneAcc
  slot : Option Nat
  acquire : Bool
  held : Option Nat
  /-- Held until its issuer resumed: it performs before the issuer's next word (16 R355). -/
  due : Bool
  region : Nat
  deriving DecidableEq, Repr

/-- A posted operation in flight (07 R153, 09 R186); `teamOff` is one more than its team-space offset, `va` one more
than its global virtual address, each 0 in the other spaces; `leaf` as for an access. -/
structure PostMsg where
  team : Nat
  gidx : Nat
  part : Nat
  splitGen : Nat
  launch : Nat
  pslot : Nat
  region : Nat
  lane : Nat
  op : Nat
  pa : Nat
  data : Nat
  teamOff : Nat
  va : Nat
  leaf : Nat
  deriving DecidableEq, Repr

/-- What travels on an ordered channel from one stack to another (08 R162). -/
inductive MsgBody where
  | post (p : PostMsg)
  | context (ctx flits : Nat)
  | tileRead (cmd : Nat) (sectors : List Nat)
  | tileWrite (cmd : Nat) (sectors : List Nat)
  /-- A dump image streamed to the peer (16 R371). -/
  | dump (id flits : Nat)
  /-- A host write, or the store of a queue's SIGNAL with its queue and vector, that a precise firing holds at its home (16 R355). -/
  | hostWrite (pslot ref : Nat) (data : List Byte) (queue : Option (Nat × Option Nat))
  deriving DecidableEq, Repr

structure Msg where
  id : Nat
  src : Nat
  dst : Nat
  body : MsgBody
  held : Option Nat
  due : Bool
  /-- A precise firing has held it: it is not shown again (16 R351). -/
  shown : Bool
  /-- Counted lost at its source, so no reply is owed (05 Table 5-4). -/
  lost : Bool
  deriving DecidableEq, Repr

/-- A post acknowledgement on its way (07 R153, R154) from stack `src` to stack `dest`. -/
structure Ack where
  id : Nat
  src : Nat
  team : Nat
  gidx : Nat
  part : Nat
  splitGen : Nat
  dest : Nat
  lost : Bool
  /-- Discarded at its source, whose package lost the peer; only the issuer's own loss of its peer settles it (05 Table 5-4). -/
  dropped : Bool
  deriving DecidableEq, Repr

/-- A landing acknowledgement (07 R146) from stack `src`: the source core, the granules it frees there, and the context the source still
keeps. -/
structure LandAck where
  id : Nat
  src : Nat
  ctx : Nat
  srcGc : Nat
  granules : Nat
  copy : Ctx
  deriving DecidableEq, Repr

/-- The one-flit notice of a landing to the birth core (15 R334). -/
structure Notice where
  id : Nat
  team : Nat
  gidx : Nat
  gs : Nat
  deriving DecidableEq, Repr

/-- A barrier arrival on its way from stack `src` to the base core (13 R291, R292). -/
structure BarMsg where
  id : Nat
  src : Nat
  team : Nat
  gidx : Nat
  nb : Nat
  lanes : Mask
  op : Nat
  value : Option Word
  flags : BitVec 7
  deriving DecidableEq, Repr

/-- A barrier release on its way from the base core's stack `src` to the stack `dst` of a context that waits for generation `gen` (13 R292,
R295). -/
structure RelMsg where
  id : Nat
  src : Nat
  dst : Nat
  ctx : Nat
  nb : Nat
  gen : Nat
  deriving DecidableEq, Repr

/-- A JOINK waiting on a notify slot (13 R298). -/
structure JoinkWait where
  id : Nat
  ctx : Nat
  gs : Nat
  nslot : Nat
  dst : Nat
  slot : Nat
  deriving DecidableEq, Repr

/-- What a stop names (16 Table 16-3, 15 Table 15-4). -/
inductive UnitId where
  | group (ctx : Nat)
  | path (ctx entry : Nat)
  | copyEngine (gc : Nat)
  | matrixUnit (gc : Nat)
  | valueRun (gc : Nat)
  | bankUnits (gs : Nat)
  /-- One bank launch of a stack, for a request that names it (16 R360). -/
  | bankRun (gs launch : Nat)
  /-- FAULT_STAT.HALTED of a stack (15 R332, R336). -/
  | stackLine (gs : Nat)
  deriving DecidableEq, Repr

/-- A stop travelling from stack `src` to a unit (16 R356, 15 R336), which stood in package `pkg`; `skid` counts what the unit did since the
firing, or since the stop reached it, `first` is the fatal code of a halt line; `reached`: it is at its unit, which may still do what its
bound allows (15 Table 15-4), and `spent` are the paths whose word is spent. -/
structure StopMsg where
  id : Nat
  src : Nat
  ev : Nat
  target : UnitId
  code : Nat
  aux : Nat
  addr : Nat
  lanes : Mask
  unhandled : Bool
  line : Bool
  pslot : Nat
  skid : Nat
  first : Nat
  pkg : Nat
  reached : Bool
  spent : List Nat
  deriving DecidableEq, Repr

/-- An engine report (15 R334): what it loads, which command's parked elements it names, and where it is: sent to the stack `sentTo` as
message `msg`, or at the birth core until `after` landings of its group have been noted there. -/
structure Report where
  id : Nat
  cmd : Nat
  team : Nat
  gidx : Nat
  code : Nat
  cause : Nat
  level : Nat
  acls : Nat
  qpos : Nat
  addr : Nat
  pc : Nat
  detail : Nat
  lane : Nat
  receiver : Option Nat
  sentTo : Option Nat
  msg : Nat
  after : Nat
  deriving DecidableEq, Repr

/-! ## Engine commands -/

/-- A byte interval of a core-local region (09 R192): 0 scratchpad, 1 accumulator storage, 2 scale memory. -/
structure Range where
  region : Nat
  lo : Nat
  hi : Nat
  deriving DecidableEq, Repr

/-- Where an element of a command stands. -/
inductive ElemSt where
  | waiting
  /-- Its read or write is on its way to another package (05 R103). -/
  | sent
  | read
  | parked (cause report : Nat)
  | done
  deriving DecidableEq, Repr

/-- A destination sector of a copy or an epilogue store: pieces (offset in the sector, source address, bytes) while it is still to be read, and
the bytes read. -/
structure Sector where
  dst : Nat
  pieces : List (Nat × Nat × Nat)
  st : ElemSt
  data : List (Nat × Byte)
  bits : List (Nat × Bool)
  poison : Bool
  /-- A reply from the home it was read or written at, on its way: message and home stack (05 R103). -/
  reply : Option (Nat × Nat)
  /-- Of a sector under way or held: a handle given out at its probe, and the size in bits of the leaf it went through (03 R58). -/
  probed : Option (Nat × Nat)
  /-- Of a sector under way to another package: the references its probe found, one for each part (05 R103). -/
  refs : List Nat
  /-- Event number of the precise firing that holds it unperformed (16 R355). -/
  held : Option Nat
  /-- How many of its looks at the predicates are made: those before a precise firing, and the firing's own, are not made again (16 R351). -/
  shown : Nat
  /-- It holds an entry of the replay queue until it performs or is discarded (15 R333). -/
  queued : Bool
  deriving DecidableEq, Repr

/-- The copy words (09 Table 9-7). -/
inductive CopyForm where
  | cpy
  | cpyi
  | cpys
  | gath
  | scat
  | fill
  deriving DecidableEq, Repr

/-- A copy as issued: spaces (0 global, 1 team, 2 stack, 3 refused), bases, the operands of Table 9-7, CPY's descriptor. -/
structure CopyOp where
  form : CopyForm
  srcSp : Nat
  dstSp : Nat
  src : Nat
  dst : Nat
  bytes : Nat
  rows : Nat
  pitch : Nat
  list : Nat
  idx16 : Bool
  ord : Bool
  pattern : Word
  desc : List Word
  batch : Option Nat
  lines : List Nat
  stripe : Bool
  deriving DecidableEq, Repr

/-- One group's share of a quad collective (11 R248, R250): quad position, tile, mode, fade scalar, images or bases. -/
structure QuadPart where
  q : Nat
  gidx : Nat
  ctx : Nat
  live : Bool
  votes : Bool
  lanes : Mask
  tile : Nat
  md : Nat
  sk : Word
  slot : Nat
  a : List Byte
  b : List Byte
  aBase : Nat
  bBase : Nat
  desc : Nat
  dwords : List Word
  pc : Nat
  lane : Nat
  flags : BitVec 7
  deriving DecidableEq, Repr

/-- The value-run configuration record (12 R268). -/
structure VrCfg where
  valid : Bool
  bsel : Nat
  afmt : Bool
  vfmt : Nat
  ofmt : Bool
  acc : Bool
  actBase : Nat
  dstBase : Nat
  k : Nat
  rows : Nat
  codebook : List Nat
  deriving DecidableEq, Repr

/-- A row of a VRRUN: in a queue (0-7), multiplied with its results, parked, or to be read again (queue 8) (12 R274, R277). -/
structure VrRow where
  index : Nat
  off : Nat
  queue : Nat
  groups : List (Nat × List Nat)
  results : Option (List Word)
  flags : BitVec 7
  parked : Option (Nat × Nat)
  /-- It holds an entry of the replay queue until it performs or is discarded (15 R333). -/
  queued : Bool
  deriving DecidableEq, Repr

/-- A tile word's own data (11 R255-R258). -/
inductive TileOp where
  | mld (transpose : Bool) (tile off pitch ty : Nat)
  | mvacc (tile part : Nat) (vals : List (Nat × Word))
  | maccv (tile part dst : Nat) (lanes : Mask)
  | mzero (tile : Nat) (word : Word) (rows : List Nat)
  | mscl (tile : Nat) (factors : List (Nat × Word)) (lanes : Mask)
  deriving DecidableEq, Repr

/-- The kinds of engine command. -/
inductive CmdKind where
  | copy (c : CopyOp)
  | mma (fmt : Word) (parts : List QuadPart)
  | mloop (fmt : Word) (n : Nat) (step : Nat) (parts : List QuadPart)
  | tile (t : TileOp)
  | mst (c : MstCtl) (tile dst pitch s : Nat) (scale seed scnt : Word)
  | vrset (cfg : VrCfg) (cb : Nat)
  | vract (act dst : Nat)
  | vrrun (space base len next : Nat) (cfg : VrCfg) (rows : List VrRow) (stopAt : Option (Nat × Nat))
  | rdctx (target buf : Nat) (bytes : List Byte) (dst : Nat)
  | wrctx (target buf entry dst : Nat)
  deriving DecidableEq, Repr

/-- An engine command held by a core (09 R191, R192). `capture`: an MST holds a capture entry, a step of a collective runs. `region` is
the top region id at issue (16 R350); `also` are the other parts of a group that split after the issue; `readyAt` is the cycle since
which a step waits for the arrays (11 R237). -/
structure Cmd where
  id : Nat
  gc : Nat
  team : Nat
  gidx : Nat
  ctx : Nat
  lane : Nat
  pc : Nat
  slot : Option Nat
  kind : CmdKind
  entry : Bool
  started : Bool
  reads : List Range
  writes : List Range
  sectors : List Sector
  flags : BitVec 7
  capture : Bool
  saved : Bool
  stop : Option Stop
  region : Nat
  also : List Nat
  readyAt : Option Nat
  /-- The operation of the command that a precise firing held, and how many of its looks at the predicates are made (16 R351). -/
  seen : Option (Nat × Nat)
  deriving DecidableEq, Repr

/-! ## Teams and launches -/

/-- Named-barrier record (13 R291). -/
structure BarRec where
  gen : Nat
  arrived : Map Mask
  op : Nat
  clash : Bool
  vals : List (Nat × Word)
  flags : BitVec 7
  results : Map (Word × BitVec 7)
  deriving DecidableEq, Repr

/-- Batch counters of a lane (09 R195); `pend` counts the copies of each sealed batch still performing, key 0 the open ones. -/
structure Batch where
  opn : Nat
  last : Nat
  done : Nat
  pend : Map Nat
  deriving DecidableEq, Repr

/-- A resident or evicted team. -/
structure Team where
  launch : Nat
  lin : Nat
  x : Nat
  y : Nat
  z : Nat
  baseGc : Nat
  pair : Bool
  firstLine : Nat
  scratch : Nat
  mslots : List (Nat × Nat)
  groups : Nat
  left : List Nat
  bars : Map BarRec
  joins : Map (List Nat)
  batches : Map Batch
  vrcfg : Map VrCfg
  landedAt : Map Nat
  /-- Landings of each group noted at its birth core (15 R334). -/
  noted : Map Nat
  saved : Option Nat
  deriving DecidableEq, Repr

/-- Where a launch came from (14 R309). -/
inductive LaunchSrc where
  | notify (gs nslot : Nat)
  | queue (pkg q : Nat)
  deriving DecidableEq, Repr

/-- STATE of COMP (04 Table 4-9). -/
inductive LState where
  | idle
  | queued
  | running
  | done
  | refused
  deriving DecidableEq, Repr

/-- The device kernel descriptor (14 Table 14-1). -/
structure Desc where
  width : Nat
  regs : Nat
  team : Nat
  pair : Bool
  quad : Bool
  debug : Bool
  agent : Bool
  killsib : Bool
  priority : Nat
  ceiling : Nat
  split : Nat
  code : Nat
  entry : Nat
  trap : Nat
  scratch : Nat
  priv : Nat
  gx : Nat
  gy : Nat
  gz : Nat
  hstride : Nat
  hintarg : Nat
  hinten : Bool
  deriving DecidableEq, Repr

/-- A launch of the package `pkg` (14 R309-R318). -/
structure Launch where
  src : LaunchSrc
  pkg : Nat
  gs : Nat
  id : Nat
  khandle : Nat
  args : Nat
  pslot : Nat
  user : Bool
  state : LState
  status : Nat
  finfo : Nat
  checked : Bool
  bank : Bool
  desc : Desc
  prio : Nat
  agedAt : Nat
  served : Nat
  nextTeam : Nat
  ended : Nat
  killed : Bool
  bornStopped : Bool
  flags : Nat
  emulated : Nat
  skipped : Nat
  deriving DecidableEq, Repr

/-! ## Stacks -/

/-- Where a translation leaf was found: slot, page base, size in bits, the entry and its level (03 R55). -/
structure TlbEntry where
  pslot : Nat
  page : Nat
  size : Nat
  entry : BitVec 64
  deriving DecidableEq, Repr

/-- A forwarding entry (07 R154). -/
structure Fwd where
  team : Nat
  gidx : Nat
  part : Nat
  splitGen : Nat
  next : Nat
  k : Nat
  deriving DecidableEq, Repr

/-- A unit of the remote pool granted to a source stack (07 R145). -/
structure Grant where
  src : Nat
  id : Nat
  used : Nat
  idleSince : Nat
  deriving DecidableEq, Repr

/-- The state of a bank unit (04 Table 4-1); each latch is 32 bytes, as a number of 256 bits. -/
structure BankUnit where
  f : BitVec 256
  a : BitVec 256
  b : Map (BitVec 256)
  deriving DecidableEq, Repr

/-- How a bank takes the pass in progress (04 R81). -/
inductive BankMode where
  | native
  | emulated
  | skipped
  deriving DecidableEq, Repr

/-- A bank launch: queued, then running (04 R65-R88). -/
structure BankRun where
  launch : Nat
  started : Bool
  words : List (BitVec 64)
  rowBase : Nat
  rowPa : Nat
  chunks : List Nat
  rper : Nat
  dper : Nat
  rbase : Nat
  dbase : Nat
  aout : Nat
  q : Map (BitVec 256)
  pass : Nat
  col : Nat
  inPass : Bool
  modes : Map BankMode
  /-- Columns written by the pass in progress, by 256 x bank + column: the pass reaches the rows as one step (04 R75). -/
  writes : Map (BitVec 256)
  emuDone : List Nat
  units : Map BankUnit
  reds : List (Nat × Nat × BitVec 256)
  flags : BitVec 7
  emulated : Nat
  skipped : Nat
  firstPoison : Option Nat
  stop : Option Stop
  /-- Handle given out at its checks, and the leaf size in bits of each chunk (03 R58). -/
  probed : Nat
  leaves : List Nat
  deriving DecidableEq, Repr

/-- A stream write of a bank launch that waits at its home for a pass or a firing (04 R75, R76; 16 R355); `id`, `va` and `leaf` as for an
access. -/
structure StreamWait where
  src : Nat
  launch : Nat
  pslot : Nat
  ref : Nat
  data : BitVec 256
  held : Option Nat
  shown : Bool
  id : Nat
  va : Nat
  leaf : Nat
  deriving DecidableEq, Repr

/-- A vigil predicate (16 Table 16-1, Table 16-2). -/
structure Pred where
  vctl : BitVec 64
  lo : BitVec 64
  hi : BitVec 64
  val : BitVec 64
  matches_ : Nat
  remain : Nat
  err : Bool
  fired : Bool
  deriving DecidableEq, Repr

/-- A notify slot (04 Table 4-9): the launch it last accepted (0: none), whose record holds the other fields, and DROP. -/
structure NSlot where
  launch : Nat
  drop : Bool
  deriving DecidableEq, Repr

/-- An invalidation waiting or running (03 R57); `mark` is the first handle given out after its entries were dropped, 0 before. -/
structure Inval where
  scope : Nat
  vpage : Nat
  pslot : Nat
  mark : Nat
  deriving DecidableEq, Repr

/-- A request deferred to the next region word (16 R360). -/
structure AtReg where
  rid : Option Nat
  scope : Nat
  gidx : Nat
  launch : Nat
  teamLin : Nat
  deriving DecidableEq, Repr

/-- A live dump under way (16 R370, R371). -/
structure Dump where
  id : Nat
  gs : Nat
  pslot : Nat
  seq : Nat
  team : Nat
  /-- The one group dumped, or all of the team. -/
  group : Option Nat
  /-- Bytes of its image as the request found it, and from its writing on as it stands in the ring. -/
  bytes : Nat
  off : Nat
  toPeer : Bool
  written : Bool
  /-- The peer has written it, and its acknowledgements are on their way as this message (16 R371). -/
  reply : Option Nat
  ev : Nat
  deriving DecidableEq, Repr

/-- Registers and units of one stack. -/
structure Stack where
  xlatRoot : Map (BitVec 64)
  invQueue : List Inval
  invErr : Bool
  tlb : List TlbEntry
  season : Nat
  inforce : Nat
  seasons : Nat
  unclean : Map Bool
  poisoned : Map Bool
  certified : Map Bool
  /-- Struck columns of a row: column, whether uncorrectable, and what stands stored there (04 R78). -/
  errs : Map (List (Nat × Bool × Nat))
  visiting : Map Nat
  nextRow : Map Nat
  openRow : Map Nat
  bankQueue : List BankRun
  /-- A stop that holds the bank units whatever they run (16 R356). -/
  bankStop : Option Stop
  /-- Stream writes that wait at this home. -/
  streams : List StreamWait
  nslots : Map NSlot
  credit : Map Nat
  grants : List Grant
  /-- Landing offers, oldest first: source stack and message. -/
  offers : List (Nat × Nat)
  landing : List (Nat × Nat × Nat)
  fwd : List Fwd
  tcool : Nat
  thot : Nat
  stopBase : BitVec 64
  flogBase : BitVec 64
  flogHead : Nat
  flogLost : Nat
  flogTail : Nat
  saveBase : BitVec 64
  saveSize : Nat
  /-- Fatal codes seen since the kills of their partitions, oldest first: process slot and code (FIRST is the oldest). -/
  firsts : List (Nat × Nat)
  retryErr : Bool
  /-- Halt lines that stand raised: process slot and event (HALTED). -/
  lines : List (Nat × Nat)
  recs : Map StopRec
  recCtx : Map Nat
  privBase : BitVec 64
  privSize : Nat
  privUsed : List (Nat × Nat × Nat)
  preds : Map Pred
  htgt : BitVec 64
  dbgErr : Bool
  atReg : Option AtReg
  trcCores : BitVec 24
  trcIdle : Bool
  trcWrap : Bool
  trcEn : Bool
  trcBase : BitVec 64
  trcSize : Nat
  trcHead : Nat
  trcLost : Nat
  trcLostNew : Nat
  trcOpen : List Nat
  trcClock : Map Nat
  trcCoreSeen : List Nat
  dmpBase : Map (BitVec 64)
  dmpSize : Map Nat
  dmpTail : Map Nat
  dmpHead : Map Nat
  dmpPkg : Nat
  dmpPeer : Bool
  dmpPaddr : BitVec 64
  dmpPsize : Nat
  dmpDrop : Nat
  dmpSeq : Nat
  deriving DecidableEq, Repr

/-! ## Cores -/

/-- Registers and storage of one core. -/
structure Core where
  cycle : Nat
  tlb : List TlbEntry
  preds : Map Pred
  hist : Map Nat
  temp : Nat
  hot : Bool
  coolSince : Option Nat
  avoid : Bool
  droops : List Nat
  tiles : Map Word
  marks : Map Bool
  scale : Map Byte
  /-- Windows that stay taken for a context under way: its handle, the key of its window set, and the granules (07 R146, R149). -/
  leaving : List (Nat × Nat × Nat)
  engStop : Map Stop
  /-- Halt-line stops that have reached an engine, by 16 x unit + process slot: a command made later is stopped too (15 R336). -/
  lineStop : Map Stop
  /-- Matrix slot the arrays served last, plus one, and the cycle at which each slot was served last (11 R237). -/
  arrayLast : Nat
  servedAt : Map Nat
  promoted : List Nat
  deriving DecidableEq, Repr

/-! ## Packages -/

/-- A channel flit (05 Table 5-1): header fields and payload; `tag` is the handle of the message it belongs to, no part of the flit. -/
structure Flit where
  seq : Nat
  inc : Nat
  dstk : Nat
  kind : Nat
  payload : BitVec 512
  tag : Nat
  deriving DecidableEq, Repr

/-- One end of the channels between a package and a peer on one plane (05 R95-R99). `queue` waits for room in the retry buffer; `nakSeq` is
what the last NAK named; `dark` is a loss of light; `round` counts trainings and `prev` is what the end expected before the last. -/
structure Link where
  trained : Bool
  expect : Nat
  nakOut : Bool
  nextSeq : Nat
  retry : List Flit
  replays : Nat
  sinceAck : Nat
  deliveredAt : Nat
  lastHeard : Nat
  up : Bool
  spare : Bool
  switching : Bool
  out : List Flit
  queue : List Flit
  nakSeq : Option Nat
  dark : Bool
  training : Bool
  round : Nat
  prev : Nat
  deriving DecidableEq, Repr

/-- What a package records of a peer (05 Table 5-5). -/
structure Peer where
  pinc : Nat
  reinc : Bool
  deriving DecidableEq, Repr

/-- A host queue (17 Table 17-2). -/
structure HostQ where
  base : BitVec 64
  log2n : Nat
  stack : Nat
  pslot : Nat
  user : Bool
  en : Bool
  tail : Nat
  head : Nat
  err : Bool
  last : Nat
  deriving DecidableEq, Repr

/-- An almanac entry (17 Table 17-5). -/
structure Almanac where
  index : Nat
  mr : Nat
  image : Nat
  sigOk : Bool
  version : Nat
  digest : BitVec 512
  deriving DecidableEq, Repr

/-- Boot state (17 Table 17-4). -/
inductive BootState where
  | testing
  | ready
  | safe
  deriving DecidableEq, Repr

/-- Registers and units of one package. -/
structure Pkg where
  stripe : Bool
  inc : Nat
  incStored : Nat
  stale : Nat
  lostp : Nat
  peers : Map Peer
  links : Map Link
  replays : Map Nat
  badkind : Map Nat
  dup : Map Nat
  crcerr : Map Nat
  delivered : List (Nat × Flit)
  /-- Flits handed over so far of each message under way to the package (05 R92). -/
  got : Map Nat
  launchNo : Nat
  queues : Map HostQ
  lostw : Nat
  downs : Nat
  surprise : Bool
  linkUp : Bool
  msix : List Nat
  boot : BootState
  endorsed : Bool
  planesBad : BitVec 8
  failUnit : Nat
  failStks : BitVec 16
  failCode : Nat
  mrs : Map (BitVec 512)
  almanac : List Almanac
  attNonce : BitVec 256
  attBuf : BitVec 64
  attEcode : Nat
  attErr : Bool
  attDone : Bool
  attBusy : Bool
  /-- Nonce and buffer of the report being made. -/
  attReqNonce : BitVec 256
  attReqBuf : BitVec 64
  attLen : Nat
  mctpOut : List (List Byte)
  cap : Nat
  capWanted : Option Nat
  hostReads : List (Nat × Nat × List Byte)
  deriving DecidableEq, Repr

/-! ## Save images -/

/-- Phases of a save image (15 R340-R343). -/
inductive SavePhase where
  | saving
  | saved
  | restoring
  deriving DecidableEq, Repr

/-- A save image (15 Table 15-6): whole team (KIND 1) or groups only (KIND 2), `units` of 64 KiB from unit `off` of the save region. It has
room for `parts` contexts of each group of `groups`; `taken` are in it, `want` still to be saved, `coming` being restored. `offs` are the
offsets of its sections, the directory first, and `ctxOffs` the offset and size of each context. What it holds stands in memory. -/
structure SaveImg where
  id : Nat
  whole : Bool
  team : Nat
  gs : Nat
  off : Nat
  units : Nat
  phase : SavePhase
  taken : List Nat
  want : List Nat
  groups : List Nat
  parts : Nat
  coming : List Nat
  offs : List Nat
  ctxOffs : Map (Nat × Nat)
  deriving DecidableEq, Repr

/-! ## The whole state -/

/-- Who moves next, as data: the issue stage of a core (position 0, or position 1 of the same cycle), or another agent. -/
inductive Move where
  | issue (gc : Nat)
  | issueSecond (gc : Nat)
  | event (i : Instr)
  deriving DecidableEq, Repr

/-- The context and path whose word is being issued, whether it is the word of position 1 (14 R324), the class of the word last issued in
position 0, and what the cycle chose for position 1. -/
structure Cursor where
  ctx : Nat
  entry : Nat
  second : Bool
  cls : Nat
  pair : Option (Nat × Nat)
  deriving DecidableEq, Repr

/-- The pod. -/
structure State where
  mem : List Host.Cell
  poison : Map Bool
  absent : Map Bool
  pkgs : Map Pkg
  stks : Map Stack
  cores : Map Core
  launches : Map Launch
  teams : Map Team
  ctxs : Map Ctx
  accs : List Access
  chan : List Msg
  acks : List Ack
  landAcks : List LandAck
  notices : List Notice
  bars : List BarMsg
  rels : List RelMsg
  joinks : List JoinkWait
  stops : List StopMsg
  reports : List Report
  cmds : List Cmd
  saves : List SaveImg
  dumps : List Dump
  cursor : Cursor
  agenda : List Move
  nextId : Nat
  freeCount : Nat
  deriving DecidableEq, Repr

/-! ## Reset -/

/-- A predicate at reset (16 Table 16-1). -/
def Pred.reset : Pred := ⟨0, 0, 0, 0, 0, 0, false, false⟩

/-- A notify slot at reset (04 Table 4-9). -/
def NSlot.reset : NSlot := ⟨0, false⟩

/-- A stack at reset (03 R57, 04 R80, 14 R319, 15 R332, 16 R372, 17 R380). -/
def Stack.reset : Stack where
  xlatRoot := []
  invQueue := []
  invErr := false
  tlb := []
  season := 2
  inforce := 2
  seasons := 0
  unclean := []
  poisoned := []
  certified := []
  errs := []
  visiting := []
  nextRow := []
  openRow := []
  bankQueue := []
  bankStop := none
  streams := []
  nslots := []
  credit := []
  grants := []
  offers := []
  landing := []
  fwd := []
  tcool := 89
  thot := 95
  stopBase := 0
  flogBase := 0
  flogHead := 0
  flogLost := 0
  flogTail := 0
  saveBase := 0
  saveSize := 0
  firsts := []
  retryErr := false
  lines := []
  recs := []
  recCtx := []
  privBase := 0
  privSize := 0
  privUsed := []
  preds := []
  htgt := 0
  dbgErr := false
  atReg := none
  trcCores := 0
  trcIdle := true
  trcWrap := false
  trcEn := false
  trcBase := 0
  trcSize := 0
  trcHead := 0
  trcLost := 0
  trcLostNew := 0
  trcOpen := []
  trcClock := []
  trcCoreSeen := []
  dmpBase := []
  dmpSize := []
  dmpTail := []
  dmpHead := []
  dmpPkg := 0
  dmpPeer := false
  dmpPaddr := 0
  dmpPsize := 0
  dmpDrop := 0
  dmpSeq := 0

/-- A core at reset (14 R319, 16 R368, R369). -/
def Core.reset : Core where
  cycle := 0
  tlb := []
  preds := []
  hist := []
  temp := 0
  hot := false
  coolSince := none
  avoid := false
  droops := []
  tiles := []
  marks := []
  scale := []
  leaving := []
  engStop := []
  lineStop := []
  arrayLast := 0
  servedAt := []
  promoted := []

/-- A channel before training (05 R99). -/
def Link.reset : Link := ⟨false, 0, false, 0, [], 0, 0, 0, 0, false, false, false, [], [], none, false, false, 0, 0⟩

/-- A host queue at reset: every field 0 but USER (17 Table 17-2). -/
def HostQ.reset : HostQ := ⟨0, 0, 0, 0, true, false, 0, 0, false, 0⟩

/-- A package right after its first reset (05 R99, R104, 17 R377, R382, R385, R387). -/
def Pkg.reset : Pkg where
  stripe := false
  inc := 1
  incStored := 1
  stale := 0
  lostp := 0
  peers := []
  links := []
  replays := []
  badkind := []
  dup := []
  crcerr := []
  delivered := []
  got := []
  launchNo := 0
  queues := []
  lostw := 0
  downs := 0
  surprise := false
  linkUp := false
  msix := []
  boot := .testing
  endorsed := false
  planesBad := 0
  failUnit := 0
  failStks := 0
  failCode := 0
  mrs := []
  almanac := []
  attNonce := 0
  attBuf := 0
  attEcode := 0
  attErr := false
  attDone := false
  attBusy := false
  attReqNonce := 0
  attReqBuf := 0
  attLen := 0
  mctpOut := []
  cap := 0
  capWanted := none
  hostReads := []

/-- The pod right after reset: every unit at its reset value, memory with nothing listed, nothing under way. -/
def State.reset : State where
  mem := []
  poison := []
  absent := []
  pkgs := []
  stks := []
  cores := []
  launches := []
  teams := []
  ctxs := []
  accs := []
  chan := []
  acks := []
  landAcks := []
  notices := []
  bars := []
  rels := []
  joinks := []
  stops := []
  reports := []
  cmds := []
  saves := []
  dumps := []
  cursor := ⟨0, 0, false, 0, none⟩
  agenda := []
  nextId := 1
  freeCount := 0

/-! ## Stops of the model -/

/-- Why a step stops with a fault. -/
inductive Fault where
  /-- A word's meaning was run with no context and path under the cursor: raised by every instruction word, only in states in
  which no group issues. Safe: no run issues such a word. -/
  | noIssuer
  deriving DecidableEq, Repr

/-- Why a step has no meaning. -/
inductive Refusal where
  /-- An instruction the model gives no meaning (yet): raised by exec's arm of that instruction alone. Safe. -/
  | notModelled (mnemonic : String)
  /-- The agenda names an instruction word as an event; words issue only through a core's issue stage: raised by step. Safe. -/
  | notAnEvent
  deriving DecidableEq, Repr

end Sys2Proof.Machine
end

