-- ==== Sys2Proof/Machine/Ops.lean ====
section
/-! DEFINITION. The named operations over units, memory, records and paths that every meaning is written in, with taking an
exception (13 R299) and returning from one (13 R300). -/

namespace Sys2Proof.Machine

/-- What exec and step answer. -/
abbrev Out := Host.Outcome State Fault Refusal

/-! ## Units by number -/

/-- Package of a stack. -/
def pkgOf (gs : Nat) : Nat := gs / 16

/-- Stack of a core. -/
def gsOf (gc : Nat) : Nat := gc / 24

/-- Core number within its stack. -/
def coreNo (gc : Nat) : Nat := gc % 24

/-- Physical address of a location of a stack (03 R48). -/
def paOf (gs loc : Nat) : Nat := gs * 2 ^ 42 + loc

/-- Home stack of a physical address. -/
def paGs (pa : Nat) : Nat := pa / 2 ^ 42

/-- Location within the stack. -/
def paLoc (pa : Nat) : Nat := pa % 2 ^ 42

def State.stk (s : State) (gs : Nat) : Stack := mget s.stks gs Stack.reset
def State.setStk (s : State) (gs : Nat) (k : Stack) : State := { s with stks := mset s.stks gs k Stack.reset }
def State.updStk (s : State) (gs : Nat) (f : Stack → Stack) : State := s.setStk gs (f (s.stk gs))
def State.core (s : State) (gc : Nat) : Core := mget s.cores gc Core.reset
def State.setCore (s : State) (gc : Nat) (k : Core) : State := { s with cores := mset s.cores gc k Core.reset }
def State.updCore (s : State) (gc : Nat) (f : Core → Core) : State := s.setCore gc (f (s.core gc))
def State.pkg (s : State) (p : Nat) : Pkg := mget s.pkgs p Pkg.reset
def State.setPkg (s : State) (p : Nat) (k : Pkg) : State := { s with pkgs := mset s.pkgs p k Pkg.reset }
def State.updPkg (s : State) (p : Nat) (f : Pkg → Pkg) : State := s.setPkg p (f (s.pkg p))
def State.ctx? (s : State) (k : Nat) : Option Ctx := mfind s.ctxs k
def State.setCtx (s : State) (k : Nat) (c : Ctx) : State := { s with ctxs := mput s.ctxs k c }
def State.updCtx (s : State) (k : Nat) (f : Ctx → Ctx) : State :=
  match s.ctx? k with
  | some c => s.setCtx k (f c)
  | none => s
def State.team? (s : State) (k : Nat) : Option Team := mfind s.teams k
def State.setTeam (s : State) (k : Nat) (t : Team) : State := { s with teams := mput s.teams k t }
def State.updTeam (s : State) (k : Nat) (f : Team → Team) : State :=
  match s.team? k with
  | some t => s.setTeam k (f t)
  | none => s
def State.launch? (s : State) (k : Nat) : Option Launch := mfind s.launches k
def State.setLaunch (s : State) (k : Nat) (l : Launch) : State := { s with launches := mput s.launches k l }
def State.updLaunch (s : State) (k : Nat) (f : Launch → Launch) : State :=
  match s.launch? k with
  | some l => s.setLaunch k (f l)
  | none => s
def State.cmd? (s : State) (id : Nat) : Option Cmd := s.cmds.find? fun c => c.id = id
def State.setCmd (s : State) (c : Cmd) : State := { s with cmds := s.cmds.map fun d => if d.id = c.id then c else d }
def State.delCmd (s : State) (id : Nat) : State := { s with cmds := s.cmds.filter fun d => d.id ≠ id }

/-- A fresh handle. -/
def State.fresh (s : State) : Nat × State := (s.nextId, { s with nextId := s.nextId + 1 })

/-- A fresh free value (log 2, DESIGN CHOICE). -/
def State.free (s : State) : Nat × State := (Config.freeNat s.freeCount, { s with freeCount := s.freeCount + 1 })

/-- The local cycle counter of a core (16 R368). -/
def State.now (s : State) (gc : Nat) : Nat := (s.core gc).cycle

/-- The clock of a stack's own units: the counter of its core 0 (log 14, DESIGN CHOICE). -/
def State.stkNow (s : State) (gs : Nat) : Nat := s.now (24 * gs)

/-! ## Memory -/

/-- What a byte that nothing has written reads as (log 4, DESIGN CHOICE). -/
def memDefault : Byte := 0

/-- One byte of device memory. -/
def State.byte (s : State) (pa : Nat) : Byte := mget s.mem pa memDefault

/-- Write one byte of device memory. -/
def State.setByte (s : State) (pa : Nat) (b : Byte) : State := { s with mem := mset s.mem pa b memDefault }

/-- `n` bytes from an address, lowest first. -/
def State.bytes (s : State) (pa : Nat) : Nat → List Byte
  | 0 => []
  | n + 1 => s.byte pa :: s.bytes (pa + 1) n

/-- Write a list of bytes from an address. -/
def memWrite : List Host.Cell → Nat → List Byte → List Host.Cell
  | m, _, [] => m
  | m, pa, b :: bs => memWrite (mset m pa b memDefault) (pa + 1) bs

def State.setBytes (s : State) (pa : Nat) (bs : List Byte) : State := { s with mem := memWrite s.mem pa bs }

/-- `n` bytes as a number, little-endian (00 R4). -/
def State.num (s : State) (pa n : Nat) : Nat := ofBytes (s.bytes pa n)

def State.setNum (s : State) (pa n v : Nat) : State := s.setBytes pa (bytesOf n v)

/-- Memory is in its canonical form. -/
abbrev Memory.wf (m : List Host.Cell) : Prop := canonical m memDefault = true

/-- The sectors an access of `n` bytes touches (09 R404). -/
def sectorsOf (pa n : Nat) : List Nat := (List.range ((pa + n - 1) / 32 - pa / 32 + 1)).map (· + pa / 32)

/-- Does an access touch a poisoned sector? -/
def State.poisoned (s : State) (pa n : Nat) : Bool := (sectorsOf pa n).any fun k => mget s.poison k false

/-- A write clears the mark of every sector it sets whole (09 R404). -/
def State.cleanWhole (s : State) (pa n : Nat) : State :=
  let whole := (sectorsOf pa n).filter fun k => decide (pa ≤ 32 * k) && decide (32 * k + 32 ≤ pa + n)
  { s with poison := whole.foldl (fun m k => mset m k false false) s.poison }

/-! A reference is a physical address with the BMAJ bit of the leaf that gave it in bit 52 (03 R54). -/

/-- The physical address of a reference. -/
def refPa (r : Nat) : Nat := r % 2 ^ 52

/-- Bank and offset of a DRAM location under either layout (03 R54). -/
def bankOffset (bmaj : Bool) (a : Nat) : Nat × Nat :=
  if bmaj then (a / 2 ^ 16 % 512, a / 2 ^ 25 * 2 ^ 16 + a % 2 ^ 16) else (a / 2 ^ 8 % 512, a / 2 ^ 17 * 2 ^ 8 + a % 2 ^ 8)

/-- The interleaved location of a bank's offset: the key under which the cell stands in State. -/
def cellLoc (bank off : Nat) : Nat := off / 256 * 2 ^ 17 + bank * 256 + off % 256

/-- Is the location DRAM? -/
def isDram (loc : Nat) : Bool := loc < 0x1800000000

/-- The address of the cell a reference names. -/
def refCell (r : Nat) : Nat :=
  let pa := refPa r
  if r < 2 ^ 52 || !isDram (paLoc pa) then pa
  else paOf (paGs pa) (cellLoc (bankOffset true (paLoc pa)).1 (bankOffset true (paLoc pa)).2)

/-- The bank a DRAM reference falls in. -/
def refBank (r : Nat) : Nat := (bankOffset (decide (2 ^ 52 ≤ r)) (paLoc (refPa r))).1

/-! Rows and columns of a bank (04 R72). -/

/-- Row of a bank offset. -/
def rowOf (off : Nat) : Nat := off / 2 ^ 13

/-- Column of a bank offset. -/
def colOf (off : Nat) : Nat := off / 32 % 256

/-- Bit number of a row in the clean-row bitmap and the poison map (04 R77). -/
def rowKey (bank row : Nat) : Nat := bank * 24576 + row

/-- Address of the cell of a column of a row. -/
def colPa (gs bank row col : Nat) : Nat := paOf gs (cellLoc bank (row * 2 ^ 13 + col * 32))

/-- Bank and row that a cell address falls in. -/
def cellRow (cell : Nat) : Nat × Nat × Nat :=
  let (b, o) := bankOffset false (paLoc cell)
  (b, rowOf o, colOf o)

/-- Drop the error of a column whose sector is written whole through the encoder (04 R71, R77). -/
def State.freshColumn (s : State) (cell : Nat) : State :=
  if isDram (paLoc cell) then
    let (b, row, col) := cellRow cell
    let gs := paGs cell
    let es := mget (s.stk gs).errs (rowKey b row) []
    if es.isEmpty then s
    else s.updStk gs fun k => { k with errs := mset k.errs (rowKey b row) (es.filter fun e => e.1 ≠ col) [] }
  else s

/-- What stands stored in a struck column takes the byte a partial write puts at a cell (04 R78, 09 R404). -/
def State.patchByte (s : State) (cell : Nat) (b : Byte) : State :=
  if isDram (paLoc cell) then
    let (bk, row, col) := cellRow cell
    let es := mget (s.stk (paGs cell)).errs (rowKey bk row) []
    if es.isEmpty then s
    else s.updStk (paGs cell) fun k => { k with
      errs := mset k.errs (rowKey bk row) (es.map fun e => if e.1 = col then (e.1, e.2.1, setBits e.2.2 (8 * (cell % 32)) 8 b.toNat) else e) [] }
  else s

/-- A write of bytes to cells of a stack reaches the struck columns among them. -/
def State.patchCells (s : State) (gs : Nat) (cells : List (Nat × Byte)) : State :=
  if (s.stk gs).errs.isEmpty then s else cells.foldl (fun s c => s.patchByte c.1 c.2) s

/-- A write of data at a home, with its effect on poison and on struck columns (09 R404). -/
def State.store (s : State) (pa : Nat) (bs : List Byte) : State :=
  let n := bs.length
  let s := ((s.setBytes pa bs).patchCells (paGs pa) (bs.zipIdx.map fun b => (pa + b.2, b.1))).cleanWhole pa n
  ((sectorsOf pa n).filter fun k => decide (pa ≤ 32 * k) && decide (32 * k + 32 ≤ pa + n)).foldl (fun s k => s.freshColumn (32 * k)) s

/-- The access opens its row (04 R405). -/
def State.touchRow (s : State) (r : Nat) : State :=
  let cell := refCell r
  if isDram (paLoc cell) then
    let (b, row, _) := cellRow cell
    s.updStk (paGs cell) fun k => { k with openRow := mset k.openRow b (row + 1) 0 }
  else s

/-- What stands at a location of a stack (03 Table 3-2). -/
inductive LocKind where
  | dram
  | shared
  | landing
  | regs
  | scratch (core off : Nat)
  | accum
  | scale
  | host
  | nothing
  deriving DecidableEq, Repr

/-- The location map (03 Table 3-2). -/
def locKind (gs loc : Nat) : LocKind :=
  if isDram loc then .dram
  else if loc < 0x20000000000 then .nothing
  else if loc < 0x20001C00000 then .shared
  else if loc < 0x20002000000 then .landing
  else if loc < 0x24000000000 then .nothing
  else if loc < 0x24100000000 then .regs
  else if loc < 0x28000000000 then .nothing
  else if loc < 0x28000000000 + 24 * 0x80000 then
    .scratch ((loc - 0x28000000000) / 0x80000) ((loc - 0x28000000000) % 0x80000)
  else if loc < 0x2C000000000 then .nothing
  else if loc < 0x2C000000000 + 24 * 0x40000 then .accum
  else if loc < 0x2E000000000 then .nothing
  else if loc < 0x2E000000000 + 24 * 0x8000 then .scale
  else if loc < 0x30000000000 then .nothing
  else if gs % 16 = 0 then .host
  else .nothing

/-- Physical address of a byte of a core's scratchpad. -/
def scratchPa (gc off : Nat) : Nat := paOf (gsOf gc) (0x28000000000 + coreNo gc * 0x80000 + off)

/-- Physical address of a byte of a stack's shared memory. -/
def sharedPa (gs off : Nat) : Nat := paOf gs (0x20000000000 + off)

/-- Key of a scratchpad line's presence bit, by the line's physical address (03 R63). -/
def lineOf (pa : Nat) : Nat := pa / 128

/-- Is the line at a physical address absent? Only scratchpad lines ever are (03 R63). -/
def State.lineAbsent (s : State) (pa : Nat) : Bool := mget s.absent (lineOf pa) false

/-! ## Regions of a group (13 R296, 16 R361) -/

/-- REG0: the top entry, 0 where there is none. -/
def Ctx.reg0 (c : Ctx) : Nat := if c.rdepth = 0 then 0 else (mget c.region (min c.rdepth 8 - 1) 0).toNat

/-- REG1: the second entry. -/
def Ctx.reg1 (c : Ctx) : Nat := if min c.rdepth 8 < 2 then 0 else (mget c.region (min c.rdepth 8 - 2) 0).toNat

/-! ## Paths -/

/-- A path entry that holds no path. -/
def freePath : Path := ⟨false, 0, false, .none, 0, 0, none, [], .none, false, 0, false⟩

/-- A context at the reset values of 07 Table 7-1: width 16, eight windows, no path yet; birth fills in what the launch gives. -/
def birthCtx : Ctx where
  team := 0
  launch := 0
  gidx := 0
  pslot := 0
  user := false
  debug := false
  width := 16
  walloc := 8
  live := 0xFF
  inHandler := false
  splitPart := false
  haltPend := false
  part := 0
  nparts := 1
  splitGen := 0
  leader := none
  leaderPath := 0
  birthGc := 0
  baseGc := 0
  trap := 0xFFFFFFFF
  codeBase := 0
  privBase := 0
  lanes := 0
  paths := List.replicate 8 freePath
  preds := []
  sregs := []
  sPrev := []
  fstat := []
  slotFlags := []
  vregs := []
  dead := []
  rstack := []
  ext := false
  wslot := []
  loops := []
  loopRegs := []
  err42 := false
  splitB := 1
  visit := false
  ftz := false
  seed := 0
  scnt := 0
  rdepth := 0
  region := []
  anchor := 0
  fcause := 0
  faddr := 0
  fpc := 0
  flanes := 0
  place := .pending
  gc := 0
  slotNo := 0
  stall := 0
  since := 0
  depart := none
  split := []
  chain := []
  chainEntry := 0
  chainDone := 0
  chainSec := []
  chainAddr := []
  chainAcq := false
  visits := []
  parked := none
  stop := none
  pathStop := none
  stopRec := none
  step := none
  lineWait := []
  grow := 0
  coll := 0
  lastArr := []
  bornAt := 0
  activeAt := 0
  atRegion := false
  lost := false
  seen := none
  atWord := none
  met := 0
  joinedAt := 0
  win := 0
  lastIssue := 0

def Ctx.path (c : Ctx) (e : Nat) : Path := c.paths.getD e freePath
def Ctx.setPath (c : Ctx) (e : Nat) (p : Path) : Ctx := { c with paths := c.paths.set e p }

/-- Entries of valid paths. -/
def Ctx.validPaths (c : Ctx) : List Nat := (List.range 8).filter fun e => (c.path e).v

/-- Entries with no path. -/
def Ctx.freePaths (c : Ctx) : List Nat := (List.range (min 8 c.paths.length)).filter fun e => !(c.path e).v

/-- The lanes of a path in which a word acts: the leader alone between ELECT and ENDE (13 R290). -/
def Ctx.pathLanes (c : Ctx) (e : Nat) : Mask :=
  match c.leader with
  | some l => if c.leaderPath = e then laneBit l else (c.path e).mask
  | none => (c.path e).mask

/-- The header that follows the path's clause: where its unissued words end. -/
def Path.nextHeader (p : Path) : Nat :=
  match p.clause with
  | some k => p.pc + 4 * k.words.length
  | none => p.pc

/-- Leave the clause: latches emptied, the window bits of allocated windows kept as LIVE (06 R110, R124). -/
def Ctx.leaveClause (c : Ctx) (e : Nat) : Ctx :=
  let p := c.path e
  let live := match p.clause with
    | some k => k.live &&& BitVec.ofNat 8 (2 ^ c.walloc - 1)
    | none => c.live
  { c.setPath e { p with clause := none, latches := [], handler := p.handler } with live := live }

/-- The end of the innermost open loop's body (13 R286). -/
def LoopLevel.fin (l : LoopLevel) : Nat := l.start + 4 * (l.len + 1)

/-- Close every innermost loop level with no path inside its body and none held at its end (13 R287). -/
def Ctx.closeLoops (c : Ctx) : Nat → Ctx
  | 0 => c
  | n + 1 =>
    match c.loops.getLast? with
    | none => c
    | some l =>
      let inside := c.validPaths.any fun e => decide (l.start ≤ (c.path e).pc) && decide ((c.path e).pc < l.fin)
      let held := c.validPaths.any fun e => (c.path e).hold && (c.path e).kind = .loop && (c.path e).pc = l.fin
      if inside || held then c else Ctx.closeLoops { c with loops := c.loops.dropLast, loopRegs := l :: c.loopRegs } n

/-- One round of the innermost level, where every path is out of its body and some are held at its end: the count falls, and they go round or
on; where the next level's body ends at the same header they wait there for it (13 R287; log 73, DEDUCED). -/
def Ctx.round (c : Ctx) : Option Ctx :=
  match c.loops.getLast? with
  | none => none
  | some k =>
    let heldAt (p : Path) : Bool := p.v && p.hold && p.kind = .loop && p.pc = k.fin
    let inside := c.validPaths.any fun e => decide (k.start ≤ (c.path e).pc) && decide ((c.path e).pc < k.fin)
    if inside || !(c.paths.any heldAt) then none else
    let again := decide (1 < k.lc)
    let outer := (c.loops.dropLast.getLast?.map fun o => decide (o.fin = k.fin)).getD false
    let paths := c.paths.map fun p =>
      if !heldAt p || (!again && outer) then p else { p with hold := false, kind := .none, pc := if again then k.start else p.pc }
    let loops := if again then c.loops.dropLast ++ [{ k with lc := k.lc - 1 }] else c.loops.dropLast
    let regs := if again then c.loopRegs else { k with lc := 0 } :: c.loopRegs
    some { c with paths := paths, loops := loops, loopRegs := regs }

/-- Has another valid path a lane whose top return entry is J with the join mark (13 R285)? -/
def Ctx.pendingJoin (c : Ctx) (e j : Nat) : Bool :=
  c.validPaths.any fun e' => e' ≠ e && (lanesOf (c.path e').mask).any fun l =>
    match (mget c.rstack l []).getLast? with
    | some w => decide (w.toNat = j + 1)
    | none => false

/-- Release the join-held paths whose wait is over: nobody still to come, or every valid path held (13 R285). -/
def Ctx.releaseJoins (c : Ctx) : Ctx :=
  let allHeld := c.validPaths.all fun e => (c.path e).hold
  c.validPaths.foldl (fun d e =>
    let p := d.path e
    if p.hold && p.kind = .join && (allHeld || !d.pendingJoin e p.pc) then
      d.setPath e { p with hold := false, kind := .none }
    else d) c

/-- A path that waited at a meeting issues its word again (11 R265). -/
def Path.again (p : Path) : Path := if p.wait = .matrix then { p with wait := .none } else p

/-- Has a word of the clause issued? Until then the path stands at the clause's header. -/
def Path.started (p : Path) : Bool :=
  match p.clause with
  | some k => p.pc ≠ k.base + 4
  | none => false

/-- Put an unstarted clause back: the path stands at its header. A ninth-path hold stays at its word (13 R281). -/
def Path.unfetch (p : Path) : Path :=
  match p.clause with
  | some k => if p.started || p.kind = .ninth then p else { p.again with clause := none, pc := k.base }
  | none => p

/-- The path whose word or boundary asks for a departure or a split. -/
def Ctx.leaving (c : Ctx) : Option Nat :=
  match c.depart, c.split with
  | some d, _ => some d.entry
  | none, p :: _ => some p.entry
  | none, [] => none

/-- Does the path stand at the word it stopped, parked or waits at, even where that is its clause's first? -/
def Ctx.atSpot (c : Ctx) (e : Nat) : Bool :=
  c.atWord = some e || (c.parked.map (·.entry)) = some e || (c.visits.any fun v => v.entry = e) || c.leaving = some e ||
    (!c.chain.isEmpty && c.chainEntry = e)

/-- A path as a stop finds it: at its word, or at the header of a clause none of whose words has issued (15 Table 15-5). -/
def Ctx.stopPath (c : Ctx) (e : Nat) : Path := if c.atSpot e then c.path e else (c.path e).unfetch

/-- Every path of a group as a stop finds it. -/
def Ctx.putBack (c : Ctx) : Ctx := { c with paths := (List.range c.paths.length).map c.stopPath }

/-- The code offset at which a path stops. -/
def Ctx.stopPc (c : Ctx) (e : Nat) : Nat := (c.stopPath e).pc

/-- Does the path stand at a clause header: nothing of its clause has issued, and its first word has not taken the group out? -/
def Ctx.standing (c : Ctx) (e : Nat) : Bool :=
  let p := c.path e
  p.v && !p.stopped && p.wait = .none &&
    (p.clause.isNone || (!p.started && c.leaving ≠ some e && c.parked.isNone && !(c.visits.any fun v => v.entry = e)))

/-- May two paths that stand at headers merge (13 R280)? -/
def canMerge (p q : Path) : Bool :=
  p.v && q.v && p.pc = q.pc && p.handler = q.handler &&
    ((!p.hold && !q.hold) || (p.hold && q.hold && p.kind = q.kind && p.kind ≠ .ninth))

/-- May two paths of a group merge where they stand? -/
def Ctx.canMerge (c : Ctx) (i j : Nat) : Bool :=
  c.standing i && c.standing j && Machine.canMerge (c.path i).unfetch (c.path j).unfetch

/-- Merge path `j` into the lower entry `i`. -/
def Ctx.mergePair (c : Ctx) (i j : Nat) : Ctx :=
  if c.canMerge i j then
    let p := (c.path i).unfetch
    let q := (c.path j).unfetch
    let c := (c.setPath i { p with mask := p.mask ||| q.mask, since := min p.since q.since, lastIssue := max p.lastIssue q.lastIssue }).setPath j freePath
    { c with
      leaderPath := if c.leader.isSome && c.leaderPath = j then i else c.leaderPath
      visits := c.visits.map fun v => if v.entry = j then { v with entry := i } else v }
  else c

/-- Merge every pair of paths that stand at one header (13 R280). -/
def Ctx.mergePaths (c : Ctx) : Ctx :=
  (List.range 8).foldl (fun c i => (List.range 8).foldl (fun c j => if i < j then c.mergePair i j else c) c) c

/-- What follows every change of the path table: loop levels close, join holds end, paths at one header merge. -/
def Ctx.settle (c : Ctx) : Ctx := ((c.closeLoops 3).releaseJoins).mergePaths

/-- Does a path that goes on to a header by falling through finish the body of an open level there (13 R287)? -/
def Ctx.endsBody (c : Ctx) (e pc : Nat) : Bool :=
  c.loops.any fun l => decide (l.fin = pc) && decide (l.start ≤ (c.path e).pc) && decide ((c.path e).pc ≤ l.fin)

/-- The path goes on at a header it reached by falling through; at the end of an open body it is held, with stall reason wait-barrier
(13 R287). -/
def Ctx.fallTo (c : Ctx) (e pc now : Nat) : Ctx :=
  let c := c.leaveClause e
  let p := c.path e
  if c.endsBody e pc then
    { c.setPath e { p with pc := pc, hold := true, kind := .loop, since := now } with stall := 5 }
  else c.setPath e { p with pc := pc, hold := false, kind := .none }

/-- Every round that is due, of at most three levels: a group stops at the boundary the round leaves it at (20 R400, R402). -/
def Ctx.rounds (c : Ctx) : Nat → Ctx
  | 0 => c
  | n + 1 => match c.round with
    | some d => d.settle.rounds n
    | none => c

/-- Where some lanes of a path go: target, held at a join, and the lanes. -/
abbrev Dest := Nat × Bool × Mask

/-- Gather lanes with one destination, in ascending order of their lowest lane. -/
def gatherDests : List (Nat × Nat × Bool) → List Dest
  | [] => []
  | (l, t, h) :: rest =>
    let ds := gatherDests rest
    match ds.find? fun d => d.1 = t && d.2.1 = h with
    | some d => (t, h, d.2.2 ||| laneBit l) :: ds.filter fun d => !(d.1 = t && d.2.1 = h)
    | none => (t, h, laneBit l) :: ds

/-- Send the lanes of path `e` to their destinations (13 R279): the lanes of `stay` keep the entry by falling through to `f`, and with them
those that a branch sends to `f` where it ends no body; every other destination takes the lowest free entry, but the first keeps the
entry where nobody falls through. `none` where a ninth entry would be needed (13 R281). -/
def Ctx.diverge (c : Ctx) (e f now : Nat) (stay : Mask) (dests : List Dest) : Option Ctx :=
  let p := c.path e
  let joins (d : Dest) : Bool := stay ≠ 0 && d.1 = f && !d.2.1 && !c.endsBody e f
  let stay := (dests.filter joins).foldl (fun m d => m ||| d.2.2) stay
  let ds := dests.filter fun d => !joins d
  let put (c : Ctx) (k : Nat) (d : Dest) : Ctx :=
    c.setPath k { p with
          pc := d.1, mask := d.2.2, clause := none, latches := [], hold := d.2.1
          kind := if d.2.1 then .join else .none, since := now, wait := .none }
  let (keep, movers) := if stay ≠ 0 then (true, ds) else (false, ds.drop 1)
  let free := c.freePaths
  if free.length < movers.length then none else
  let c := c.leaveClause e
  let c := (movers.zip free).foldl (fun c (d, k) => put c k d) c
  let c := if keep then
      let q := c.path e
      (c.setPath e { q with mask := stay }).fallTo e f now
    else match ds with
      | d :: _ => put c e d
      | [] => c
  some c

/-! ## Windows (06 R107, 14 R315, 07 R141) -/

/-- Granules of 512 bytes a window takes. -/
def Ctx.gran (c : Ctx) : Nat := c.width / 16

/-- Granules a resident context holds: its windows, and six more for the return-stack extension. -/
def Ctx.granules (c : Ctx) : Nat := (c.walloc + if c.ext then 6 else 0) * c.gran

/-- Key of the window set a context stands in: its own, or one that parts of a split share. -/
def Ctx.winKey (c : Ctx) (cid : Nat) : Nat := if c.win = 0 then 2 * cid else 2 * c.win + 1

/-- Does the context hold windows on core `gc`? -/
def Ctx.residentOn (c : Ctx) (gc : Nat) : Bool := c.gc = gc && (c.place = .active || c.place = .pending)

/-- Is a context of an image that is being restored to the core it was born on (15 R343)? -/
def State.returning (s : State) (gc : Nat) (kc : Nat × Ctx) : Bool :=
  kc.2.place = .saved && kc.2.birthGc = gc && s.saves.any fun i => i.phase = .restoring && i.coming.contains kc.1

/-- Contexts on a core. -/
def State.residents (s : State) (gc : Nat) : List (Nat × Ctx) := s.ctxs.filter fun kc => kc.2.residentOn gc

/-- Granules of a list of window sets, each counted once at its largest. -/
def sumWindows : List (Nat × Nat) → Nat
  | [] => 0
  | (k, g) :: rest =>
    match rest.find? fun r => r.1 = k with
    | some r => sumWindows rest + (g - r.2)
    | none => g + sumWindows rest

/-- FREEG: register granules free on a core; windows of a context that left count until its landing is acknowledged (07 R146), those of
a context being restored from its restore's start. -/
def State.freeG (s : State) (gc : Nat) : Nat :=
  let used := (s.residents gc).map fun kc => (kc.2.winKey kc.1, kc.2.granules)
  let due := ((s.ctxs.filter (s.returning gc)).map fun kc => kc.2.granules).foldl (· + ·) 0
  1536 - sumWindows (used ++ (s.core gc).leaving.map (·.2)) - due

/-- Cores a team stands on: its base core, and the next for a pair. -/
def Team.cores (t : Team) : List Nat := if t.pair then [t.baseGc, t.baseGc + 1] else [t.baseGc]

/-- Scratchpad lines a team holds on each of its cores (14 R315, 19 R399). -/
def Team.linesPer (t : Team) : Nat := (if t.pair then t.scratch / 2 else t.scratch) / 128

/-- Is a team away in an image, its lines and slots free for others? One being restored has them back. -/
def State.gone (s : State) (t : Team) : Bool :=
  match t.saved with
  | some k => !(s.saves.any fun i => i.id = k && i.phase = .restoring)
  | none => false

/-- Teams that hold lines and slots on a core. -/
def State.teamsOn (s : State) (gc : Nat) : List (Nat × Team) :=
  s.teams.filter fun kt => kt.2.cores.contains gc && !s.gone kt.2

/-- FREEL: scratchpad lines free on a core. -/
def State.freeL (s : State) (gc : Nat) : Nat :=
  4096 - ((s.teamsOn gc).map fun kt => kt.2.linesPer).foldl (· + ·) 0

/-- Matrix slots in use on a core. -/
def State.slotsUsed (s : State) (gc : Nat) : List Nat :=
  (s.teamsOn gc).flatMap fun kt => (kt.2.mslots.filter fun m => m.1 = gc).map (·.2)

/-- FREEM: matrix slots free on a core. -/
def State.freeM (s : State) (gc : Nat) : Nat := 2 - (s.slotsUsed gc).length

/-- The lowest place number free on a core (15 R339). -/
def State.freePlace (s : State) (gc : Nat) : Nat :=
  ((List.range 64).find? fun g => !((s.residents gc).any fun kc => kc.2.slotNo = g)).getD 63

/-- Does a context stand at its team's cores while the team is away in an image (15 R340)? It runs no further until the team is back. -/
def State.frozen (s : State) (c : Ctx) : Bool :=
  ((s.team? c.team).map fun t => t.saved.isSome && t.cores.contains c.gc).getD false

/-! ## Channels between packages (05 R91-R95) -/

/-- Key of a channel end: plane and peer. -/
def linkKey (plane peer : Nat) : Nat := plane * 64 + peer

/-- Plane a stack's traffic leaves on (05 R92). -/
def planeOf (gs : Nat) : Nat := gs % 16 / 2

/-- A package's end of the channels with a peer on a plane. -/
def State.link (s : State) (pkg plane peer : Nat) : Link := mget (s.pkg pkg).links (linkKey plane peer) Link.reset

def State.setLink (s : State) (pkg plane peer : Nat) (l : Link) : State :=
  s.updPkg pkg fun k => { k with links := mset k.links (linkKey plane peer) l Link.reset }

/-- Can a stack reach another: within the package, or over its plane's channel (05 R92, R98)? -/
def State.reaches (s : State) (src dst : Nat) : Bool :=
  pkgOf src = pkgOf dst || (s.link (pkgOf src) (planeOf src) (pkgOf dst)).up

/-- Incarnation recorded for a peer; 0 if never trained. -/
def State.pinc (s : State) (pkg peer : Nat) : Nat := ((mfind (s.pkg pkg).peers peer).map (·.pinc)).getD 0

/-- Has the whole of a message of `n` flits been handed over at its destination: within a package at once, else as its flits are
delivered (05 R92)? -/
def State.handed (s : State) (src dst id n : Nat) : Bool :=
  pkgOf src = pkgOf dst || decide (n ≤ mget (s.pkg (pkgOf dst)).got id 0)

/-- The message is used: its count of flits goes. -/
def State.consume (s : State) (src dst id : Nat) : State :=
  if pkgOf src = pkgOf dst then s else s.updPkg (pkgOf dst) fun k => { k with got := mdel k.got id }

/-- Has a channel room in its retry buffer (05 R95), and is it not stalled by a switch (05 R98)? -/
def State.canSend (s : State) (src dst plane : Nat) : Bool :=
  let l := s.link (pkgOf src) plane (pkgOf dst)
  pkgOf src = pkgOf dst || (decide (l.retry.length + l.queue.length < 512) && !l.switching)

/-- Key of a plane stack (05 R91). -/
def planeStack (pkg plane : Nat) : Nat := 16 * pkg + 2 * plane

/-- Number flits anew from `n` (05 R95, R99). -/
def renumber : Nat → List Flit → List Flit
  | _, [] => []
  | n, f :: fs => { f with seq := n % 4096 } :: renumber (n + 1) fs

/-- Send queued flits while fewer than 512 are unacknowledged and no switch stalls the channel: numbered, kept for retry, and on the
fibre (05 R94, R95, R98). -/
def Link.pump (l : Link) : Link :=
  let n := if l.switching then 0 else 512 - l.retry.length
  let fs := renumber l.nextSeq (l.queue.take n)
  { l with
    nextSeq := (l.nextSeq + fs.length) % 4096
    retry := l.retry ++ fs
    out := l.out ++ fs
    queue := l.queue.drop n }

/-- Hand flits of a message to a channel. -/
def Link.push (l : Link) (inc dstk kind tag : Nat) (payloads : List (BitVec 512)) : Link :=
  Link.pump { l with queue := l.queue ++ payloads.map fun p => ⟨0, inc, dstk, kind, p, tag⟩ }

/-- Send flits of a kind, of message `tag`, from a stack to another package on a plane; within a package there is no channel. -/
def State.sendFlits (s : State) (src dst plane kind tag : Nat) (payloads : List (BitVec 512)) : State :=
  let a := pkgOf src
  let b := pkgOf dst
  if a = b then s
  else
    let l := s.link a plane b
    let l := if l.retry.isEmpty then { l with lastHeard := s.stkNow (planeStack a plane) } else l
    s.setLink a plane b (l.push (s.pkg a).inc (dst % 16) kind tag payloads)

/-- Send `n` flits whose payloads the manual gives no layout: free values (log 2, DESIGN CHOICE). -/
def State.sendFree (s : State) (src dst plane kind tag : Nat) : Nat → State
  | 0 => s
  | n + 1 =>
    if pkgOf src = pkgOf dst then s
    else
      let (v, s) := s.free
      (s.sendFlits src dst plane kind tag [BitVec.ofNat 512 v]).sendFree src dst plane kind tag n

/-- Send one such flit. -/
def State.sendFlit (s : State) (src dst plane kind tag : Nat) : State := s.sendFree src dst plane kind tag 1

/-- Send a management flit to a package on every plane whose channel is up (05 R105; 16 R356). -/
def State.sendManage (s : State) (src pkg tag : Nat) : State :=
  (List.range 8).foldl (fun s p =>
    if (s.link (pkgOf src) p pkg).up then s.sendFlit src (16 * pkg) p 5 tag else s) s

/-- Is the host link of a stack's package up (17 R376)? -/
def State.hostUp (s : State) (gs : Nat) : Bool := (s.pkg (pkgOf gs)).linkUp

/-- Is a reference host memory (03 Table 3-2)? -/
def isHostRef (r : Nat) : Bool := locKind (paGs (refPa r)) (paLoc (refPa r)) = .host

/-- A posted write to host memory is lost with the link (17 R376). -/
def State.loseWrite (s : State) (gs : Nat) : State := s.updPkg (pkgOf gs) fun k => { k with lostw := (k.lostw + 1) % 2 ^ 32 }

/-! ## Trace (16 R362-R367) -/

/-- Is the core traced? -/
def State.traced (s : State) (gc : Nat) : Bool :=
  (s.stk (gsOf gc)).trcEn && (s.stk (gsOf gc)).trcCores.getLsbD (coreNo gc)

/-- Word 0 of a record (16 Table 16-4). -/
def trcWord0 (time reg1 reg0 place core kind : Nat) : Nat :=
  time % 65536 * 2 ^ 48 + reg1 * 2 ^ 32 + reg0 * 2 ^ 16 + place % 64 * 2 ^ 9 + core * 16 + kind

/-- Is the ring full: WRAP is 0 and HEAD is at its end (16 R362)? -/
def Stack.trcFull (k : Stack) : Bool := k.trcSize = 0 || (!k.trcWrap && decide (k.trcSize * 4096 ≤ k.trcHead))

/-- Write one 16-byte record at HEAD, where the ring has room. -/
def State.trcStore (s : State) (gs w0 w1 : Nat) : State :=
  let k := s.stk gs
  if k.trcFull then s
  else
    let at_ := paOf gs (bits k.trcBase.toNat 12 30 * 4096 + k.trcHead % (k.trcSize * 4096))
    (s.store at_ (bytesOf 8 w0 ++ bytesOf 8 w1)).updStk gs fun k => { k with trcHead := k.trcHead + 16 }

/-- The sync record at every 4 KiB offset (16 R366), after which groups and clocks are written anew. -/
def State.trcSync (s : State) (gs : Nat) : State :=
  let k := s.stk gs
  if k.trcHead % 4096 = 0 && !k.trcFull then
    let s := s.trcStore gs 0x9E3C5A0FD1B74820 (k.trcHead / 4096 % 2 ^ 32 + gs % 16 * 2 ^ 32 + gs / 16 * 2 ^ 36)
    s.updStk gs fun k => { k with trcOpen := [], trcCoreSeen := [] }
  else s

/-- Is the clock record of a core due before its next record (16 R365)? -/
def State.trcClockDue (s : State) (gc : Nat) : Bool :=
  let k := s.stk (gsOf gc)
  !k.trcCoreSeen.contains (coreNo gc) || decide (65536 ≤ s.now gc - mget k.trcClock (coreNo gc) 0)

/-- What comes before a record of a core: the sync, the lost record and the core's clock record where they are due (16 R362, R365). -/
def State.trcLead (s : State) (gc w0 : Nat) : State :=
  let gs := gsOf gc
  let base := w0 - w0 % 16
  let s := s.trcSync gs
  let n := (s.stk gs).trcLostNew
  let s := if n = 0 || (s.stk gs).trcFull then s
    else ((s.trcStore gs (base + 13) n).updStk gs fun k => { k with trcLostNew := 0 }).trcSync gs
  if s.trcClockDue gc && !(s.stk gs).trcFull then
    (s.trcStore gs (base + 12) (s.now gc)).updStk gs fun k => { k with
      trcCoreSeen := addNew k.trcCoreSeen (coreNo gc)
      trcClock := mset k.trcClock (coreNo gc) (s.now gc) 0 }
  else s

/-- One record with what comes before it; a clock that fills its block is written again in the next. The unit writes each record at once, so
that its queue is never full (log 100, DESIGN CHOICE); one that finds the ring full is dropped and counted (16 R362). -/
def State.trcPut (s : State) (gc w0 w1 : Nat) : State :=
  let gs := gsOf gc
  let s := s.trcLead gc w0
  let s := if (s.stk gs).trcHead % 4096 = 0 then s.trcLead gc w0 else s
  if (s.stk gs).trcFull then s.updStk gs fun k => { k with trcLost := k.trcLost + 1, trcLostNew := k.trcLostNew + 1 }
  else (s.trcStore gs w0 w1).updStk gs fun k => { k with trcClock := mset k.trcClock (coreNo gc) (s.now gc) 0 }

/-- The records of an open sequence (16 R365): kind and word 1 of each. -/
def openSequence (s : State) (c : Ctx) : List (Nat × Nat) :=
  let lid := ((s.launch? c.launch).map (·.id)).getD 0
  let lin := ((s.team? c.team).map (·.lin)).getD 0
  let birth := gsOf c.birthGc
  let vp := c.validPaths
  [(1, lid + c.gidx * 2 ^ 32 + c.rdepth * 2 ^ 38 + vp.length * 2 ^ 46), (2, lin + birth * 2 ^ 32)] ++
    vp.map (fun e => (3, (c.path e).pc + (if (c.path e).hold then 2 else 0) + e * 2 ^ 32)) ++
    (List.range ((min c.rdepth 8 + 3) / 4)).map fun i =>
      (4, ((List.range 4).map fun j => (mget c.region (4 * i + j) 0).toNat * 2 ^ (16 * j)).foldl (· + ·) 0)

/-- Write a group's open sequence where the block has none yet; one that does not fit begins in the next block (16 R365). -/
def State.trcOpenSeq (s : State) (gc cid : Nat) (c : Ctx) : State :=
  let gs := gsOf gc
  let w0 (kind : Nat) := trcWord0 (s.now gc) c.reg1 c.reg0 c.slotNo (coreNo gc) kind
  let s := s.trcSync gs
  let k := s.stk gs
  if k.trcOpen.contains cid || k.trcFull then s else
  let recs := openSequence s c
  let lead := (if k.trcLostNew = 0 then 0 else 1) + if s.trcClockDue gc then 1 else 0
  let s := if 4096 - k.trcHead % 4096 < 16 * (recs.length + lead) then
      (s.updStk gs fun k => { k with trcHead := (k.trcHead / 4096 + 1) * 4096 }).trcSync gs
    else s
  let s := recs.foldl (fun s r => s.trcPut gc (w0 r.1) r.2) s
  s.updStk gs fun k => { k with trcOpen := addNew k.trcOpen cid }

/-- The open sequence, the lost and the clock record stand before a record of a group in the block it goes to; the fuel bounds the blocks
begun on the way. -/
def State.trcReady (s : State) (gc cid : Nat) (c : Ctx) (w0 : Nat) : Nat → State
  | 0 => s
  | n + 1 =>
    let s := (s.trcOpenSeq gc cid c).trcLead gc w0
    let k := s.stk (gsOf gc)
    if !k.trcFull && (k.trcHead % 4096 = 0 || !k.trcOpen.contains cid) then s.trcReady gc cid c w0 n else s

/-- A record of a group on its core, after its open sequence. -/
def State.trace (s : State) (cid kind w1 : Nat) : State :=
  match s.ctx? cid with
  | none => s
  | some c =>
    if s.traced c.gc then
      let w0 := trcWord0 (s.now c.gc) c.reg1 c.reg0 c.slotNo (coreNo c.gc) kind
      (s.trcReady c.gc cid c w0 3).trcPut c.gc w0 w1
    else s

/-- The open sequence of a group that is born, lands or is restored on a traced core (16 R365). -/
def State.traceOpen (s : State) (cid : Nat) : State :=
  match s.ctx? cid with
  | none => s
  | some c =>
    if s.traced c.gc then
      (s.updStk (gsOf c.gc) fun k => { k with trcOpen := k.trcOpen.filter (· ≠ cid) }).trcOpenSeq c.gc cid c
    else s

/-- Paths free to run: valid, not held, not waiting, not stopped; within a handler only its own path (13 R299). -/
def Ctx.runnable (c : Ctx) (e : Nat) : Bool :=
  let p := c.path e
  p.v && !p.hold && p.wait = .none && !p.stopped && (!c.inHandler || p.handler)

/-- The group leaves the active set (14 R322) with a stall reason, which the trace records (16 Table 16-5); a departure is its own record (18
Table 18-12). A group with a path held at a matrix meeting stays (11 R248). -/
def State.swapOut (s : State) (cid reason : Nat) : State :=
  match s.ctx? cid with
  | none => s
  | some c =>
    if c.place = .active && !(c.validPaths.any fun e => (c.path e).wait = .matrix) then
      let s := s.setCtx cid { c with place := .pending, stall := reason, since := s.now c.gc }
      if reason = 3 then s else s.trace cid 8 reason
    else s.setCtx cid { c with stall := reason }

/-- A path has come to wait at a boundary: the group shows the reason, and leaves the active set where no path of it can run (14 R322). -/
def State.rest (s : State) (cid reason : Nat) : State :=
  match s.ctx? cid with
  | none => s
  | some c => if (List.range 8).any c.runnable then s.setCtx cid { c with stall := reason } else s.swapOut cid reason

/-- A group that a stop or a park takes out of the active set: the stall record, and no more of it where it was out (16 Table 16-5). -/
def State.stallOut (s : State) (cid : Nat) (was : Place) (reason : Nat) : State :=
  if was = .active then s.trace cid 8 reason else s

/-! ## Stop records and the fault log (15 R331, R332, R338, R339) -/

/-- The bytes of a stop record (15 Table 15-5). -/
def StopRec.bytes (r : StopRec) : List Byte :=
  bytesOf 8 (r.unitNo + r.reason * 2 ^ 8 + r.cause * 2 ^ 16 + min r.skid 255 * 2 ^ 24 + r.gs % 16 * 2 ^ 32 + r.gs / 16 * 2 ^ 36 +
    r.core * 2 ^ 42 + r.gidx * 2 ^ 47 + b2n r.unh * 2 ^ 53 + b2n r.dead * 2 ^ 54) ++
  bytesOf 8 (r.launch % 2 ^ 32 + r.teamLin * 2 ^ 32) ++ bytesOf 8 (r.pc + r.stepNo * 2 ^ 32) ++
  bytesOf 8 (r.reg0 + r.reg1 * 2 ^ 16 + r.depth * 2 ^ 32) ++ bytesOf 8 r.cycle ++ bytesOf 8 r.addr ++
  bytesOf 8 r.lanes.toNat ++ bytesOf 8 r.aux

/-- Write a stop record at its index in the stack's stop area; memory receives it while EN is 1 (15 Table 15-3, R339). -/
def State.putRec (s : State) (gs idx : Nat) (r : StopRec) (cid : Option Nat) : State :=
  let k := s.stk gs
  let s := s.setStk gs { k with
    recs := mput k.recs idx r
    recCtx := match cid with
      | some c => mput k.recCtx idx c
      | none => mdel k.recCtx idx }
  if k.stopBase.getLsbD 0 then s.store (paOf gs (bits k.stopBase.toNat 17 25 * 2 ^ 17 + idx * 64)) r.bytes else s

/-- Append a record to the fault log (15 R332). -/
def State.flog (s : State) (gs : Nat) (r : StopRec) : State :=
  let k := s.stk gs
  if k.flogBase.getLsbD 0 && decide ((k.flogHead + 2 ^ 32 - k.flogTail) % 2 ^ 32 < 4096) then
    (s.store (paOf gs (bits k.flogBase.toNat 18 24 * 2 ^ 18 + k.flogHead % 4096 * 64)) r.bytes).updStk gs
      fun k => { k with flogHead := (k.flogHead + 1) % 2 ^ 32 }
  else s.setStk gs { k with flogLost := (k.flogLost + 1) % 2 ^ 32 }

/-- The place of a group: 64 x core + place number (15 R339). -/
def Ctx.placeIdx (c : Ctx) : Nat := coreNo c.gc * 64 + c.slotNo

/-- A stop record of a group (15 Table 15-5), its PC and lanes those of path `e`. -/
def groupRec (s : State) (c : Ctx) (e reason : Nat) : StopRec where
  unitNo := 0
  reason := reason
  cause := 0
  skid := 0
  gs := gsOf c.gc
  core := coreNo c.gc
  gidx := c.gidx
  unh := false
  dead := false
  launch := ((s.launch? c.launch).map (·.id)).getD 0
  teamLin := ((s.team? c.team).map (·.lin)).getD 0
  pc := c.stopPc e
  stepNo := 0
  reg0 := c.reg0
  reg1 := c.reg1
  depth := c.rdepth
  cycle := s.now c.gc
  addr := 0
  lanes := (c.path e).mask
  aux := 0

/-- The path a group's record names: the lowest valid entry. -/
def Ctx.firstPath (c : Ctx) : Nat := c.validPaths.headD 0

/-- Does the group still hold the place whose record it writes: no other context stands there (15 R339)? -/
def State.ownsPlace (s : State) (cid : Nat) (c : Ctx) : Bool :=
  !((s.residents c.gc).any fun kc => kc.1 ≠ cid && kc.2.slotNo = c.slotNo)

/-- Stop a group where it stands: no further word of it issues until RESUME, and its record is written at its place. A group
already stopped keeps its record (16 R357); a stop that meets a group in a step ends the step (16 R359). -/
def State.stopGroup (s : State) (cid ev code : Nat) (r : StopRec) : State :=
  match s.ctx? cid with
  | none => s
  | some c =>
    if c.stop.isSome && c.step.isNone then s else
    let s := s.setCtx cid { c.putBack with
          stop := some ⟨ev, code⟩
          stopRec := some r
          step := none
          stall := 9
          met := 0
          since := s.now c.gc
          place := if c.place = .active then .pending else c.place }
    let s := if s.ownsPlace cid c then s.putRec (gsOf c.gc) c.placeIdx r (some cid) else s
    (s.stallOut cid c.place 9).trace cid 10 (r.reason + r.cause * 256 + min r.skid 255 * 65536)

/-! ## Launch status (14 R318, 15 R337) -/

/-- The launch reports a code: STATUS keeps the first (14 R318), FINFO goes with it. -/
def State.report (s : State) (lk code finfo : Nat) : State :=
  s.updLaunch lk fun l => if l.status = 0 then { l with status := code, finfo := finfo } else l

/-- Physical address of a stop record; FINFO is its virtual address as the driver maps it: the model names the record by its
physical address (log 15, DEDUCED). -/
def recAddr (s : State) (gs idx : Nat) : Nat := paOf gs (bits (s.stk gs).stopBase.toNat 17 25 * 2 ^ 17 + idx * 64)

/-! ## Partition halt and kill (15 R336, R337) -/

/-- Is the launch a debug-agent launch (it belongs to no partition, 16 R359)? -/
def State.isAgent (s : State) (lk : Nat) : Bool := ((s.launch? lk).map (·.desc.agent)).getD false

/-- Process slot of a launch. -/
def State.slotOf (s : State) (lk : Nat) : Nat := ((s.launch? lk).map (·.pslot)).getD 0

/-- Does a launch belong to the partition of a process slot (15 R336)? -/
def State.inPart (s : State) (lk pslot : Nat) : Bool := s.slotOf lk = pslot && !s.isAgent lk

/-- The unit on whose engine a command runs. -/
def CmdKind.unit (k : CmdKind) (gc : Nat) : UnitId :=
  match k with
  | .copy _ => .copyEngine gc
  | .vrset .. | .vract .. | .vrrun .. => .valueRun gc
  | .rdctx .. | .wrctx .. => .copyEngine gc
  | .mma .. | .mloop .. | .tile _ | .mst .. => .matrixUnit gc

/-- Number of an engine of Table 15-5 and the base of its records (15 R339). -/
def UnitId.number : UnitId → Nat
  | .copyEngine _ => 1
  | .matrixUnit _ => 2
  | .valueRun _ => 3
  | .bankUnits _ => 4
  | _ => 0

/-- Commands of the context-save kind run on no engine of R336. -/
def CmdKind.isCtxCopy : CmdKind → Bool
  | .rdctx .. | .wrctx .. => true
  | _ => false

/-- Contexts that wait for a command: the issuers, and the other parts of a group that split since. -/
def Cmd.waiters (c : Cmd) : List Nat :=
  (match c.kind with
    | .mma _ ps => (ps.filter (·.live)).map (·.ctx)
    | .mloop _ _ _ ps => (ps.filter (·.live)).map (·.ctx)
    | _ => [c.ctx]) ++ c.also

/-- A quad collective with the contexts of its shares renamed. -/
def CmdKind.mapCtx (f : Nat → Nat) : CmdKind → CmdKind
  | .mma w ps => .mma w (ps.map fun p => { p with ctx := f p.ctx })
  | .mloop w n i ps => .mloop w n i (ps.map fun p => { p with ctx := f p.ctx })
  | k => k

/-- Launch of a command. -/
def State.cmdLaunch (s : State) (c : Cmd) : Nat := ((s.team? c.team).map (·.launch)).getD 0

/-- Is a context still a unit of the device? -/
def Ctx.alive (c : Ctx) : Bool := c.place ≠ .ended

/-- Add unit names without repeats. -/
def addUnit (l : List UnitId) (u : UnitId) : List UnitId := if l.contains u then l else l ++ [u]

/-- Every unit of a partition (15 R336), with the engines its groups may still give commands to. -/
def State.partUnits (s : State) (pslot : Nat) : List UnitId :=
  let live := s.ctxs.filter fun kc => kc.2.alive && s.inPart kc.2.launch pslot
  let gs := live.map fun kc => UnitId.group kc.1
  let es := (s.cmds.filter fun c => !c.kind.isCtxCopy && s.inPart (s.cmdLaunch c) pslot).foldl (fun l c => addUnit l (c.kind.unit c.gc)) []
  let es := live.foldl (fun l kc => addUnit (addUnit (addUnit l (.copyEngine kc.2.birthGc)) (.matrixUnit kc.2.birthGc)) (.valueRun kc.2.birthGc)) es
  let bs := (s.stks.filter fun kk => kk.2.bankQueue.any fun b => s.inPart b.launch pslot).map fun kk => UnitId.bankUnits kk.1
  gs ++ es ++ bs

/-- Stack of a unit. -/
def State.unitGs (s : State) (u : UnitId) : Nat :=
  match u with
  | .group cid | .path cid _ => ((s.ctx? cid).map fun c => gsOf c.gc).getD 0
  | .copyEngine gc | .matrixUnit gc | .valueRun gc => gsOf gc
  | .bankUnits gs | .bankRun gs _ | .stackLine gs => gs

/-- Send a stop from stack `src` to units: it reaches each by its own STOP_ARRIVAL or HALT_LINE_ARRIVAL, in another package once a
management flit of the event has been handed over there (05 R105). -/
def State.sendStops (s : State) (src ev code aux pslot first : Nat) (line : Bool) (us : List UnitId) : State :=
  let far := (us.map fun u => pkgOf (s.unitGs u)).eraseDups.filter fun p => p ≠ pkgOf src
  let s := us.foldl (fun s u =>
    let (i, s) := s.fresh
    { s with stops := s.stops ++ [⟨i, src, ev, u, code, aux, 0, 0, false, line, pslot, 0, first, pkgOf (s.unitGs u), false, []⟩] }) s
  far.foldl (fun s p => s.sendManage src p ev) s

/-- Stacks of a partition: those on which its process slot is enabled (log 16, DEDUCED). -/
def State.partStacks (s : State) (pslot : Nat) : List Nat :=
  (s.stks.filter fun kk => (mget kk.2.xlatRoot pslot 0).getLsbD 0).map (·.1)

/-- A stop record of a unit that is tied to no core (15 Table 15-5). -/
def unitRec (s : State) (gs unitNo reason : Nat) : StopRec :=
  ⟨unitNo, reason, 0, 0, gs, 31, 0, false, false, 0, 0, 0, 0, 0, 0, 0, s.stkNow gs, 0, 0, 0⟩

/-- The halt line reaches a stack (15 R332, R336): HALTED stands, FIRST keeps the oldest fatal code of the slot. With the first stack of
its package the package and its planes write their records (15 R339). -/
def State.lineAt (s : State) (gs pslot ev first : Nat) : State :=
  let fresh := !(s.stks.any fun kk => pkgOf kk.1 = pkgOf gs && kk.2.lines.any fun l => l.1 = pslot)
  let s := s.updStk gs fun k => { k with
    lines := if k.lines.any (fun l => l.1 = pslot) then k.lines else k.lines ++ [(pslot, ev)]
    firsts := if first = 0 || k.firsts.any (fun f => f.1 = pslot) then k.firsts else k.firsts ++ [(pslot, first)] }
  if fresh then
    let g0 := 16 * pkgOf gs
    (List.range 8).foldl (fun s p => s.putRec (g0 + 2 * p) 1610 (unitRec s (g0 + 2 * p) 6 0xA0) none)
      (s.putRec g0 1609 (unitRec s g0 5 0xA0) none)
  else s

/-- Raise the halt line of a partition at stack `src` (15 R336): HALTED on its stacks, those of other packages as the line reaches them, and a
stop on its way to every unit but those of `skip`. `first` is the fatal code, 0 for a HALT at scope 5. -/
def State.raiseLine (s : State) (src pslot first ev : Nat) (skip : List UnitId) : State :=
  let all := s.partStacks pslot
  let s := (all.filter fun gs => pkgOf gs = pkgOf src).foldl (fun s gs => s.lineAt gs pslot ev first) s
  let far := (all.filter fun gs => pkgOf gs ≠ pkgOf src).map UnitId.stackLine
  s.sendStops src ev 0xA0 0 pslot first true (far ++ (s.partUnits pslot).filter fun u => !skip.contains u)

/-- Is something still stopped by an event, or a stop of it on its way? -/
def State.standsBy (s : State) (ev : Nat) : Bool :=
  (s.ctxs.any fun kc => kc.2.alive && (kc.2.stop.map (·.ev)) = some ev) || (s.cmds.any fun c => (c.stop.map (·.ev)) = some ev) ||
    s.stops.any fun m => m.ev = ev && match m.target with
      | .stackLine _ => false
      | _ => true

/-- Lower the lines of a partition of which every unit they stopped has been resumed (13 R303). -/
def State.lowerLine (s : State) (pslot : Nat) : State :=
  let up := (s.stks.flatMap fun kk => (kk.2.lines.filter fun l => l.1 = pslot).map (·.2)).eraseDups
  (up.filter fun ev => !s.standsBy ev).foldl (fun s ev =>
    let freeStk (kk : Nat × Stack) : Nat × Stack := (kk.1, { kk.2 with lines := kk.2.lines.filter fun l => !(l.1 = pslot && l.2 = ev) })
    let freeCore (kk : Nat × Core) : Nat × Core := (kk.1, { kk.2 with lineStop := kk.2.lineStop.filter fun t => t.2.ev ≠ ev })
    { s with stks := s.stks.map freeStk, cores := s.cores.map freeCore }) s

/-- Drop the accesses and waits of a context that is gone; windows it still held elsewhere are free, forwarding entries of its group go.
A context under way is lost where it lands. -/
def State.dropCtx (s : State) (cid : Nat) : State :=
  let c := (s.ctx? cid).getD birthCtx
  let freeCore (kk : Nat × Core) : Nat × Core := (kk.1, { kk.2 with leaving := kk.2.leaving.filter fun l => l.1 ≠ cid })
  let freeStk (kk : Nat × Stack) : Nat × Stack :=
    (kk.1, { kk.2 with fwd := kk.2.fwd.filter fun f => !(f.team = c.team && f.gidx = c.gidx && f.part = c.part && f.splitGen = c.splitGen) })
  { s with
    ctxs := mdel s.ctxs cid
    accs := s.accs.filter fun a => a.ctx ≠ cid
    joinks := s.joinks.filter fun j => j.ctx ≠ cid
    rels := s.rels.filter fun r => r.ctx ≠ cid
    cores := s.cores.map freeCore
    stks := s.stks.map freeStk }

/-- Key of a group: its team and its index. -/
def Ctx.groupKey (c : Ctx) : Nat := c.team * 64 + c.gidx

/-- Teams of a launch. -/
def Launch.total (l : Launch) : Nat := l.desc.gx * l.desc.gy * l.desc.gz

/-- One more team of a launch has ended; with the last the launch is DONE (14 R318). -/
def Launch.endOne (l : Launch) : Launch :=
  let n := l.ended + 1
  { l with
    ended := n
    state := if l.state = .running && decide (l.total ≤ n) then .done else l.state }

/-- A killed group's stop record (15 Table 15-1: 0xA2). -/
def State.killGroup (s : State) (cid code : Nat) : State :=
  match s.ctx? cid with
  | none => s
  | some c =>
    let s := if s.ownsPlace cid c then s.putRec (gsOf c.gc) c.placeIdx (groupRec s c c.firstPath code) none else s
    (s.updStk (gsOf c.birthGc) fun k => { k with privUsed := k.privUsed.filter fun w => w.1 ≠ c.groupKey }).dropCtx cid

/-- Physical address of the record the next append writes in a stack's fault log. -/
def Stack.flogAddr (k : Stack) (gs : Nat) : Nat := paOf gs (bits k.flogBase.toNat 18 24 * 2 ^ 18 + k.flogHead % 4096 * 64)

/-- The live context a report stands for: the one that received it, one of its issuing group, or one of the group of lowest index (15 R334). -/
def State.reportCtx (s : State) (r : Report) : Option Ctx :=
  let live (g : Nat) : Option Ctx := (s.ctxs.find? fun kc => kc.2.team = r.team && kc.2.gidx = g && kc.2.alive).map (·.2)
  ((r.receiver.bind s.ctx?).or (live r.gidx)).or (((List.range 64).find? fun g => (live g).isSome).bind live)

/-- Address of the stop record of the unit that reported (15 R344): the group's in the stop area, or the fault-log record where the report
found no live group. -/
def State.reportAddr (s : State) (r : Report) : Nat :=
  match s.reportCtx r with
  | some c => recAddr s (gsOf c.gc) c.placeIdx
  | none =>
    let gs := ((s.team? r.team).map fun t => gsOf t.baseGc).getD 0
    (s.stk gs).flogAddr gs

/-- Discarding a report gives its code to the launch where STATUS was 0 (15 R335). -/
def State.discardStatus (s : State) (lk : Nat) (r : Report) : State := s.report lk r.code (s.reportAddr r)

/-- The engine that reported (15 Table 15-1): 0x60 the copy engine, 0x61 and 0x62 the matrix unit, else the value-run engine. -/
def Report.unitNo (r : Report) : Nat := if r.code = 0x60 then 1 else if r.code = 0x61 || r.code = 0x62 then 2 else 3

/-- The fault-log record of an engine's report on core `gc`, with the regions of the issuing group while it lives (15 Table 15-5). -/
def reportRec (s : State) (r : Report) (gc : Nat) : StopRec :=
  let of_ (lane : Bool) : Option Ctx :=
    (s.ctxs.find? fun kc => kc.2.team = r.team && kc.2.gidx = r.gidx && kc.2.alive && (!lane || kc.2.lanes.getLsbD r.lane)).map (·.2)
  let x := ((of_ true).or (of_ false)).getD birthCtx
  { unitNo := r.unitNo
    reason := r.code
    cause := r.cause
    skid := 0
    gs := gsOf gc
    core := coreNo gc
    gidx := 0
    unh := false
    dead := false
    launch := ((s.launch? (((s.team? r.team).map (·.launch)).getD 0)).map (·.id)).getD 0
    teamLin := ((s.team? r.team).map (·.lin)).getD 0
    pc := r.pc
    stepNo := if r.code = 0x61 || r.code = 0x63 || r.code = 0x64 then r.detail else 0
    reg0 := x.reg0
    reg1 := x.reg1
    depth := x.rdepth
    cycle := s.now gc
    addr := r.addr
    lanes := BitVec.ofNat 64 (r.detail % 2 ^ 32 * 2 ^ 32 + r.lane)
    aux := 0 }

/-- A report with nobody to receive it (15 R334): its code goes to the launch's STATUS where that was 0, its record to the fault log. -/
def State.unreceived (s : State) (t : Team) (r : Report) : State :=
  (s.discardStatus t.launch r).flog (gsOf t.baseGc) (reportRec s r t.baseGc)

/-- A report discarded at a kill: where no group of the team lives, as one with nobody to receive it. -/
def State.killReport (s : State) (tk lk : Nat) (r : Report) : State :=
  match s.team? tk with
  | some t => if (s.reportCtx r).isNone then s.unreceived t r else s.discardStatus lk r
  | none => s.discardStatus lk r

/-- Kill a team: its groups, its commands and its records go, its reports are discarded; the lines its copies kept absent become present, its own
and, through global mappings, others' (15 R335). -/
def State.killTeam (s : State) (tk code : Nat) : State :=
  let lk := ((s.team? tk).map (·.launch)).getD 0
  let s := (s.reports.filter fun r => r.team = tk).foldl (fun s r => s.killReport tk lk r) s
  let s := ((s.ctxs.filter fun kc => kc.2.team = tk).map (·.1)).foldl (fun s c => s.killGroup c code) s
  let own := ((s.team? tk).map fun t => t.cores.flatMap fun gc =>
    (List.range t.linesPer).map fun i => lineOf (scratchPa gc ((t.firstLine + i) * 128))).getD []
  let kept := (s.cmds.filter fun c => c.team = tk).flatMap fun c => match c.kind with
    | .copy k => k.lines
    | _ => []
  let away := ((s.team? tk).map s.gone).getD false
  let lines := if away then kept.filter fun l => !own.contains l else own ++ kept
  let s := match s.team? tk with
    | some t => s.updLaunch t.launch Launch.endOne
    | none => s
  { s with
    teams := mdel s.teams tk
    cmds := s.cmds.filter fun c => c.team ≠ tk
    bars := s.bars.filter fun b => b.team ≠ tk
    reports := s.reports.filter fun r => r.team ≠ tk
    saves := s.saves.filter fun i => i.team ≠ tk
    absent := lines.foldl (fun m l => mset m l false false) s.absent }

/-- What a bank launch did so far, as COMP.FLAGS and COUNTS show it (04 R82). -/
def Launch.withBank (l : Launch) (r : BankRun) : Launch := { l with flags := r.flags.toNat, emulated := r.emulated, skipped := r.skipped }

/-- Columns the pass in progress has written reach their rows (04 R75, R88); 32 bytes each, at the cells of `row` of stack `gs`. -/
def State.commitWrites (s : State) (gs row : Nat) (ws : Map (BitVec 256)) : State :=
  ws.foldl (fun s w =>
    s.store (colPa gs (w.1 / 256) row (w.1 % 256)) (bytesOf 32 w.2.toNat)) s

/-- The row a pass of a bank launch opens in every bank (04 R72). -/
def BankRun.row (r : BankRun) (p : Nat) : Nat := 8 * r.chunks.getD (p / 8) 0 + p % 8

/-- A bank launch ends where it stands (04 R88): the words performed of its pass keep their effects, and COMP shows what it did. -/
def State.endRun (s : State) (gs : Nat) (r : BankRun) : State :=
  (s.commitWrites gs (r.row r.pass) r.writes).updLaunch r.launch fun l => l.withBank r

/-- Kill a launch: it is DONE with its first code, or `code` (15 R331, R337). -/
def State.killLaunch (s : State) (lk code : Nat) : State :=
  let s := ((s.teams.filter fun kt => kt.2.launch = lk).map (·.1)).foldl (fun s t => s.killTeam t 0xA2) s
  let runs := s.stks.flatMap fun kk => (kk.2.bankQueue.filter fun b => b.launch = lk).map fun b => (kk.1, b)
  let s := runs.foldl (fun s r => s.endRun r.1 r.2) s
  let s := { s with stks := s.stks.map fun (kk : Nat × Stack) =>
    (kk.1, { kk.2 with bankQueue := kk.2.bankQueue.filter fun b => b.launch ≠ lk }) }
  s.updLaunch lk fun l => { l with state := .done, killed := true, status := if l.status = 0 then code else l.status }

/-! ## Faults of a group -/

/-- Everything a report loads (15 Table 15-2). -/
structure Report32 where
  code : Nat
  cause : Nat
  level : Nat
  acls : Nat
  qpos : Nat
  eng : Bool
  addr : Nat
  pc : Nat
  lanes : Mask
  deriving DecidableEq, Repr

/-- A report of a group's own word: no address, level 7, class none. -/
def plainReport (code pc : Nat) (lanes : Mask) : Report32 := ⟨code, 0, 7, 0, 0, false, 0, pc, lanes⟩

/-- Load the report registers (15 R329); E42 mirrors MODES.ERR42. -/
def Ctx.loadReport (c : Ctx) (r : Report32) : Ctx :=
  { c with
    fcause := BitVec.ofNat 32 (r.code * 2 ^ 24 + r.cause * 2 ^ 16 + r.level * 2 ^ 13 + r.acls * 2 ^ 9 + r.qpos * 2 ^ 7 +
      b2n r.eng * 2 ^ 6 + b2n c.err42 * 2 ^ 5)
    faddr := BitVec.ofNat 64 r.addr
    fpc := BitVec.ofNat 32 r.pc
    flanes := r.lanes }

/-- Depth of a lane's return stack. -/
def Ctx.depth (c : Ctx) (l : Nat) : Nat := (mget c.rstack l []).length

/-- RSD: the greatest depth of any lane. -/
def Ctx.rsd (c : Ctx) : Nat := (lanesOf c.lanes).foldl (fun m l => max m (c.depth l)) 0

/-- Push an entry for a lane (13 R284). -/
def Ctx.push (c : Ctx) (l v : Nat) : Ctx :=
  { c with rstack := mset c.rstack l (mget c.rstack l [] ++ [BitVec.ofNat 32 v]) [] }

/-- Pop a lane's top entry. -/
def Ctx.pop (c : Ctx) (l : Nat) : Ctx := { c with rstack := mset c.rstack l (mget c.rstack l []).dropLast [] }

/-- Top entry of a lane; 0 at depth 0. -/
def Ctx.top (c : Ctx) (l : Nat) : Nat := (((mget c.rstack l []).getLast?).map (·.toNat)).getD 0

/-- Release the extension once every depth is 16 or less; claim it where a push needs it (07 R141). -/
def Ctx.fixExt (c : Ctx) : Ctx := { c with ext := decide (16 < c.rsd) }

/-- KILLSIB (14 R318): every other team of the launch is killed with 0xA2, and those not placed never are. -/
def State.killSiblings (s : State) (lk team : Nat) : State :=
  if ((s.launch? lk).map (·.desc.killsib)).getD false then
    let s := ((s.teams.filter fun kt => kt.2.launch = lk && kt.1 ≠ team).map (·.1)).foldl (fun s t => s.killTeam t 0xA2) s
    s.updLaunch lk fun l => { l with
      ended := l.ended + (l.total - l.nextTeam)
      nextTeam := l.total }
  else s

/-- Is the halt line's stop on its way to a group? -/
def State.halting (s : State) (cid : Nat) : Bool := s.stops.any fun m => m.line && m.target = .group cid

/-- A group that is about to stop meets a fault: it goes to the fault log, and the stop will name it as CAUSE (15 R337). -/
def State.meet (s : State) (cid e : Nat) (c : Ctx) (r : Report32) : State :=
  if s.halting cid then
    (s.updCtx cid fun c => { c with met := r.code }).flog (gsOf c.gc) { groupRec s c e r.code with cause := r.cause, addr := r.addr, pc := r.pc, lanes := r.lanes }
  else s

/-- An unhandled trap (13 R299, 15 R328), `unh`, or another fatal fault of a group, which loads no report (15 R329): the group stops with its
code flagged unhandled, the launch reports it, its sibling teams are killed where KILLSIB asks it (14 R318), and the partition's halt
line rises; a debug agent's group has no partition (16 R359). A group that the line is about to stop records the halt as REASON and the
fault as CAUSE (15 R337). -/
def State.fatalGroup (s : State) (cid e : Nat) (r : Report32) (unh : Bool) : State :=
  match s.ctx? cid with
  | none => s
  | some c =>
    let c := if unh then { c.loadReport r with atWord := some e } else c
    let s := s.setCtx cid c
    let (ev, s) := s.fresh
    let halting := s.halting cid
    let rc := { groupRec s c e r.code with cause := r.cause, addr := r.addr, pc := r.pc, lanes := r.lanes, unh := unh }
    let s := s.stopGroup cid ev r.code (if halting then { rc with reason := 0xA0, cause := r.code } else rc)
    let s := s.flog (gsOf c.gc) rc
    let s := s.report c.launch r.code (recAddr s (gsOf c.gc) c.placeIdx)
    let s := if unh then s.killSiblings c.launch c.team else s
    if s.isAgent c.launch then s else s.raiseLine (gsOf c.gc) c.pslot r.code ev [.group cid]

/-- Taking an exception (13 R299): `resume` is pushed by every lane of the path, the report registers are loaded, the path goes to
the handler and every other path is held until TRET. With no handler, within a handler, or at depth 64 it is an unhandled
trap. -/
def State.takeTrap (s : State) (cid e resume : Nat) (r : Report32) : State :=
  match s.ctx? cid with
  | none => s
  | some c =>
    let p := c.path e
    let ls := lanesOf p.mask
    if c.trap = 0xFFFFFFFF || c.inHandler || ls.any (fun l => decide (64 ≤ c.depth l)) then s.fatalGroup cid e r true
    else
      let c := (c.loadReport r).leaveClause e
      let c := (ls.foldl (fun c l => c.push l resume) c).fixExt
      let c := c.setPath e { c.path e with pc := c.trap, hold := false, kind := .none, wait := .none, handler := true }
      (s.setCtx cid { c with inHandler := true, seen := none }.settle).meet cid e c r

def Ctx.again (c : Ctx) : Ctx := { c with paths := c.paths.map Path.again }

/-- Returning from an exception, beside taking one (13 R300): the handler bit clears and every path is free of it. -/
def Ctx.leaveHandler (c : Ctx) : Ctx :=
  { c with inHandler := false, paths := c.paths.map fun p => { p.again with handler := false } }

/-- An error value was received: MODES.ERR42 and its mirror in FCAUSE (15 Table 15-2). -/
def Ctx.setErr42 (c : Ctx) : Ctx := { c with err42 := true, fcause := c.fcause ||| 0x20 }

/-- A release that waited on a lost post sets 0x42 sticky (05 Table 5-4). -/
def Ctx.takeLost (c : Ctx) : Ctx := if c.lost then { c.setErr42 with lost := false } else c

/-- Discard a parked group's place record when it moves on. -/
def Ctx.unpark (c : Ctx) : Ctx := { c.again with parked := none }

/-- Park a group at a word or header (15 R331): pending, not eligible, with its report, a stop record in the fault log and the same
at its place. `e` is the path that failed. -/
def State.park (s : State) (cid e : Nat) (r : Report32) : State :=
  match s.ctx? cid with
  | none => s
  | some c =>
    let was := c.place
    let c := c.loadReport r
    let gs := gsOf c.gc
    let c := { c with
          parked := some ⟨r.code, e, c.placeIdx, gs⟩, stall := 2, since := s.now c.gc
          met := if s.halting cid then r.code else c.met
          place := if c.place = .active then .pending else c.place }
    let s := (s.setCtx cid c).stallOut cid was 2
    let rc := { groupRec s c e r.code with cause := r.cause, addr := r.addr, pc := r.pc, lanes := r.lanes }
    (s.putRec gs c.placeIdx rc (some cid)).flog gs rc

end Sys2Proof.Machine
end

