-- ==== Sys2Proof/Machine/Watch.lean ====
section
/-! DEFINITION. The vigil bank (16 R345-R358): matching, counting and firing of predicates, and the stops a firing sends. -/

namespace Sys2Proof.Machine

/-- What a predicate sees of an event: its class bit (16 Table 16-1; 7 is a bank pass, seen by load and store), address, size, the issuer's identity, the flags raised. A host
write or a bank pass has no lane, group or region (16 R350). -/
structure WEvent where
  cls : Nat
  addr : Nat
  n : Nat
  pslot : Nat
  who : Option (Nat × Nat × Nat)
  flags : Flags
  deriving DecidableEq, Repr

def Pred.en (p : Pred) : Bool := p.vctl.getLsbD 63
def Pred.scope (p : Pred) : Nat := bits p.vctl.toNat 60 3
def Pred.chain (p : Pred) : Bool := p.vctl.getLsbD 59
def Pred.kind (p : Pred) : Nat := bits p.vctl.toNat 57 2
def Pred.op (p : Pred) : Nat := bits p.vctl.toNat 54 3
def Pred.vtype (p : Pred) : Nat := bits p.vctl.toNat 50 4
def Pred.count (p : Pred) : Nat := max 1 (bits p.vctl.toNat 43 7)

/-- Bytes of a value type (codes 0-10). -/
def vtypeBytes (t : Nat) : Nat := elemBits t / 8

/-- A field compared with VAL (16 R348). -/
def valueTest (op t fieldBits valBits : Nat) : Bool :=
  let w := elemBits t
  let a := fieldBits % 2 ^ w
  let b := valBits % 2 ^ w
  if op = 4 then (a &&& b) ≠ 0
  else if t < 8 then
    let x := intOf t a
    let y := intOf t b
    match op with
    | 0 => x = y
    | 1 => x ≠ y
    | 2 => x < y
    | _ => y ≤ x
  else (fCond t op a b).1

/-- The kind test of one member (16 R347-R349); `fld` reads a field as it stands after the access. -/
def Pred.test (p : Pred) (home : Bool) (w : WEvent) (fld : Nat → Nat → Nat) : Bool :=
  let lo := p.lo.toNat
  let hi := p.hi.toNat
  let cls := if w.cls = 7 then p.vctl.getLsbD 0 || p.vctl.getLsbD 1 else p.vctl.getLsbD w.cls
  match p.kind with
  | 0 => cls && w.n ≠ 0 && decide (w.addr ≤ hi) && decide (lo < w.addr + w.n)
  | 1 => cls && w.n ≠ 0 && decide ((w.addr &&& hi) = (lo &&& hi))
  | 2 =>
    let k := vtypeBytes p.vtype
    let meets := if home then decide (w.addr < lo + k) && decide (lo < w.addr + w.n)
      else decide (w.addr ≤ lo) && decide (lo + k ≤ w.addr + w.n)
    let seen := home || w.cls = 0 || w.cls = 1
    cls && seen && w.n ≠ 0 && meets && valueTest p.op p.vtype (fld lo k) p.val.toNat
  | _ =>
    let hit := (w.flags &&& BitVec.ofNat 7 p.val.toNat) ≠ 0
    if home then cls && hit && decide (lo ≤ w.addr) && decide (w.addr ≤ hi) else hit

/-- The head's filters against the issuer's identity (16 R350). -/
def Pred.filter (p : Pred) (w : WEvent) : Bool :=
  let v := p.vctl.toNat
  let lane := w.who.map (·.1)
  let gidx := w.who.map (·.2.1)
  let reg := w.who.map (·.2.2)
  (!nbit v 42 || bits v 38 4 = w.pslot) && (!nbit v 21 || reg = some (bits v 22 16)) &&
    (!nbit v 20 || gidx = some (bits v 14 6)) && (!nbit v 13 || lane = some (bits v 7 6))

/-- The members of the run that begins at predicate `i` of a bank ending at `last` (16 R352). -/
def runFrom (m : Map Pred) (last : Nat) : Nat → Nat → List (Nat × Pred)
  | 0, _ => []
  | n + 1, i =>
    let p := mget m i Pred.reset
    if p.chain && decide (i < last) then (i, p) :: runFrom m last n (i + 1) else [(i, p)]

/-- Is predicate `i` the head of its run? -/
def isHead (m : Map Pred) (first i : Nat) : Bool := i = first || !(mget m (i - 1) Pred.reset).chain

/-- Does a run fire before its event (only range and mask members, 16 R355)? -/
def runPrecise (ms : List (Nat × Pred)) : Bool := ms.all fun ip => ip.2.kind < 2

/-- Count one match on the head and fire it where REMAIN reaches zero (16 R351, R352): the new predicates and the firing's scope. -/
def countRun (m : Map Pred) (ms : List (Nat × Pred)) : Map Pred × Option Nat :=
  match ms with
  | [] => (m, none)
  | (i, p) :: _ =>
    let p := { p with matches_ := (p.matches_ + 1) % 2 ^ 32, remain := p.remain - 1 }
    if p.remain ≠ 0 then (mset m i p Pred.reset, none)
    else if p.scope = 6 then (mset m i { p with fired := true, remain := p.count } Pred.reset, some 6)
    else
      let m := mset m i { p with fired := true } Pred.reset
      (ms.foldl (fun m ip => let q := mget m ip.1 Pred.reset; mset m ip.1 { q with vctl := q.vctl &&& ~~~(BitVec.ofNat 64 (2 ^ 63)) } Pred.reset) m,
        some p.scope)

/-- Show one event to a bank of predicates: in the pre phase the precise runs, else the others. Fired heads with their scopes. -/
def evalBank (m : Map Pred) (first last : Nat) (home pre : Bool) (w : WEvent) (fld : Nat → Nat → Nat) : Map Pred × List (Nat × Nat) :=
  if m.isEmpty then (m, []) else
  (m.map (·.1)).foldl (fun (m, fs) i =>
    if !isHead m first i then (m, fs) else
    let ms := runFrom m last 32 i
    let p := mget m i Pred.reset
    if ms.all (fun ip => ip.2.en) && runPrecise ms = pre && p.filter w && ms.all (fun ip => ip.2.test home w fld) then
      match countRun m ms with
      | (m, some sc) => (m, fs ++ [(i, sc)])
      | (m, none) => (m, fs)
    else (m, fs)) (m, [])

/-- The issuer of a watched event: its context and path, or the engine unit of a command. -/
inductive Issuer where
  | path (cid e : Nat)
  | engine (cmd : Nat)
  | bank (gs : Nat)
  | nobody
  deriving DecidableEq, Repr

/-- The core an issuer stands on. -/
def State.issuerCore (s : State) : Issuer → Option Nat
  | .path cid _ => (s.ctx? cid).map (·.gc)
  | .engine k => (s.cmd? k).map (·.gc)
  | _ => none

/-- Team of an issuer. -/
def State.issuerTeam (s : State) : Issuer → Option Nat
  | .path cid _ => (s.ctx? cid).map (·.team)
  | .engine k => (s.cmd? k).map (·.team)
  | _ => none

/-- The engines of a core, idle ones too (16 Table 16-3). -/
def enginesOn (gc : Nat) : List UnitId := [.copyEngine gc, .matrixUnit gc, .valueRun gc]

/-- Groups in the landing area of a stack. -/
def State.landedOn (s : State) (gs : Nat) : List UnitId :=
  (s.ctxs.filter fun kc => kc.2.place = .landed && gsOf kc.2.gc = gs).map fun kc => UnitId.group kc.1

/-- Groups on a core. -/
def State.groupsOn (s : State) (gc : Nat) : List UnitId := (s.residents gc).map fun kc => UnitId.group kc.1

/-- Groups of a team wherever they are. -/
def State.teamGroups (s : State) (tk : Nat) : List UnitId :=
  (s.ctxs.filter fun kc => kc.2.team = tk && kc.2.alive).map fun kc => UnitId.group kc.1

/-- Every unit of a stack, its landing area among them. -/
def State.stackUnits (s : State) (gs : Nat) : List UnitId :=
  ((List.range 24).flatMap fun c => s.groupsOn (24 * gs + c) ++ enginesOn (24 * gs + c)) ++ s.landedOn gs ++ [.bankUnits gs]

/-- The context that holds the issuing lane of a command: the issuer, or a part that split from it since. -/
def State.cmdCtx (s : State) (c : Cmd) : Nat :=
  ((c.ctx :: c.also).find? fun k => ((s.ctx? k).map fun x => x.lanes.getLsbD c.lane).getD false).getD c.ctx

/-- The unit an issuer is: an engine's issuer is the group of its command's issuing lane (16 R350). -/
def State.issuerUnit (s : State) : Issuer → List UnitId
  | .path cid _ => [.group cid]
  | .engine k => match s.cmd? k with
    | some c => [.group (s.cmdCtx c)]
    | none => []
  | .bank gs => [.bankUnits gs]
  | .nobody => []

/-- The path of an issuer. -/
def State.issuerPath (s : State) : Issuer → List UnitId
  | .path cid e => [.path cid e]
  | .engine k => match s.cmd? k with
    | some c => match s.ctx? (s.cmdCtx c) with
      | some x => (x.validPaths.filter fun e => (x.path e).mask.getLsbD c.lane).map fun e => .path (s.cmdCtx c) e
      | none => []
    | none => []
  | .bank gs => [.bankUnits gs]
  | .nobody => []

/-- The units a firing stops (16 Table 16-3), other than through the halt line. A bank pass stops its bank units. -/
def State.scopeUnits (s : State) (scope gs : Nat) (i : Issuer) : List UnitId :=
  match scope with
  | 0 => s.issuerPath i
  | 1 => s.issuerUnit i
  | 2 => match s.issuerTeam i with
    | some t => s.teamGroups t
    | none => s.issuerUnit i
  | 3 => match s.issuerCore i with
    | some gc => s.groupsOn gc ++ enginesOn gc
    | none => s.issuerUnit i
  | _ => s.stackUnits gs

/-- AUX of a watch stop (16 R358). -/
def watchAux (idx gs : Nat) : Nat := idx + gs % 16 * 64 + gs / 16 * 1024

/-- Is this unit the matching one? -/
def Issuer.isUnit (i : Issuer) (s : State) (u : UnitId) : Bool := (s.issuerUnit i).contains u || (s.issuerPath i).contains u

/-- The watch record of a predicate of SCOPE 6 (16 R351, Table 16-5): with the issuing group and its regions; a command's with its core; an
issuer that is neither stands as core 0 of the predicate's stack (log 66, DESIGN CHOICE). -/
def State.watchRecord (s : State) (i : Issuer) (idx gs addr : Nat) : State :=
  let w1 := idx + gs % 16 * 64 + addr % 2 ^ 54 * 2 ^ 10
  let put (gc reg1 reg0 : Nat) : State :=
    if s.traced gc then s.trcPut gc (trcWord0 (s.now gc) reg1 reg0 0 (coreNo gc) 9) w1 else s
  match i with
  | .path cid _ => s.trace cid 9 w1
  | .engine k => match s.cmd? k with
    | some c => match s.ctx? (s.cmdCtx c) with
      | some x => if x.gc = c.gc then s.trace (s.cmdCtx c) 9 w1 else put c.gc x.reg1 x.reg0
      | none => put c.gc 0 c.region
    | none => s
  | _ => if (s.stk gs).trcEn then s.trcPut (24 * gs) (trcWord0 (s.stkNow gs) 0 0 0 0 9) w1 else s

/-- The units the fired predicates stop, each once: a group's own stop takes its paths with it. -/
def State.firedUnits (s : State) (fs : List (Nat × Nat)) (gs : Nat) (i : Issuer) : List UnitId :=
  let us := fs.flatMap fun f => if f.2 = 5 then s.issuerUnit i else s.scopeUnits f.2 gs i
  let whole (u : UnitId) : Bool := match u with
    | .path cid _ => us.contains (.group cid)
    | _ => false
  (us.foldl addUnit []).filter fun u => !whole u

/-- Begin the stop of the fired predicates: the lowest index names it to every unit (16 R356, R357); scope 6 writes a watch record instead.
Answers the stop event, if one began. -/
def State.fire (s : State) (fs : List (Nat × Nat)) (gs : Nat) (i : Issuer) (pslot addr : Nat) (lanes : Mask) : State × Option Nat :=
  let s := (fs.filter fun f => f.2 = 6).foldl (fun s f => s.watchRecord i f.1 gs addr) s
  match fs.filter fun f => f.2 ≠ 6 with
  | [] => (s, none)
  | (idx, sc) :: rest =>
    let (ev, s) := s.fresh
    let us := s.firedUnits ((idx, sc) :: rest) gs i
    let far := (us.map fun u => pkgOf (s.unitGs u)).eraseDups.filter fun p => p ≠ pkgOf gs
    let s := us.foldl (fun s u =>
      let (k, s) := s.fresh
      let m := i.isUnit s u
      { s with stops := s.stops ++ [⟨k, gs, ev, u, 0x80, watchAux idx gs, if m then addr else 0, if m then lanes else 0, false, false, pslot, 0, 0,
        pkgOf (s.unitGs u), false, []⟩] }) s
    let s := far.foldl (fun s p => s.sendManage gs p ev) s
    let s := if ((idx, sc) :: rest).any fun f => f.2 = 5 then s.raiseLine gs pslot 0x80 ev (s.issuerUnit i) else s
    (s, some ev)

/-- Show an event of core `gc` to its core predicates. -/
def State.watchCore (s : State) (gc : Nat) (pre : Bool) (w : WEvent) (fld : Nat → Nat → Nat) : State × List (Nat × Nat) :=
  let m := (s.core gc).preds
  if m.isEmpty then (s, []) else
  let (m, fs) := evalBank m 0 15 false pre w fld
  (s.updCore gc fun k => { k with preds := m }, fs)

/-- Show an event at a location of stack `gs` to its home-side predicates. -/
def State.watchHome (s : State) (gs : Nat) (pre : Bool) (w : WEvent) (fld : Nat → Nat → Nat) : State × List (Nat × Nat) :=
  let m := (s.stk gs).preds
  if m.isEmpty then (s, []) else
  let (m, fs) := evalBank m 16 47 true pre w fld
  (s.updStk gs fun k => { k with preds := m }, fs)

/-- Flags raised into the FSTAT of a lane on a core by an issue under region `reg`: exception predicates (16 R349, R350). The stop follows the
event. -/
def State.watchFlagsOf (s : State) (cid e lane reg : Nat) (fl : Flags) : State :=
  if fl = 0 then s else
  match s.ctx? cid with
  | none => s
  | some c =>
    let (s, fs) := s.watchCore c.gc false ⟨0, 0, 0, c.pslot, some (lane, c.gidx, reg), fl⟩ (fun _ _ => 0)
    (s.fire fs (gsOf c.gc) (.path cid e) c.pslot 0 (laneBit lane)).1

/-- Flags of a word that issues now. -/
def State.watchFlags (s : State) (cid e lane : Nat) (fl : Flags) : State :=
  s.watchFlagsOf cid e lane (((s.ctx? cid).map (·.reg0)).getD 0) fl

/-- OR flags into a lane's FSTAT and show them to the exception predicates, with the region at issue (02 R35, R36; 16 R350). -/
def State.raiseFlags (s : State) (cid e lane reg : Nat) (fl : Flags) : State :=
  if fl = 0 then s else
  (s.updCtx cid fun c => { c with fstat := mset c.fstat lane (mget c.fstat lane 0 ||| fl) 0 }).watchFlagsOf cid e lane reg fl

end Sys2Proof.Machine
end

