-- ==== Sys2Proof/Machine/Xlat.lean ====
section
/-! DEFINITION. Translation (03 R49-R56) and the probe stage (03 R59, R60; 09 R181): from a lane's address to its home. -/

namespace Sys2Proof.Machine

/-- Is a physical address in aperture-0 DRAM of a package (03 R50, R52)? -/
def ownDram (pkg pa : Nat) : Bool := pkgOf (paGs pa) = pkg && isDram (paLoc pa)

/-- Virtual-address bits that index a level, and how many (03 Table 3-3). -/
def levelIndex (lvl va : Nat) : Nat := if lvl = 4 then bits va 52 5 else bits va (16 + 9 * lvl) 9

/-- Offset bits of a leaf at a level. -/
def leafBits (lvl : Nat) : Nat := 16 + 9 * lvl

/-- The walk from a table at level `lvl`: a leaf with its level, or the level of the entry that stopped it (03 R52). The manual names no fault
for a walker's read of a poisoned or uncorrectable sector: the walk goes on with the bytes stored there (log 90, DESIGN CHOICE). It gives
BMAJ by the leaf of an access, and a table read has none: the walker reads in the interleaved layout (log 91, DESIGN CHOICE). -/
def walkFrom (s : State) (pkg va : Nat) : Nat → Nat → Except Nat (Nat × Nat)
  | lvl, table =>
    let e := s.num (table + 8 * levelIndex lvl va) 8
    if !nbit e 0 then .error lvl else
    match lvl with
    | 0 => .ok (e, 0)
    | l + 1 =>
      if nbit e 1 then (if 3 ≤ l + 1 then .error (l + 1) else .ok (e, l + 1))
      else
        let next := bits e 12 40 * 4096
        if ownDram pkg next then walkFrom s pkg va l next else .error (l + 1)

/-- The five-level walk on a stack (03 R49-R52): a disabled slot and a root outside own DRAM stop it at level 4. -/
def walk (s : State) (gs pslot va : Nat) : Except Nat (Nat × Nat) :=
  let root := (mget (s.stk gs).xlatRoot pslot 0).toNat
  let table := bits root 12 40 * 4096
  if !nbit root 0 || !ownDram (pkgOf gs) table then .error 4 else walkFrom s (pkgOf gs) va 4 table

/-- Addresses of the table entries a walk reads (03 R52). -/
def walkReads (s : State) (pkg va : Nat) : Nat → Nat → List Nat
  | lvl, table =>
    let at_ := table + 8 * levelIndex lvl va
    let e := s.num at_ 8
    at_ :: match lvl with
      | 0 => []
      | l + 1 =>
        let next := bits e 12 40 * 4096
        if nbit e 0 && !nbit e 1 && ownDram pkg next then walkReads s pkg va l next else []

/-- The rows a walk opens (04 R405). -/
def State.walkRows (s : State) (gs pslot va : Nat) : State :=
  let root := (mget (s.stk gs).xlatRoot pslot 0).toNat
  let table := bits root 12 40 * 4096
  if !nbit root 0 || !ownDram (pkgOf gs) table then s
  else (walkReads s (pkgOf gs) va 4 table).foldl (fun s a => s.touchRow a) s

/-- Does a buffer entry hold the leaf of an address? -/
def TlbEntry.hits (t : TlbEntry) (pslot va : Nat) : Bool := t.pslot = pslot && va / 2 ^ t.size = t.page

/-- Make an entry the most recently used of a buffer of `cap` entries (03 R55). -/
def tlbTouch (l : List TlbEntry) (t : TlbEntry) (cap : Nat) : List TlbEntry := (t :: l.filter (· ≠ t)).take cap

/-- Look an address up for a core (or for the stack's own units): core buffer, shared buffer, walk; hits and walks fill the buffers
(03 R55). -/
def State.lookup (s : State) (gs : Nat) (gc : Option Nat) (pslot va : Nat) : State × Except Nat TlbEntry :=
  let fillCore (s : State) (t : TlbEntry) : State :=
    match gc with
    | some g => s.updCore g fun k => { k with tlb := tlbTouch k.tlb t 512 }
    | none => s
  let inCore := gc.bind fun g => (s.core g).tlb.find? (TlbEntry.hits · pslot va)
  match inCore with
  | some t => (fillCore s t, .ok t)
  | none =>
    match (s.stk gs).tlb.find? (TlbEntry.hits · pslot va) with
    | some t => (fillCore (s.updStk gs fun k => { k with tlb := tlbTouch k.tlb t 16384 }) t, .ok t)
    | none =>
      let r := walk s gs pslot va
      let s := s.walkRows gs pslot va
      match r with
      | .error l => (s, .error l)
      | .ok (e, lvl) =>
        let t : TlbEntry := ⟨pslot, va / 2 ^ leafBits lvl, leafBits lvl, BitVec.ofNat 64 e⟩
        (fillCore (s.updStk gs fun k => { k with tlb := tlbTouch k.tlb t 16384 }) t, .ok t)

/-- Physical address a leaf gives (03 R52): FRAME bits below the leaf's size come from the virtual address. -/
def TlbEntry.pa (t : TlbEntry) (va : Nat) : Nat :=
  bits t.entry.toNat t.size (52 - t.size) * 2 ^ t.size + va % 2 ^ t.size

/-- APERTURE of a leaf. -/
def TlbEntry.aper (t : TlbEntry) : Nat := bits t.entry.toNat 6 2

/-- Frame and aperture agree, and the access ends within its region (03 R53, Table 3-6). -/
def aperOk (pkg aper pa n : Nat) : Bool :=
  let gs := paGs pa
  let loc := paLoc pa
  let same := pkgOf gs = pkg
  let plain := match locKind gs loc with
    | .dram => decide (loc + n ≤ 0x1800000000)
    | .shared => decide (loc + n ≤ 0x20001C00000)
    | .scratch .. => decide (loc + n ≤ 0x28000000000 + 24 * 0x80000)
    | _ => false
  match aper with
  | 0 => same && plain
  | 1 => !same && plain
  | 2 => same && gs % 16 = 0 && decide (0x30000000000 ≤ loc) && decide (loc + n ≤ 0x40000000000)
  | _ => same && locKind gs loc = .regs && decide (loc + n ≤ 0x24100000000)

/-- What the probe is told of an access: its class (15 Table 15-2 ACLASS), its size in bytes, whether the aperture accepts it
(09 Table 9-3), and whether it is sent by message (check 6). -/
structure Want where
  acls : Nat
  n : Nat
  aper2 : Bool
  aper3 : Bool
  msg : Bool
  deriving DecidableEq, Repr

/-- Who asks: core, stack, process slot, user mode. -/
structure Asker where
  gs : Nat
  gc : Option Nat
  pslot : Nat
  user : Bool
  deriving DecidableEq, Repr

/-- Permission bits of a leaf for a class (03 Table 3-10). -/
def permOk (acls leaf : Nat) : Bool :=
  match acls with
  | 0 => true
  | 1 | 5 | 7 | 9 => nbit leaf 2
  | 2 | 6 | 8 => nbit leaf 3
  | 10 => nbit leaf 4
  | _ => nbit leaf 2 && nbit leaf 3

/-- A failed check: its code and the level of the report (7 without a walk). -/
abbrev Miss := Nat × Nat

/-- Probe checks 2-4 and 6 on a global virtual address (03 Table 3-9): a reference, its aperture and the leaf's size in bits, or the first
failure. -/
def State.probeLeaf (s : State) (a : Asker) (w : Want) (va : Nat) : State × Except Miss (Nat × Nat × Nat) :=
  if 2 ^ 57 ≤ va then (s, .error (0x20, 7)) else
  match s.lookup a.gs a.gc a.pslot va with
  | (s, .error l) => (s, .error (0x20, l))
  | (s, .ok t) =>
    let pa := t.pa va
    let leaf := t.entry.toNat
    if !aperOk (pkgOf a.gs) t.aper pa w.n then (s, .error (0x23, 7))
    else if w.acls = 0 then (s, .ok (pa, t.aper, t.size))
    else if !permOk w.acls leaf || (a.user && !nbit leaf 5) || (t.aper = 2 && !w.aper2) || (t.aper = 3 && !w.aper3) then
      (s, .error (0x21, 7))
    else if w.msg && t.aper = 1 && !nbit leaf 8 then (s, .error (0x22, 7))
    else (s, .ok (pa + (if nbit leaf 10 then 2 ^ 52 else 0), t.aper, t.size))

/-- The reference and aperture of a probe. -/
def State.probeVa (s : State) (a : Asker) (w : Want) (va : Nat) : State × Except Miss (Nat × Nat) :=
  match s.probeLeaf a w va with
  | (s, .error m) => (s, .error m)
  | (s, .ok (r, ap, _)) => (s, .ok (r, ap))

/-- Where a lane's access performs: reference, aperture, home stack, home core for the team space, and the size of the leaf that translated
it, 0 without one. -/
structure Home where
  ref : Nat
  aper : Nat
  gs : Nat
  core : Option Nat
  leaf : Nat
  deriving DecidableEq, Repr

/-- Core and scratchpad offset of a team offset (03 R45, 19 R399). -/
def Team.spot (t : Team) (off : Nat) : Nat × Nat :=
  if t.pair && decide (t.scratch / 2 ≤ off) then (t.baseGc + 1, t.firstLine * 128 + (off - t.scratch / 2))
  else (t.baseGc, t.firstLine * 128 + off)

/-- The probe of one lane (03 R44-R47, R59): check 1 alignment, then address, translation and permissions by space. -/
def State.probe (s : State) (c : Ctx) (w : Want) (space addr : Nat) : State × Except Miss Home :=
  if w.n ≠ 0 && addr % w.n ≠ 0 then (s, .error (0x07, 7)) else
  let gs := gsOf c.gc
  match space with
  | 0 =>
    match s.probeLeaf ⟨gs, some c.gc, c.pslot, c.user⟩ w addr with
    | (s, .error m) => (s, .error m)
    | (s, .ok (r, ap, sz)) => (s, .ok ⟨r, ap, paGs (refPa r), none, sz⟩)
  | 1 =>
    match s.team? c.team with
    | none => (s, .error (0x20, 7))
    | some t =>
      if t.scratch < addr + max w.n 1 then (s, .error (0x20, 7))
      else
        let (gc, off) := t.spot addr
        (s, .ok ⟨scratchPa gc off, 0, gsOf gc, some gc, 0⟩)
  | 2 =>
    if 0x1C00000 < addr + max w.n 1 then (s, .error (0x20, 7))
    else if c.user && decide (0x1B00000 ≤ addr) && (w.acls = 2 || w.acls = 3 || w.acls = 4) then (s, .error (0x21, 7))
    else (s, .ok ⟨sharedPa gs addr, 0, gs, none, 0⟩)
  | _ =>
    let size := ((s.launch? c.launch).map (·.desc.priv)).getD 0
    if size < addr + max w.n 1 then (s, .error (0x20, 7))
    else (s, .ok ⟨c.privBase + addr, 0, gsOf c.birthGc, none, 0⟩)

/-- Probe every lane of a word in ascending order: the home of each, and the lanes that failed with their codes. -/
def State.probeLanes (s : State) (c : Ctx) (w : Want) (space : Nat) : List (Nat × Nat) → State × List (Nat × Home) × List (Nat × Nat × Miss)
  | [] => (s, [], [])
  | (l, a) :: rest =>
    let (s, r) := s.probe c w space a
    let (s, hs, ms) := s.probeLanes c w space rest
    match r with
    | .ok h => (s, (l, h) :: hs, ms)
    | .error m => (s, hs, (l, a, m) :: ms)

/-- The report of failed lanes (03 R60): the lowest lane decides the code; FLANES are the lanes that failed with it. -/
def missReport (acls pc : Nat) (ms : List (Nat × Nat × Miss)) : Report32 :=
  match ms with
  | [] => plainReport 0 pc 0
  | (_, a, (code, lvl)) :: _ => ⟨code, 0, lvl, acls, 0, false, a, pc, maskOf ((ms.filter fun m => m.2.2.1 = code).map (·.1))⟩

/-- Probe a code address for execution (06 R406): checks 2-4 with EX. -/
def State.probeCode (s : State) (c : Ctx) (off : Nat) : State × Except Miss Nat :=
  match s.probeVa ⟨gsOf c.gc, some c.gc, c.pslot, c.user⟩ ⟨10, 4, true, true, false⟩ ((c.codeBase + off) % 2 ^ 64) with
  | (s, .error m) => (s, .error m)
  | (s, .ok (r, _)) => (s, .ok r)

/-- The code word at a code offset, or the failed check. With the host link down a word of host memory reads as all ones (17 R376); a fetch is no
load and sets nothing sticky (log 104, DESIGN CHOICE). -/
def State.codeWord (s : State) (c : Ctx) (off : Nat) : State × Except Miss Word :=
  match s.probeCode c off with
  | (s, .error m) => (s, .error m)
  | (s, .ok r) => (s, .ok (if isHostRef r && !s.hostUp (gsOf c.gc) then BitVec.allOnes 32 else BitVec.ofNat 32 (s.num (refCell r) 4)))

/-- Does a word carry a clause header's signature (06 Table 6-6)? -/
def isHeader (w : Word) : Bool := w.toNat / 2 ^ 26 = 0b111110

end Sys2Proof.Machine
end

