-- ==== Sys2Proof/Machine/Dram.lean ====
section
/-! DEFINITION. Cells behind references: bytes under either bank layout (03 R54), rows and columns (04 R72), what the home-die decoder finds
on a read (04 R77, R78; 09 R404), the arithmetic units of the banks (03 R62, 09 R184-R186), and reading a span of virtual addresses. -/

namespace Sys2Proof.Machine

/-! ## Bytes behind a reference -/

/-- `n` bytes from a reference. -/
def State.refBytes (s : State) (r n : Nat) : List Byte := (List.range n).map fun i => s.byte (refCell (r + i))

/-- `n` bytes from a reference as a number (00 R4). -/
def State.refNum (s : State) (r n : Nat) : Nat := ofBytes (s.refBytes r n)

/-- The aligned 32-byte blocks a reference's access touches, as references. -/
def refBlocks (r n : Nat) : List Nat :=
  (List.range ((r + n - 1) / 32 - r / 32 + 1)).map fun i => (r / 32 + i) * 32

/-- Is a cell in the part of shared memory that holds launch records only, whose fields are RO (14 R313, Table 14-3)? -/
def isRecord (cell : Nat) : Bool := decide (0x20001B00000 ≤ paLoc cell) && decide (paLoc cell < 0x20001C00000)

/-- Bytes written from a reference, in order. -/
def writeCells : List Host.Cell → Nat → List Byte → List Host.Cell
  | m, _, [] => m
  | m, r, b :: bs => writeCells (mset m (refCell r) b memDefault) (r + 1) bs

/-- Cells and marks of a write from a reference: bytes, struck columns as stored (04 R78), then the marks of the sectors it sets whole (09
R404). -/
def State.cellStore (s : State) (r : Nat) (bs : List Byte) : State :=
  let n := bs.length
  let whole := (refBlocks r n).filter fun b => decide (r ≤ b) && decide (b + 32 ≤ r + n)
  let s := ({ s with mem := writeCells s.mem r bs } : State).patchCells (paGs (refPa r)) (bs.zipIdx.map fun b => (refCell (r + b.2), b.1))
  whole.foldl (fun s b => { s with poison := mset s.poison (refCell b / 32) false false }.freshColumn (refCell b)) s

/-- A write at a home by anyone but the dispatcher: the launch records are RO, and a write to them is ignored (14 Table 14-3, 00 R5). -/
def State.refStore (s : State) (r : Nat) (bs : List Byte) : State := if isRecord (refPa r) then s else s.cellStore r bs

/-- Mark a sector poisoned (09 R404). -/
def State.markPoison (s : State) (r : Nat) : State := { s with poison := mset s.poison (refCell r / 32) true false }

/-- Does an access touch a poisoned sector? -/
def State.refPoisoned (s : State) (r n : Nat) : Bool := (refBlocks r n).any fun b => mget s.poison (refCell b / 32) false

/-- The decoder's error entry of a cell's column: none, or whether it is uncorrectable and what stands stored (04 R78). -/
def State.columnError (s : State) (cell : Nat) : Option (Bool × Nat) :=
  if isDram (paLoc cell) then
    let (b, row, col) := cellRow cell
    ((mget (s.stk (paGs cell)).errs (rowKey b row) []).find? fun e => e.1 = col).map (·.2)
  else none

/-- A read through the home-die decoder (04 R78, 09 R183, R404): 0x40 on poison, 0x41 on an uncorrectable column, else 0; a corrected
column makes its row unclean. -/
def State.decodeRead (s : State) (r n : Nat) : State × Nat :=
  (refBlocks r n).foldl (fun (s, code) b =>
    if code ≠ 0 then (s, code) else
    let cell := refCell b
    if mget s.poison (cell / 32) false then (s, 0x40)
    else match s.columnError cell with
      | some (true, _) => (s.markPoison b, 0x41)
      | some (false, _) =>
        let (bk, row, _) := cellRow cell
        (s.updStk (paGs cell) fun k => { k with unclean := mset k.unclean (rowKey bk row) true false }, 0)
      | none => (s, 0)) (s, 0)

/-- Does a bank serve only its unit or the scrubber (04 R75, R77)? -/
def State.bankBusy (s : State) (gs bank : Nat) : Bool :=
  let k := s.stk gs
  mget k.visiting bank 0 ≠ 0 || match k.bankQueue with
    | [] => false
    | r :: _ => r.inPass && match mfind r.modes bank with
      | some .emulated => !r.emuDone.contains bank
      | some .skipped => false
      | _ => decide (r.col < r.words.length)

/-- Is an access at a reference held by its bank? -/
def State.refBusy (s : State) (r : Nat) : Bool :=
  let cell := refCell r
  isDram (paLoc cell) && s.bankBusy (paGs cell) (cellRow cell).1

/-- Is a scratchpad line of the access absent (03 R64)? -/
def State.refAbsent (s : State) (r n : Nat) : Bool :=
  match locKind (paGs (refPa r)) (paLoc (refPa r)) with
  | .scratch .. => (List.range ((refPa r + n - 1) / 128 - refPa r / 128 + 1)).any fun i => mget s.absent (refPa r / 128 + i) false
  | _ => false

/-! ## What the home-side predicates see -/

/-- Do home-side predicates see the location (16 R345)? -/
def watched (pa : Nat) : Bool :=
  match locKind (paGs pa) (paLoc pa) with
  | .dram | .shared | .scratch .. => true
  | _ => false

/-- Reads a field at a location of the stack of a reference, as it stands. -/
def State.fieldAt (s : State) (ref lo k : Nat) : Nat := s.refNum (ref - paLoc (refPa ref) + lo) k

/-- Show an access at a reference to the home-side predicates of its stack; the stop event a firing began. -/
def State.watchAt (s : State) (i : Issuer) (pre : Bool) (w : WEvent) (ref : Nat) : State × Option Nat :=
  if !watched (refPa ref) then (s, none) else
  let gs := paGs (refPa ref)
  let (s, fs) := s.watchHome gs pre { w with addr := paLoc (refPa ref) } (s.fieldAt ref)
  s.fire fs gs i w.pslot (paLoc (refPa ref)) (match w.who with
    | some (l, _) => laneBit l
    | none => 0)

/-! ## Stream writes of bank launches (04 R75, R76) -/

/-- A stream write performs at its home: a precise firing holds it, the other predicates see it afterwards (16 R345, R355). -/
def State.performStream (s : State) (x : StreamWait) : State :=
  let w : WEvent := ⟨1, paLoc (refPa x.ref), 32, x.pslot, none, 0⟩
  let h := paGs (refPa x.ref)
  match if x.shown then (s, none) else s.watchAt (.bank x.src) true w x.ref with
  | (s, some ev) => s.updStk h fun k => { k with streams := k.streams ++ [{ x with held := some ev, shown := true }] }
  | (s, none) => ((s.refStore x.ref (bytesOf 32 x.data.toNat)).watchAt (.bank x.src) false w x.ref).1

/-- Must a stream write wait: held, its bank taken, or behind one to the same place? -/
def State.streamWaits (s : State) (x : StreamWait) : Bool :=
  x.held.isSome || s.refBusy x.ref || (s.stk (paGs (refPa x.ref))).streams.any fun y => y.ref = x.ref

/-! ## Host writes a firing holds (16 R355) -/

/-- Host queue `q` of a package (17 Table 17-2). -/
def State.hq (s : State) (pkg q : Nat) : HostQ := mget (s.pkg pkg).queues q HostQ.reset

def State.setHq (s : State) (pkg q : Nat) (h : HostQ) : State := s.updPkg pkg fun k => { k with queues := mset k.queues q h HostQ.reset }

/-- The entry is taken (17 R379). -/
def State.hqTake (s : State) (pkg q : Nat) : State :=
  let h := s.hq pkg q
  s.setHq pkg q { h with head := (h.head + 1) % 2 ^ 32 }

/-- A SIGNAL has stored its value: its entry is taken, and its vector raised where it asks that (17 R379). -/
def State.signalled (s : State) (pkg q : Nat) (vector : Option Nat) : State :=
  (s.hqTake pkg q).updPkg pkg fun k => { k with msix := k.msix ++ vector.toList }

/-- Is a message a host write that may perform: no firing holds it, and its banks are free? -/
def State.hostFree (s : State) (gs : Nat) (m : Msg) : Bool :=
  match m.body with
  | .hostWrite _ ref data _ => m.dst = gs && m.held.isNone && !(refBlocks ref data.length).any s.refBusy && !s.refAbsent ref data.length
  | _ => false

/-- A host write that was held performs, and the other predicates see it; the queue whose SIGNAL it is goes on. -/
def State.performHost (s : State) (m : Msg) : State :=
  match m.body with
  | .hostWrite pslot ref data queue =>
    let s : State := { s with chan := s.chan.filter fun x => x.id ≠ m.id }
    let s := ((s.refStore ref data).watchAt .nobody false ⟨1, 0, data.length, pslot, none, 0⟩ ref).1
    match queue with
    | some (q, v) => (s.signalled (pkgOf m.src) q v).sendFlit m.src m.dst (planeOf m.src) 1 0
    | none => s
  | _ => s

/-- Host writes that waited at a home and wait no longer perform. -/
def State.flushHost (s : State) (gs : Nat) : State := (s.chan.filter (s.hostFree gs)).foldl (fun s m => s.performHost m) s

/-- The stream writes, and the host writes, that waited at a home and wait no longer perform, in arrival order. -/
def State.flushStreams (s : State) (gs : Nat) : State :=
  let xs := (s.stk gs).streams
  let s := s.flushHost gs
  xs.foldl (fun s x => if s.streamWaits x then s.updStk gs fun k => { k with streams := k.streams ++ [x] } else s.performStream x)
    (s.updStk gs fun k => { k with streams := [] })

/-- A stream write reaches its home. -/
def State.arriveStream (s : State) (x : StreamWait) : State :=
  if s.streamWaits x then s.updStk (paGs (refPa x.ref)) fun k => { k with streams := k.streams ++ [x] } else s.performStream x

/-- Every home's waiting stream writes that may perform do. -/
def State.flushAll (s : State) : State := (s.stks.map (·.1)).foldl (fun s gs => s.flushStreams gs) s

/-! ## Bank arithmetic units (03 R62, 09 Table 9-4) -/

/-- Minimum or maximum of FP32 values without flushing (09 R184). -/
def atomMinMax (max : Bool) (a b : Nat) : Nat × Flags :=
  let r := fMinMax 8 max a b
  (r.1, r.2)

/-- The new value and flags of an ATOM operation on the old value and the operand. -/
def atomOp (op old v : Nat) : Nat × Flags :=
  let a := old % 2 ^ 32
  let b := v % 2 ^ 32
  match op with
  | 0 => let x := sint 32 a + sint 32 b
    (wrap 32 x, flIf (clampInt 0 x).2 flOver)
  | 1 => fSum 8 0 0 false [.val (fDecode 8 a), .val (fDecode 8 b)]
  | 2 => (if sint 32 b < sint 32 a then b else a, 0)
  | 3 => (if sint 32 a < sint 32 b then b else a, 0)
  | 4 => (min a b, 0)
  | 5 => (max a b, 0)
  | 6 => (a &&& b, 0)
  | 7 => (a ||| b, 0)
  | 8 => (a ^^^ b, 0)
  | 9 => (b, 0)
  | 10 => (if b ≤ a then 0 else a + 1, 0)
  | 11 => (if a = 0 || b < a then b else a - 1, 0)
  | 12 => ((old + v) % 2 ^ 64, 0)
  | 13 => (v % 2 ^ 64, 0)
  | 14 => atomMinMax false a b
  | _ => atomMinMax true a b

/-- The ATOM operation whose arithmetic a POST operation has (09 R186); store forms are exchanges. -/
def postAtom (op : Nat) : Nat :=
  match op with
  | 1 => 0
  | 2 => 1
  | 3 => 2
  | 4 => 3
  | 5 => 6
  | 6 => 7
  | 7 => 8
  | 8 => 10
  | 10 => 12
  | _ => 13

/-! ## Spans of virtual addresses -/

/-- Split `n` bytes from `va` at 64 KiB boundaries; the fuel bounds the pieces. -/
def vaPieces : Nat → Nat → Nat → List (Nat × Nat)
  | 0, _, _ => []
  | fuel + 1, va, n =>
    if n = 0 then [] else
    let k := min n (65536 - va % 65536)
    (va, k) :: vaPieces fuel (va + k) (n - k)

/-- Probe every piece of a span: references, lengths and leaf sizes, or the first failing address with its code. -/
def State.probePieces (s : State) (a : Asker) (w : Want) : List (Nat × Nat) → State × Except (Nat × Miss) (List (Nat × Nat × Nat))
  | [] => (s, .ok [])
  | (va, k) :: rest =>
    match s.probeLeaf a { w with n := k } va with
    | (s, .error m) => (s, .error (va, m))
    | (s, .ok (r, _, leaf)) =>
      match s.probePieces a w rest with
      | (s, .error m) => (s, .error m)
      | (s, .ok rs) => (s, .ok ((r, k, leaf) :: rs))

/-- Probe a span of `n` bytes. -/
def State.probeSpan (s : State) (a : Asker) (w : Want) (va n : Nat) : State × Except (Nat × Miss) (List (Nat × Nat × Nat)) :=
  s.probePieces a w (vaPieces (n / 65536 + 2) va n)

/-- Bytes as stack `gs` reads them: host memory with the link down reads as all ones (17 R376). -/
def State.linkBytes (s : State) (gs r n : Nat) : List Byte :=
  if isHostRef r && !s.hostUp gs then List.replicate n (BitVec.allOnes 8) else s.refBytes r n

/-- Read a span of virtual addresses for a class, or its first failing address. -/
def State.readSpan (s : State) (a : Asker) (acls va n : Nat) : State × Except (Nat × Miss) (List Byte) :=
  match s.probeSpan a ⟨acls, 0, true, true, false⟩ va n with
  | (s, .error m) => (s, .error m)
  | (s, .ok rs) => (s, .ok (rs.flatMap fun rk => s.linkBytes a.gs rk.1 rk.2.1))

/-! ## Images in a save region (15 R341, R342) -/

/-- The save image of a team that is away. -/
def State.imageOf (s : State) (t : Team) : Option SaveImg := t.saved.bind fun k => s.saves.find? fun i => i.id = k

def State.setImage (s : State) (i : SaveImg) : State := { s with saves := s.saves.map fun j => if j.id = i.id then i else j }

/-- Physical address of a byte of an image. -/
def State.imgPa (s : State) (i : SaveImg) (off : Nat) : Nat :=
  paOf i.gs (bits (s.stk i.gs).saveBase.toNat 16 26 * 65536 + i.off * 65536 + off)

/-- Offset of a section of an image (15 Table 15-6): 0 directory, 1 contexts, 2 batches, 3 barriers, 4 engine, 5 scratchpad,
6 accumulator, 7 scale memory. -/
def SaveImg.sec (i : SaveImg) (n : Nat) : Nat := i.offs.getD n 0

/-- Bytes of the presence bitmap of a team's lines. -/
def Team.bitmapLen (t : Team) : Nat := (t.scratch / 128 + 511) / 512 * 64

/-- Physical address, first team offset and length of a team's lines on each of its cores. -/
def Team.runs (t : Team) : List (Nat × Nat × Nat) :=
  (List.range t.cores.length).map fun k => (scratchPa (t.baseGc + k) (t.firstLine * 128), k * (t.linesPer * 128), t.linesPer * 128)

/-- Cores on which a team holds a matrix slot. -/
def Team.slotCores (t : Team) : List Nat := (t.mslots.map (·.1)).eraseDups

/-- Number within a team of the line with a key. -/
def Team.lineNo (t : Team) (l : Nat) : Option Nat :=
  (t.runs.find? fun r => decide (lineOf r.1 ≤ l) && decide (l < lineOf r.1 + r.2.2 / 128)).map fun r => l - lineOf r.1 + r.2.1 / 128

/-- Is a line absent in the image of its team? -/
def State.imgAbsent (s : State) (i : SaveImg) (t : Team) (l : Nat) : Bool :=
  match t.lineNo l with
  | some k => !nbit (s.byte (s.imgPa i (i.sec 5 + k / 8))).toNat (k % 8)
  | none => false

/-- Set the presence bit of a line in the image of its team. -/
def State.setImgAbsent (s : State) (i : SaveImg) (t : Team) (l : Nat) (absent : Bool) : State :=
  match t.lineNo l with
  | some k =>
    let pa := s.imgPa i (i.sec 5 + k / 8)
    let rest := (s.byte pa).toNat - b2n (nbit (s.byte pa).toNat (k % 8)) * 2 ^ (k % 8)
    s.refStore pa (bytesOf 1 (rest + b2n (!absent) * 2 ^ (k % 8)))
  | none => s

/-- Write a number at an offset of the context `cid` in the image that holds it, once that is saved (15 R342). -/
def State.imgCtxNum (s : State) (cid off n v : Nat) : State :=
  match s.saves.find? fun i => i.phase ≠ .saving && i.taken.contains cid with
  | some i =>
    match mfind i.ctxOffs cid with
    | some o => s.refStore (s.imgPa i (o.1 + off)) (bytesOf n v)
    | none => s
  | none => s

end Sys2Proof.Machine
end

