-- ==== Sys2Proof/Machine/Stops.lean ====
section
/-! DEFINITION. A stop reaching its unit (15 R336, R337; 16 R356-R358, R407), and restarting what a stop event stopped (13 R308). -/

namespace Sys2Proof.Machine

/-- Lanes of the group's stopped paths. -/
def Ctx.stoppedLanes (c : Ctx) : Mask := c.validPaths.foldl (fun m e => if (c.path e).stopped then m ||| (c.path e).mask else m) 0

/-- Write the record of a group of which paths are stopped: at its place, and kept with it (16 R407). -/
def State.putStopRec (s : State) (cid : Nat) (r : StopRec) : State :=
  match s.ctx? cid with
  | none => s
  | some c => (s.setCtx cid { c with stopRec := some r }).putRec (gsOf c.gc) c.placeIdx r (some cid)

/-- A group with stopped paths has come to another place: its record stands there (16 R407). -/
def State.moveStopRec (s : State) (cid : Nat) : State :=
  match (s.ctx? cid).bind fun c => c.stopRec.map fun r => (c, r) with
  | some (c, r) => if c.stop.isSome then s else s.putStopRec cid { r with gs := gsOf c.gc, core := coreNo c.gc }
  | none => s

/-- A stop whose scope is one path (16 R407): the first writes the group's record, a later one its LANES. One that meets its path in a step ends
the step (16 R359). -/
def State.stopPath (s : State) (m : StopMsg) (cid e : Nat) : State :=
  match s.ctx? cid with
  | none => s
  | some c =>
    let p := c.stopPath e
    if !p.v || p.stopped then s
    else if c.stop.isSome then
      if (c.step.map (·.entry)) = some e then
        s.stopGroup cid m.ev m.code { groupRec s c e m.code with skid := m.skid, addr := m.addr, aux := m.aux }
      else s
    else
      let first := c.pathStop.isNone
      let d := { c.setPath e { p with stopped := true } with pathStop := if first then some ⟨m.ev, m.code⟩ else c.pathStop }
      let s := s.setCtx cid d
      match first, c.stopRec with
      | false, some r => s.putStopRec cid { r with lanes := d.stoppedLanes }
      | _, _ => (s.putStopRec cid { groupRec s c e m.code with skid := m.skid, addr := m.addr, lanes := d.stoppedLanes, aux := m.aux }).trace
          cid 10 (m.code + min m.skid 255 * 65536)

/-- Index of the record of an engine of core `gc`. -/
def engineRec (unitNo gc : Nat) : Nat := 1536 + 24 * (unitNo - 1) + coreNo gc

/-- STEP of a command's record: the MLOOP step index or the stream byte offset. -/
def CmdKind.stepNo : CmdKind → Nat
  | .mloop _ _ st _ => st
  | .vrrun _ base _ next _ _ _ => next - base
  | _ => 0

/-- The stop record of an engine of core `gc` that holds no command (15 Table 15-5). -/
def idleRec (s : State) (unitNo gc reason : Nat) : StopRec :=
  ⟨unitNo, reason, 0, 0, gsOf gc, coreNo gc, 0, false, false, 0, 0, 0, 0, 0, 0, 0, s.now gc, 0, 0, 0⟩

/-- The stop record of a command. -/
def cmdRec (s : State) (c : Cmd) (reason : Nat) : StopRec :=
  let x := (s.ctx? (s.cmdCtx c)).getD birthCtx
  { idleRec s (c.kind.unit c.gc).number c.gc reason with
    launch := ((s.launch? (s.cmdLaunch c)).map (·.id)).getD 0
    teamLin := ((s.team? c.team).map (·.lin)).getD 0
    pc := c.pc
    stepNo := c.kind.stepNo
    reg0 := x.reg0
    reg1 := x.reg1
    depth := x.rdepth }

/-- Detail of a parked command's report, as FLANES shows it (15 Table 15-2): DETAIL in [63:32], the issuing lane in [5:0]. -/
def State.reportLanes (s : State) (c : Cmd) : Mask :=
  match s.reports.find? fun r => r.cmd = c.id with
  | some r => BitVec.ofNat 64 (r.detail * 2 ^ 32 + r.lane)
  | none => BitVec.ofNat 64 c.lane

/-- Does a stop take only the units of a partition: the halt line's, and a HALT word's (13 R303)? -/
def StopMsg.ofPart (m : StopMsg) : Bool := m.line || m.code = 0x82

/-- Stop an engine's commands: all of them, or those of a partition (15 R336). A watch of a wider scope freezes the engine, and an idle one
writes its record too (16 R358); the halt line stops what the partition's groups may still give it. A command with an element that parked
since the stop was sent records its fault as CAUSE (R337). -/
def State.stopEngine (s : State) (m : StopMsg) (gc : Nat) : State :=
  let u := m.target
  let s := if m.line then s.updCore gc fun k => { k with lineStop := mput k.lineStop (u.number * 16 + m.pslot) ⟨m.ev, m.code⟩ } else s
  let mine (c : Cmd) : Bool :=
    c.gc = gc && !c.kind.isCtxCopy && c.kind.unit gc = u && c.stop.isNone && (!m.ofPart || s.inPart (s.cmdLaunch c) m.pslot)
  let already := !m.ofPart && (mfind (s.core gc).engStop u.number).isSome
  if already then s else
  let s := if m.ofPart then s else s.updCore gc fun k => { k with engStop := mput k.engStop u.number ⟨m.ev, m.code⟩ }
  let put (r : StopRec) : State := s.putRec (gsOf gc) (engineRec u.number gc) { r with skid := m.skid, aux := m.aux } none
  match s.cmds.filter mine with
  | [] => if m.ofPart then s else put (idleRec s u.number gc m.code)
  | c :: cs =>
    let met := s.reports.find? fun r => decide (m.id < r.id) && (c :: cs).any fun d => d.id = r.cmd
    let shown := met.or (s.reports.find? fun r => r.cmd = c.id)
    let s := put { cmdRec s c m.code with
      cause := (met.map (·.code)).getD 0
      addr := (shown.map (·.addr)).getD m.addr
      lanes := s.reportLanes c }
    { s with cmds := s.cmds.map fun d => if mine d then { d with stop := some ⟨m.ev, m.code⟩ } else d }

/-- The record of the bank units (15 R339: record 1,608), running the launch `b` or idle. -/
def bankRec (s : State) (gs : Nat) (b : Option BankRun) (m : StopMsg) : StopRec :=
  { unitRec s gs 4 m.code with
    skid := m.skid
    launch := ((b.bind fun r => s.launch? r.launch).map (·.id)).getD 0
    stepNo := (b.map (·.pass)).getD 0
    addr := m.addr
    aux := m.aux }

/-- Stop the bank units: a watch holds them whatever they run, idle or not (16 R356, R358); a HALT holds the partition's launches where they
are, a request that names a launch that one (16 R360); the halt line ends those as DONE with STATUS 0xA0, FLAGS and COUNTS as far as
they came (log 78, DESIGN CHOICE), and releases their banks (04 R88, 15 R337). -/
def State.stopBanks (s : State) (m : StopMsg) (gs : Nat) (one : Option Nat) : State :=
  let all := !m.ofPart && one.isNone
  let mine (b : BankRun) : Bool := b.stop.isNone && (match one with
    | some k => b.launch = k
    | none => all || s.inPart b.launch m.pslot)
  if all && (s.stk gs).bankStop.isSome then s else
  let runs := (s.stk gs).bankQueue.filter mine
  let s := if runs.isEmpty && !all then s else s.putRec gs 1608 (bankRec s gs runs.head? m) none
  if m.line then
    let s := runs.foldl (fun s b => (s.endRun gs b).updLaunch b.launch fun l => { l with
        state := .done
        status := if l.status = 0 then 0xA0 else l.status }) s
    (s.updStk gs fun k => { k with bankQueue := k.bankQueue.filter fun b => !mine b }).flushAll
  else s.updStk gs fun k => { k with
    bankStop := if all then some ⟨m.ev, m.code⟩ else k.bankStop
    bankQueue := k.bankQueue.map fun b => if mine b then { b with stop := some ⟨m.ev, m.code⟩ } else b }

/-- A context in the landing area stops there; its record follows when it is placed (15 R337). -/
def State.stopLanded (s : State) (m : StopMsg) (cid : Nat) (c : Ctx) : State :=
  if c.stop.isSome then s else s.setCtx cid { c.putBack with stop := some ⟨m.ev, m.code⟩, stall := 9 }

/-! ## A stop on its way, at its unit, and taken -/

/-- Has the unit of a stop left, so that the stop waits for its landing (15 R337)? -/
def State.elusive (s : State) (m : StopMsg) : Bool :=
  match m.target with
  | .group cid | .path cid _ => ((s.ctx? cid).map fun c => decide (c.place = .moving)).getD false
  | _ => false

/-- Does a stop stay within its package, on the mesh? -/
def State.onMesh (s : State) (m : StopMsg) : Bool := m.pkg = pkgOf m.src || pkgOf (s.unitGs m.target) = pkgOf m.src

/-- Has a stop come to its unit: on the mesh in the order in which the stops of one stack for another were sent (05 R90), in another package
once a management flit of its event has been handed over there (05 R105)? -/
def State.heard (s : State) (m : StopMsg) : Bool :=
  if s.onMesh m then
    !(s.stops.any fun x => decide (x.id < m.id) && x.src = m.src && !x.reached && s.onMesh x && !s.elusive x &&
      s.unitGs x.target = s.unitGs m.target)
  else decide (1 ≤ mget (s.pkg m.pkg).got m.ev 0)

/-- The stop is over. -/
def State.dropStop (s : State) (m : StopMsg) : State := { s with stops := s.stops.filter fun x => x.id ≠ m.id }

/-- A stop takes its unit; a unit already stopped ignores it (16 R357). A group stops at the boundary its loop rounds leave it at; under the
halt line it names what it met on the way as CAUSE (15 R337). -/
def State.takeStop (s : State) (m : StopMsg) : State :=
  let s := s.dropStop m
  match m.target with
  | .group cid =>
    match s.ctx? cid with
    | none => s
    | some c =>
      if c.stop.isSome && c.step.isNone then s else
      let c := c.rounds 3
      let s := s.setCtx cid c
      let e := c.firstPath
      let r := { groupRec s c e m.code with skid := m.skid, addr := m.addr, aux := m.aux, unh := m.unhandled, cause := if m.line then c.met else 0 }
      s.stopGroup cid m.ev m.code (if m.lanes = 0 then r else { r with lanes := m.lanes })
  | .path cid e =>
    match s.ctx? cid with
    | none => s
    | some c => (s.setCtx cid (c.rounds 3)).stopPath m cid e
  | .copyEngine gc | .matrixUnit gc | .valueRun gc => s.stopEngine m gc
  | .bankUnits gs => s.stopBanks m gs none
  | .bankRun gs k => s.stopBanks m gs (some k)
  | .stackLine gs =>
    let s := s.lineAt gs m.pslot m.ev m.first
    let late := (s.partUnits m.pslot).filter fun u => s.unitGs u = gs && !(s.stops.any fun x => x.line && x.pslot = m.pslot && x.target = u)
    s.sendStops gs m.ev 0xA0 0 m.pslot 0 true late

/-- Does a stop's SKID count from the firing: the matching unit of a watch (16 R358)? -/
def StopMsg.matching (m : StopMsg) : Bool := m.lanes ≠ 0

/-- Does a path hold a lane of the match? -/
def StopMsg.matches (m : StopMsg) (p : Path) : Bool := m.lanes &&& p.mask ≠ 0

/-- A stop comes to its unit, which may do no more than its bound from now on; SKID of any but the matching unit counts from here, and so do
the words of its paths that do not match (15 R336, 16 R358). -/
def State.reachStop (s : State) (m : StopMsg) : State :=
  let left := match m.target with
    | .group cid | .path cid _ => match s.ctx? cid with
      | some c => m.spent.filter fun e => m.matches (c.path e)
      | none => []
    | _ => []
  { s with stops := s.stops.map fun x => if x.id = m.id then { m with reached := true, skid := if m.matching then m.skid else 0, spent := left } else x }

/-- One move of a stop: it comes to its unit, then it takes it; the unit does what its bound allows in between. A context under way takes it at
its landing (15 R337). -/
def State.deliverStop (s : State) (m : StopMsg) : State :=
  if s.elusive m then s
  else if m.reached then s.takeStop m
  else if !s.heard m then s
  else match m.target with
    | .group cid => match s.ctx? cid with
      | none => s.dropStop m
      | some c => if c.place = .landed then (s.dropStop m).stopLanded m cid c else s.reachStop m
    | .path cid _ => match s.ctx? cid with
      | none => s.dropStop m
      | some c => if c.place = .landed then s else s.reachStop m
    | .stackLine _ => s.takeStop m
    | _ => s.reachStop m

/-- The stops of an event take the units of its issuer at once: a precise core firing, or a bank pass held before its rows open (16 R355). A
path stops at the word itself. -/
def State.stopIssuer (s : State) (ev : Nat) (i : Issuer) : State :=
  let s := match i with
    | .path cid e => s.updCtx cid fun c => { c with atWord := some e }
    | _ => s
  (s.stops.filter fun m => m.ev = ev && i.isUnit s m.target).foldl (fun s m => s.takeStop m) s

/-- Count a word issued by path `e` of a context against the stops that were sent before it and concern it: those at their unit, and those
whose match it holds (15 R336, 16 R358). -/
def State.countSkid (s : State) (cid e before : Nat) : State :=
  let p := ((s.ctx? cid).map fun c => c.path e).getD freePath
  { s with stops := s.stops.map fun m =>
    if decide (m.id < before) && (m.target = .group cid || m.target = .path cid e) then
      { m with skid := if m.reached || m.matching then m.skid + 1 else m.skid
               spent := if m.reached || m.matches p then addNew m.spent e else m.spent }
    else m }

/-- Does a stop concern the work of a launch on a unit? -/
def State.stopsWork (s : State) (m : StopMsg) (lk : Nat) : Bool := !m.ofPart || s.inPart lk m.pslot

/-- Count what an engine or the bank units did for a launch against the stops that have come to them (15 Table 15-4). -/
def State.countUnit (s : State) (u : UnitId) (lk : Nat) : State :=
  let concerns (t : UnitId) : Bool := t = u || match t, u with
    | .bankRun gs k, .bankUnits g => gs = g && k = lk
    | _, _ => false
  { s with stops := s.stops.map fun m => if concerns m.target && m.reached && s.stopsWork m lk then { m with skid := m.skid + 1 } else m }

/-- What a unit may still do once a stop has come to it (15 Table 15-4). -/
def UnitId.bound : UnitId → Nat
  | .valueRun _ => 8
  | .bankUnits _ | .bankRun .. => 4
  | _ => 1

/-- Has an engine, or have the bank units, done for a launch what a stop that has come to them allows? -/
def State.unitSpent (s : State) (u : UnitId) (lk : Nat) : Bool :=
  s.stops.any fun m => m.reached && decide (m.target.bound ≤ m.skid) && s.stopsWork m lk &&
    (m.target = u || match m.target, u with
      | .bankRun gs k, .bankUnits g => gs = g && k = lk
      | _, _ => false)

/-- Has a path issued the one further word that a firing it matched (16 R355), or a stop that has come to its group (15 Table 15-4), allows? -/
def State.skidSpent (s : State) (cid e : Nat) : Bool :=
  s.stops.any fun m => (m.target = .group cid || m.target = .path cid e) && m.spent.contains e

/-- The command with the sectors an event holds, or any event where none is named, set free. -/
def Cmd.freeSectors (c : Cmd) (ev : Option Nat) : Cmd :=
  { c with sectors := c.sectors.map fun x => if ev = none || x.held = ev then { x with held := none } else x }

/-- POSTs kept for the end of a clause that an event holds, or any event where none is named, set free. -/
def Ctx.freeVisits (c : Ctx) (ev : Option Nat) : Ctx :=
  { c with visits := c.visits.map fun v => if ev = none || v.held = ev then { v with held := none } else v }

/-- Accesses, posts, sectors and commands held by an event go on (16 R355). -/
def State.unhold (s : State) (ev : Nat) : State :=
  { s with
    ctxs := s.ctxs.map fun (kc : Nat × Ctx) => (kc.1, kc.2.freeVisits (some ev))
    accs := s.accs.map fun a => if a.held = some ev then { a with held := none, due := true } else a
    chan := s.chan.map fun m => if m.held = some ev then { m with held := none, due := true } else m
    cmds := s.cmds.map fun c => (if (c.stop.map (·.ev)) = some ev then { c with stop := none } else c).freeSectors (some ev) }

/-- Restart one group (13 R308): its stop, its stopped paths, what it holds. -/
def State.resumeGroup (s : State) (cid : Nat) : State :=
  match s.ctx? cid with
  | none => s
  | some c =>
    let evs := (match c.stop with
      | some t => [t.ev]
      | none => []) ++ (match c.pathStop with
      | some t => [t.ev]
      | none => [])
    let held := s.accs.any fun a => a.ctx = cid && a.held.isSome
    let halted := c.stop.isSome || c.pathStop.isSome
    let s := s.setCtx cid { c with
          stop := none, pathStop := none, stopRec := none, step := none, haltPend := false, stall := 15, atWord := none
          visits := (c.freeVisits none).visits
          paths := c.paths.map fun p => { p.again with stopped := false } }
    let mine (c' : Cmd) : Bool := c'.waiters.contains cid && (c'.stop.map fun t => evs.contains t.ev) = some true && c'.stop.map (·.code) = some 0x80
    let freeAcc (a : Access) : Access := if a.ctx = cid && held && a.held.isSome then { a with held := none, due := true } else a
    let freeMsg (m : Msg) : Msg := match m.body with
      | .post p => if p.team = c.team && p.gidx = c.gidx && (p.part = c.part || !c.splitPart) && m.held.isSome then { m with held := none, due := true } else m
      | _ => m
    let freeCmd (c' : Cmd) : Cmd := if mine c' then { c' with stop := none } else if c'.waiters.contains cid then c'.freeSectors none else c'
    let s := { s with accs := s.accs.map freeAcc, chan := s.chan.map freeMsg, cmds := s.cmds.map freeCmd }
    (if halted then s.trace cid 11 0 else s).lowerLine c.pslot

/-- Restart every unit an event stopped (13 R308, bit 0); messages of the event still on their way are withdrawn. -/
def State.resumeEvent (s : State) (ev : Nat) : State :=
  let s := { s with stops := s.stops.filter fun m => m.ev ≠ ev }
  let gs := (s.ctxs.filter fun kc => (kc.2.stop.map (·.ev)) = some ev || (kc.2.pathStop.map (·.ev)) = some ev).map (·.1)
  let slots := (s.cmds.filter fun c => (c.stop.map (·.ev)) = some ev).map fun c => s.slotOf (s.cmdLaunch c)
  let s := gs.foldl (fun s c => s.resumeGroup c) s
  let s := s.unhold ev
  let freeCore (kk : Nat × Core) : Nat × Core := (kk.1, { kk.2 with engStop := kk.2.engStop.filter fun t => t.2.ev ≠ ev })
  let freeRun (b : BankRun) : BankRun := if (b.stop.map (·.ev)) = some ev then { b with stop := none } else b
  let freeStream (x : StreamWait) : StreamWait := if x.held = some ev then { x with held := none } else x
  let freeStk (kk : Nat × Stack) : Nat × Stack := (kk.1, { kk.2 with
    bankQueue := kk.2.bankQueue.map freeRun
    bankStop := if (kk.2.bankStop.map (·.ev)) = some ev then none else kk.2.bankStop
    streams := kk.2.streams.map freeStream })
  let s := ({ s with cores := s.cores.map freeCore, stks := s.stks.map freeStk } : State).flushAll
  slots.foldl (fun s p => s.lowerLine p) s

end Sys2Proof.Machine
end

