-- ==== Sys2Proof/Machine/Bank.lean ====
section
/-! DEFINITION. Doorbells and notify slots (04 R82, R83), bank launches and their units (04 R65-R76, R81-R88), and the scrubber
(04 R77-R80, R405). -/

namespace Sys2Proof.Machine

/-! ## Doorbells -/

/-- Notify slot number of a page and slot. -/
def nslotKey (page slot : Nat) : Nat := page * 64 + slot

/-- The package's next launch number (04 R83). -/
def State.nextLaunchId (s : State) (pkg : Nat) : Nat × State :=
  let n := (s.pkg pkg).launchNo + 1
  let n := if n = 2 ^ 32 then 1 else n
  (n, s.updPkg pkg fun k => { k with launchNo := n })

/-- A descriptor not read yet. -/
def noDesc : Desc := ⟨16, 1, 1, false, false, false, false, false, 0, 0, 1, 0, 0, 0, 0, 0, 1, 1, 1, 0, 0, false⟩

/-- A launch accepted from a source: QUEUED, its descriptor still to be read. -/
def State.accept (s : State) (src : LaunchSrc) (gs khandle args pslot : Nat) (user : Bool) : Nat × State :=
  let pkg := pkgOf gs
  let (id, s) := s.nextLaunchId pkg
  let (key, s) := s.fresh
  (key, s.setLaunch key ⟨src, pkg, gs, id, khandle, args, pslot, user, .queued, 0, 0, false, false, noDesc, 0, s.stkNow gs, 0, 0, 0, false,
    false, 0, 0, 0⟩)

/-- Is a launch QUEUED or RUNNING? -/
def Launch.busy (l : Launch) : Bool := l.state = .queued || l.state = .running

/-- A doorbell to a notify slot (04 R83): discarded with DROP while the slot's launch is QUEUED or RUNNING, else accepted. -/
def State.ringDoor (s : State) (gs page slot khandle args : Nat) : State :=
  let key := nslotKey page slot
  let n := mget (s.stk gs).nslots key NSlot.reset
  let busy := ((s.launch? n.launch).map Launch.busy).getD false
  if busy then s.updStk gs fun k => { k with nslots := mset k.nslots key { n with drop := true } NSlot.reset }
  else
    let (l, s) := s.accept (.notify gs key) gs khandle args page true
    s.updStk gs fun k => { k with nslots := mset k.nslots key ⟨l, false⟩ NSlot.reset }

/-- Has a package ended its self-test, and not in the safe state: it takes doorbells, host queue entries and register writes (17 R381, R382)? -/
def State.booted (s : State) (pkg : Nat) : Bool := (s.pkg pkg).boot = .ready

/-- DOORBELL (04 R83): refused until self-test ends and in the safe state (17 R381, R382). -/
def execDoorbell (gs page slot khandle args : Nat) (s : State) : Out :=
  if page < 16 && slot < 64 && s.booted (pkgOf gs) then .next (s.ringDoor gs page slot (khandle % 2 ^ 64) (args % 2 ^ 64)) else .next s

/-- STATE as COMP shows it (04 Table 4-9). -/
def LState.code : LState → Nat
  | .idle => 0
  | .queued => 1
  | .running => 2
  | .done => 3
  | .refused => 4

/-- COMP of a launch (04 Table 4-9). -/
def Launch.comp (l : Launch) (drop : Bool) : Nat :=
  l.id * 2 ^ 32 + l.status * 2 ^ 24 + l.flags * 2 ^ 16 + b2n drop * 2 ^ 15 + l.state.code

/-- COMP of a notify slot. -/
def State.slotComp (s : State) (gs key : Nat) : Nat :=
  let n := mget (s.stk gs).nslots key NSlot.reset
  match s.launch? n.launch with
  | some l => l.comp n.drop
  | none => b2n n.drop * 2 ^ 15

/-- A launch ends REFUSED with a code and address (04 R86, 14 R312). -/
def State.refuse (s : State) (key code addr : Nat) : State :=
  s.updLaunch key fun l => { l with
    state := .refused
    status := code
    finfo := addr }

/-! ## The program word (04 R66-R71) -/

/-- Width in bits of an element of TYPE. -/
def bankW (ty : Nat) : Nat :=
  match ty with
  | 0 | 2 => 32
  | 1 => 16
  | _ => 8

/-- Type code of Table 6-11 of TYPE: FP32, BF16, s32, s8. -/
def bankT (ty : Nat) : Nat :=
  match ty with
  | 0 => 8
  | 1 => 9
  | 2 => 0
  | _ => 4

/-- Elements of a latch under TYPE. -/
def bankN (ty : Nat) : Nat := 256 / bankW ty

/-- Element `e` of a latch. -/
def lane256 (ty : Nat) (x : BitVec 256) (e : Nat) : Nat := bits x.toNat (bankW ty * e) (bankW ty)

/-- A latch of elements, element 0 lowest. -/
def pack256 (ty : Nat) (es : List Nat) : BitVec 256 :=
  BitVec.ofNat 256 (es.foldr (fun e acc => e % 2 ^ bankW ty + acc * 2 ^ bankW ty) 0)

/-- Which sources a form reads: X, Y, Z (04 Table 4-6). -/
def bankReads (aop : Nat) : Bool × Bool × Bool :=
  match aop with
  | 0 => (false, false, false)
  | 4 | 12 => (true, true, true)
  | 13 | 14 | 15 | 16 | 17 => (true, false, false)
  | _ => (true, true, false)

/-- MOD bits a form uses. -/
def bankMods (aop : Nat) : Nat :=
  match aop with
  | 11 => 1
  | 12 => 3
  | 13 | 14 => 2
  | _ => 0

/-- The refusal code of a program word: 0 where it is in form (04 Table 4-11, check 3). A word with both defects gives 0x01, and so does a
non-zero reserved field, unused field or selector that the form does not read (log 77, DESIGN CHOICE: Tables 4-3 to 4-7 give those no
code). -/
def bankWordCode (w : BitVec 64) : Nat :=
  let x := w.toNat
  let fop := bits x 61 3
  let aop := bits x 43 5
  let ty := bits x 41 2
  let sx := bits x 36 5
  let sy := bits x 31 5
  let sz := bits x 26 5
  let md := bits x 16 6
  let wop := bits x 13 3
  let (rx, ry, rz) := bankReads aop
  let fetchBad := 5 ≤ fop || bits x 48 2 ≠ 0 || (fop ≠ 1 && bits x 53 8 ≠ 0) || (fop ≠ 2 && fop ≠ 3 && bits x 50 3 ≠ 0)
  let wbBad := 5 ≤ wop || bits x 0 2 ≠ 0 || (wop ≠ 1 && bits x 5 8 ≠ 0) || (wop ≠ 2 && bits x 2 3 ≠ 0)
  let aluBad := 18 ≤ aop || 5 ≤ bits x 23 3 || md / 2 ^ bankMods aop ≠ 0 || (!rx && sx ≠ 0) || (!ry && sy ≠ 0) || (!rz && sz ≠ 0) ||
    ((aop = 10 || aop = 11 || aop = 16) && ty < 2) || (aop = 12 && 6 ≤ bits md 0 3) || (aop = 13 && bits md 0 2 = ty) || (aop = 14 && bits md 0 2 = 3)
  let selBad := (rx && 19 ≤ sx) || (ry && 19 ≤ sy) || (rz && 19 ≤ sz)
  if fetchBad || wbBad || aluBad then 1 else if selBad then 2 else 0

/-- A sum or product of elements delivered as arith() says (04 R70). -/
def bankArith (ty mode : Nat) (sat : Bool) (ts : List FTerm) (x : Int) : Nat × Flags :=
  let t := bankT ty
  if ty < 2 then fSum t mode 0 sat ts
  else
    let (y, c) := clampInt t x
    if sat then (wrap (bankW ty) y, flIf c flSat) else (wrap (bankW ty) x, flIf c flOver)

/-- An element as an exact value. -/
def bankVal (ty a : Nat) : FVal := fDecode (bankT ty) a

/-- An element as an integer. -/
def bankInt (ty a : Nat) : Int := sint (bankW ty) a

def bankAdd (ty mode : Nat) (sat : Bool) (a b : Nat) : Nat × Flags :=
  bankArith ty mode sat [.val (bankVal ty a), .val (bankVal ty b)] (bankInt ty a + bankInt ty b)
def bankSub (ty mode : Nat) (sat : Bool) (a b : Nat) : Nat × Flags :=
  bankArith ty mode sat [.val (bankVal ty a), .val (bankVal ty (fMods (bankT ty) false true b))] (bankInt ty a - bankInt ty b)
def bankMul (ty mode : Nat) (sat : Bool) (a b : Nat) : Nat × Flags :=
  bankArith ty mode sat [fMulX (bankVal ty a) (bankVal ty b)] (bankInt ty a * bankInt ty b)
def bankFma (ty mode : Nat) (sat : Bool) (a b c : Nat) : Nat × Flags :=
  bankArith ty mode sat [fMulX (bankVal ty a) (bankVal ty b), .val (bankVal ty c)] (bankInt ty a * bankInt ty b + bankInt ty c)

/-- The lesser or greater of two elements. -/
def bankMinMax (ty : Nat) (max : Bool) (a b : Nat) : Nat × Flags :=
  if ty < 2 then fMinMax (bankT ty) max a b
  else (if (if max then bankInt ty a < bankInt ty b else bankInt ty b < bankInt ty a) then b else a, 0)

/-- CSEL's condition. -/
def bankCond (ty cond a b : Nat) : Bool × Flags :=
  if ty < 2 then fCond (bankT ty) cond a b
  else
    let x := bankInt ty a
    let y := bankInt ty b
    (match cond with
      | 0 => x = y
      | 1 => x ≠ y
      | 2 => x < y
      | 3 => y ≤ x
      | 4 => y < x
      | _ => x ≤ y, 0)

/-- Results and flags of elements gathered into a latch. -/
def bankMap (ty : Nat) (rs : List (Nat × Flags)) : BitVec 256 × Flags :=
  (pack256 ty (rs.map (·.1)), rs.foldl (fun f r => f ||| r.2) 0)

/-- Set bits of the low `w` bits of a number. -/
def popBits (w x : Nat) : Nat := (List.range w).foldl (fun n i => n + b2n (nbit x i)) 0

/-- RED: the elements in ascending order (04 Table 4-6). -/
def bankRed (ty mode : Nat) (sat : Bool) (op : Nat) (es : List Nat) : Nat × Flags :=
  match es with
  | [] => (0, 0)
  | e :: rest => rest.foldl (fun acc b =>
      let r := match op with
        | 0 => bankAdd ty mode sat acc.1 b
        | 1 => bankMinMax ty false acc.1 b
        | _ => bankMinMax ty true acc.1 b
      (r.1, acc.2 ||| r.2)) (e, 0)

/-- T, the new A and the flags of the ALU slot on F, A and the sources. -/
def bankAlu (w : BitVec 64) (f a x y z : BitVec 256) : BitVec 256 × BitVec 256 × Flags :=
  let n := w.toNat
  let aop := bits n 43 5
  let ty := bits n 41 2
  let mode := bits n 23 3
  let sat := nbit n 22
  let md := bits n 16 6
  let es := List.range (bankN ty)
  let e1 (op : Nat → Nat × Flags) : BitVec 256 × Flags := bankMap ty (es.map fun e => op (lane256 ty x e))
  let e2 (op : Nat → Nat → Nat × Flags) : BitVec 256 × Flags := bankMap ty (es.map fun e => op (lane256 ty x e) (lane256 ty y e))
  let out (r : BitVec 256 × Flags) : BitVec 256 × BitVec 256 × Flags := (r.1, a, r.2)
  match aop with
  | 0 => (f, a, 0)
  | 1 => out (e2 (bankAdd ty mode sat))
  | 2 => out (e2 (bankSub ty mode sat))
  | 3 => out (e2 (bankMul ty mode sat))
  | 4 => out (bankMap ty (es.map fun e => bankFma ty mode sat (lane256 ty x e) (lane256 ty y e) (lane256 ty z e)))
  | 5 => out (e2 (bankMinMax ty false))
  | 6 => out (e2 (bankMinMax ty true))
  | 7 => (x &&& y, a, 0)
  | 8 => (x ||| y, a, 0)
  | 9 => (x ^^^ y, a, 0)
  | 10 => out (e2 fun p q => (p * 2 ^ (q % bankW ty) % 2 ^ bankW ty, 0))
  | 11 => out (e2 fun p q => (if nbit md 0 then wrap (bankW ty) (bankInt ty p / 2 ^ (q % bankW ty)) else p / 2 ^ (q % bankW ty), 0))
  | 12 => out (bankMap ty (es.map fun e =>
      let c := bankCond ty (bits md 0 3) (lane256 ty x e) (lane256 ty y e)
      (if c.1 then lane256 ty x e else lane256 ty z e, c.2)))
  | 13 =>
    let d := bits md 0 2
    let k := if bankN d < bankN ty then bankN d else bankN ty
    let rs := (List.range k).map fun e => convert (bankT d) (bankT ty) (lane256 ty x e) mode 0 sat
    out (bankMap d rs)
  | 14 =>
    let r := bankRed ty mode sat (bits md 0 2) (es.map (lane256 ty x))
    (pack256 ty [r.1], a, r.2)
  | 15 =>
    let r := bankMap ty (es.map fun e => bankAdd ty mode sat (lane256 ty a e) (lane256 ty x e))
    (r.1, r.1, r.2)
  | 16 => out (e1 fun p => (popBits (bankW ty) p, 0))
  | _ => (x, a, 0)

/-- A unit at launch start (04 R65). -/
def BankUnit.zero : BankUnit := ⟨0, 0, []⟩

/-- A source selector's value (04 Table 4-5). -/
def bankSrc (q : Map (BitVec 256)) (u : BankUnit) (k : Nat) : BitVec 256 :=
  if k = 0 then u.f else if k = 1 then u.a else if k < 10 then mget u.b (k - 2) 0 else if k < 18 then mget q (k - 10) 0 else 0

/-- What one word did in a bank: the unit, T, the flags (04 R66). -/
def bankWord (q : Map (BitVec 256)) (w : BitVec 64) (col : BitVec 256) (u : BankUnit) : BankUnit × BitVec 256 × Flags :=
  let n := w.toNat
  let u := match bits n 61 3 with
    | 0 => u
    | 1 => { u with f := col }
    | 2 => { u with f := mget u.b (bits n 50 3) 0 }
    | 3 => { u with f := mget q (bits n 50 3) 0 }
    | _ => { u with f := u.a }
  let (t, a, fl) := bankAlu w u.f u.a (bankSrc q u (bits n 36 5)) (bankSrc q u (bits n 31 5)) (bankSrc q u (bits n 26 5))
  let u := { u with a := a }
  let u := if bits n 13 3 = 2 then { u with b := mset u.b (bits n 2 3) t 0 } else u
  (u, t, fl)

/-! ## Launch checks (04 R86) -/

/-- The bytes of a latch and back. -/
def latchBytes (x : BitVec 256) : List Byte := bytesOf 32 x.toNat

/-- The running or waiting bank launch at the head of a stack's queue. -/
def State.bankHead (s : State) (gs : Nat) : Option BankRun := (s.stk gs).bankQueue.head?

def State.setBankHead (s : State) (gs : Nat) (r : BankRun) : State :=
  s.updStk gs fun k => { k with bankQueue := r :: k.bankQueue.drop 1 }

def State.dropBankHead (s : State) (gs : Nat) : State := s.updStk gs fun k => { k with bankQueue := k.bankQueue.drop 1 }

/-- A bank launch in the queue, not started. -/
def BankRun.queued (launch : Nat) : BankRun :=
  ⟨launch, false, [], 0, 0, [], 0, 0, 0, 0, 0, [], 0, 0, false, [], [], [], [], [], 0, 0, 0, none, none, 0, []⟩

/-- Split bytes into 64-bit words. -/
def words64 (bs : List Byte) : List (BitVec 64) := (chunks 8 bs.length bs).map fun c => BitVec.ofNat 64 (ofBytes c)

/-- Number of words with a write-back form. -/
def wbCount (ws : List (BitVec 64)) (op : Nat) : Nat := (ws.filter fun w => bits w.toNat 13 3 = op).length

/-- One 64 KiB page of a 32 MiB chunk of a row set at `va` (04 R73, check 4): readable, writable and permitted to bank units, bank-major DRAM of
the stack, and in line with the chunk's first page. -/
def State.rowPage (gs : Nat) (a : Asker) (va : Nat) (acc : State × Except (Nat × Nat) (Option Nat)) (i : Nat) :
    State × Except (Nat × Nat) (Option Nat) :=
  match acc with
  | (s, .error x) => (s, .error x)
  | (s, .ok first) =>
    let v := va + i * 65536
    if 2 ^ 57 ≤ v then (s, .error (0x20, v)) else
    match s.lookup gs none a.pslot v with
    | (s, .error _) => (s, .error (0x20, v))
    | (s, .ok t) =>
      let pa := t.pa v
      let e := t.entry.toNat
      if !aperOk (pkgOf gs) t.aper pa 65536 then (s, .error (0x23, v))
      else if !nbit e 2 || !nbit e 3 || (a.user && !nbit e 5) then (s, .error (0x21, v))
      else if !nbit e 9 then (s, .error (0x24, v))
      else if t.aper ≠ 0 || !nbit e 10 || paGs pa ≠ gs || !isDram (paLoc pa) then (s, .error (0x23, v))
      else match first with
        | none => if pa % 2 ^ 25 = 0 then (s, .ok (some pa)) else (s, .error (0x23, v))
        | some p => if pa = p + i * 65536 then (s, .ok (some p)) else (s, .error (0x23, v))

/-- One 32 MiB chunk of a row set at `va`: its physical address, or none where it has no page. -/
@[irreducible] def State.rowChunk (s : State) (gs : Nat) (a : Asker) (va : Nat) : State × Except (Nat × Nat) (Option Nat) :=
  (List.range 512).foldl (State.rowPage gs a va) (s, .ok none)

/-- The chunks of a row set (04 R73, check 4): each 32 MiB chunk maps to one aligned contiguous bank-major DRAM run of the stack, readable,
writable and permitted to bank units; page by page. Answers each chunk's location >> 25, or code and address. -/
def State.rowChunks (s : State) (gs : Nat) (a : Asker) (base : Nat) : Nat → Nat → State × Except (Nat × Nat) (List Nat)
  | 0, _ => (s, .ok [])
  | n + 1, j =>
    let va := base + j * 2 ^ 25
    match s.rowChunk gs a va with
    | (s, .error x) => (s, .error x)
    | (s, .ok none) => (s, .error (0x23, va))
    | (s, .ok (some p)) =>
      match s.rowChunks gs a base n (j + 1) with
      | (s, .error x) => (s, .error x)
      | (s, .ok hs) => (s, .ok (paLoc p / 2 ^ 25 :: hs))

/-- Probe every 64 KiB piece of a stream for a store into aperture 0: the first failing address and code. -/
def State.streamPieces (s : State) (a : Asker) : List (Nat × Nat) → State × Option (Nat × Nat)
  | [] => (s, none)
  | (va, n) :: rest =>
    match s.probeVa a ⟨2, n, true, true, false⟩ va with
    | (s, .error m) => (s, some (m.1, va))
    | (s, .ok (_, ap)) => if ap = 0 then s.streamPieces a rest else (s, some (0x23, va))

/-- A stream's span translates with WR to aperture 0 (check 1): its first failing address and code. -/
def State.streamCheck (s : State) (a : Asker) (va n : Nat) : State × Option (Nat × Nat) :=
  s.streamPieces a (vaPieces (n / 65536 + 2) va n)

/-- The stack a bank launch's descriptor and argument block name (04 R86): where its row set begins. -/
def State.rowStack (s : State) (l : Launch) : Option Nat :=
  let a : Asker := ⟨l.gs, none, l.pslot, l.user⟩
  match s.readSpan a 1 l.khandle 64 with
  | (_, .error _) => none
  | (s, .ok db) =>
    if ofBytes (db.take 1) ≠ 2 then none else
    match s.readSpan a 1 l.args 8 with
    | (_, .error _) => none
    | (s, .ok ab) => match s.lookup l.gs none l.pslot (ofBytes ab) with
      | (_, .error _) => none
      | (_, .ok t) => some (paGs (t.pa (ofBytes ab)))

/-- Is a bank launch for the stack, accepted before this one, still to be forwarded to it? Launches of a stack run in acceptance order. -/
def State.earlierBank (s : State) (gs launch : Nat) : Bool :=
  s.launches.any fun kl => kl.1 < launch && kl.2.state = .queued && !kl.2.checked && s.rowStack kl.2 = some gs

/-- Size in bits of the run of addresses that share the leaf of a chunk's first page: the chunk's own 32 MiB at least (03 R58). -/
def State.chunkLeaf (s : State) (gs : Nat) (a : Asker) (va : Nat) : Nat :=
  match (s.lookup gs none a.pslot va).2 with
  | .ok t => max 25 t.size
  | .error _ => 25

/-- BANK_LAUNCH_START (04 R86): the checks of Table 4-11 in order; the first failure refuses the launch, else pass 0 may start. While the halt
line of its partition stands it does not start (15 R337). Within check 1 a misaligned descriptor or argument block is answered first; FINFO
of a refusal by check 2 is the descriptor's address and by check 3 the program's; a misaligned program or stream base falls under check
2, a row set that is not 32 MiB aligned under check 4 with 0x23, ahead of its pages (log 68, DESIGN CHOICE). -/
def execBankLaunchStart (gs : Nat) (s : State) : Out :=
  match s.bankHead gs with
  | none => .next s
  | some r =>
    if r.started || r.stop.isSome || (s.stk gs).bankStop.isSome || s.earlierBank gs r.launch then .next s else
    match s.launch? r.launch with
    | none => .next (s.dropBankHead gs)
    | some l =>
      if !l.desc.agent && (s.stk gs).lines.any (fun x => x.1 = l.pslot) then .next s else
      let a : Asker := ⟨gs, none, l.pslot, l.user⟩
      let no (s : State) (code addr : Nat) : Out := .next ((s.refuse r.launch code addr).dropBankHead gs)
      if l.khandle % 64 ≠ 0 then no s 0x07 l.khandle else if l.args % 64 ≠ 0 then no s 0x07 l.args else
      match s.readSpan a 1 l.khandle 64 with
      | (s, .error (v, m)) => no s m.1 v
      | (s, .ok db) =>
      match s.readSpan a 1 l.args 320 with
      | (s, .error (v, m)) => no s m.1 v
      | (s, .ok ab) =>
      let num (bs : List Byte) (o n : Nat) : Nat := ofBytes ((bs.drop o).take n)
      let d0 := num db 0 8
      let nw := bits d0 16 9
      let prog := num db 8 8
      match s.readSpan a 1 prog (8 * nw) with
      | (s, .error (v, m)) => no s m.1 v
      | (s, .ok pb) =>
      let ws := words64 pb
      let base := num ab 0 8
      let u := num ab 8 4
      let rper := num ab 12 1
      let dper := num ab 13 1
      let rb := num ab 16 8
      let dbase := num ab 24 8
      let ao := num ab 32 8
      let sc (acc : State × Option (Nat × Nat)) (va n : Nat) : State × Option (Nat × Nat) :=
        match acc with
        | (s, some x) => (s, some x)
        | (s, none) => if n = 0 then (s, none) else s.streamCheck a va n
      let acc := sc (s, none) rb (8 * u * 512 * rper * 32)
      let acc := sc acc dbase (8 * u * dper * 32)
      match sc acc ao (if ao = 0 then 0 else 512 * 32) with
      | (s, some (code, v)) => no s code v
      | (s, none) =>
      let resv := d0 / 2 ^ 25 ≠ 0 || bits d0 8 8 ≠ 0 || num db 16 48 ≠ 0 || num ab 14 2 ≠ 0 || num ab 40 24 ≠ 0
      let range := num db 0 1 = 2 && 1 ≤ nw && nw ≤ 256 && 1 ≤ u && u ≤ 3072 && rper ≤ 8 && dper ≤ 8 && wbCount ws 3 ≤ rper && wbCount ws 4 ≤ dper &&
        prog % 8 = 0 && rb % 32 = 0 && dbase % 32 = 0 && ao % 32 = 0
      if resv || !range then no s 0x02 l.khandle else
      match (ws.map bankWordCode).find? (· ≠ 0) with
      | some code => no s code prog
      | none =>
      if base % 2 ^ 25 ≠ 0 then no s 0x23 base else
      match s.rowChunks gs a base u 0 with
      | (s, .error (code, v)) => no s code v
      | (s, .ok hs) =>
        let q : Map (BitVec 256) := (List.range 8).foldl (fun m i => mset m i (BitVec.ofNat 256 (num ab (64 + 32 * i) 32)) 0) []
        let (i, s) := s.fresh
        let r := { r with
              started := true
              probed := i
              leaves := (List.range hs.length).map fun j => s.chunkLeaf gs a (base + j * 2 ^ 25)
              words := ws
              rowBase := base
              chunks := hs
              rper := rper
              dper := dper
              rbase := rb
              dbase := dbase
              aout := ao
              q := q }
        .next ((s.setBankHead gs r).updLaunch r.launch fun l => { l with state := .running })

/-! ## Passes (04 R74-R76, R81) -/

/-- Location of the 8 KiB of a bank's row under the bank-major layout. -/
def bankRowLoc (bank row : Nat) : Nat := row / 8 * 2 ^ 25 + bank * 65536 + row % 8 * 8192

/-- The event of a bank's pass for the home-side predicates. -/
def passEvent (pslot bank row : Nat) : WEvent := ⟨7, bankRowLoc bank row, 8192, pslot, none, 0⟩

/-- Show a pass to the home-side predicates, bank by bank. -/
def State.watchPass (s : State) (gs pslot row : Nat) (pre : Bool) : State × Bool :=
  if (s.stk gs).preds.isEmpty then (s, false) else
  (List.range 512).foldl (fun (s, stop) b =>
    if stop && pre then (s, stop) else
    let fld (lo k : Nat) : Nat := ofBytes ((List.range k).map fun i => s.byte (refCell (2 ^ 52 + paOf gs (lo + i))))
    let (s, fs) := s.watchHome gs pre (passEvent pslot b row) fld
    match s.fire fs gs (.bank gs) pslot (bankRowLoc b row) 0 with
    | (s, some _) => (s, true)
    | (s, none) => (s, stop)) (s, false)

/-- Note a skipped pass (04 R81, R87): the first poisoned row is the least by pass and then bank. -/
def BankRun.skip (r : BankRun) (bank : Nat) : BankRun :=
  let k := r.pass * 512 + bank
  { r with
    skipped := r.skipped + 1
    firstPoison := some (match r.firstPoison with
      | some p => min p k
      | none => k) }

/-- Physical address of the first poisoned row (04 R87). -/
def BankRun.poisonPa (r : BankRun) (gs : Nat) : Nat :=
  match r.firstPoison with
  | some k => paOf gs (bankRowLoc (k % 512) (r.row (k / 512)))
  | none => 0

/-- Are the bank units held by a stop? -/
def State.bankHeld (s : State) (gs : Nat) (r : BankRun) : Bool := r.stop.isSome || (s.stk gs).bankStop.isSome

/-- BANK_PASS_START (04 R74, R81): every bank reads its row's clean and poison bits; the pass takes the banks, whose open rows close (R405). -/
def execBankPassStart (gs : Nat) (s : State) : Out :=
  match s.bankHead gs with
  | none => .next s
  | some r =>
    if !r.started || r.inPass || s.bankHeld gs r || 8 * r.chunks.length ≤ r.pass || !(s.stk gs).visiting.isEmpty then .next s else
    let pslot := s.slotOf r.launch
    let row := r.row r.pass
    match s.watchPass gs pslot row true with
    | (s, true) =>
      let mine (m : StopMsg) : Bool := m.target = .bankUnits gs
      .next ((s.stops.filter mine).foldl (fun s m => s.takeStop m) s)
    | (s, false) =>
      let k := s.stk gs
      let mode (b : Nat) : BankMode :=
        if mget k.poisoned (rowKey b row) false then .skipped else if mget k.unclean (rowKey b row) false then .emulated else .native
      let ms : Map BankMode := (List.range 512).filterMap fun b => if mode b = .native then none else some (b, mode b)
      let r := { r with
            inPass := true
            col := 0
            modes := ms
            writes := []
            emuDone := []
            reds := [] }
      let r := (ms.filter fun m => m.2 = .skipped).foldl (fun r m => r.skip m.1) r
      .next ((s.updStk gs fun k => { k with openRow := [] }).setBankHead gs r)

/-- Mode of a bank in the pass in progress. -/
def BankRun.mode (r : BankRun) (b : Nat) : BankMode := mget r.modes b .native

/-- The plain store of 32 bytes of a stream (04 R76): its address was checked at launch; where it no longer translates nothing is written
(log 69, DESIGN CHOICE). -/
def State.streamStore (s : State) (gs launch : Nat) (l : Launch) (va : Nat) (x : BitVec 256) : State :=
  match s.probeVa ⟨gs, none, l.pslot, l.user⟩ ⟨2, 32, true, true, false⟩ va with
  | (s, .error _) => s
  | (s, .ok (ref, _)) =>
    let leaf := match (s.lookup gs none l.pslot va).2 with
      | .ok t => t.size
      | .error _ => 16
    let (i, s) := s.fresh
    s.arriveStream ⟨gs, launch, l.pslot, ref, x, none, false, i, va, leaf⟩

/-- A column of a row as a unit fetches it natively: as the pass wrote it, as a strike left it (04 R78), or as stored. -/
def State.fetchColumn (s : State) (gs : Nat) (r : BankRun) (native : Bool) (bank col : Nat) : BitVec 256 :=
  match mfind r.writes (256 * bank + col) with
  | some x => x
  | none =>
    let pa := colPa gs bank (r.row r.pass) col
    match s.columnError pa with
    | some (_, v) => if native then BitVec.ofNat 256 v else BitVec.ofNat 256 (s.num pa 32)
    | none => BitVec.ofNat 256 (s.num pa 32)

/-- The word of column cycle `col` in one bank: column read, unit, effects of the write-back slot; what it writes to its row waits for the
end of the bank's pass. `i`, `j` count the WRES and WRED words before it. -/
def State.bankStep (s : State) (gs : Nat) (r : BankRun) (l : Launch) (native : Bool) (w : BitVec 64) (i j bank : Nat) : State × BankRun :=
  let n := w.toNat
  let (u, t, fl) := bankWord r.q w (s.fetchColumn gs r native bank (bits n 53 8)) (mget r.units bank BankUnit.zero)
  let r := { r with units := mset r.units bank u BankUnit.zero, flags := r.flags ||| fl }
  match bits n 13 3 with
  | 1 => (s, { r with writes := mput r.writes (256 * bank + bits n 5 8) t })
  | 3 => (if i < r.rper then s.streamStore gs r.launch l (r.rbase + ((r.pass * 512 + bank) * r.rper + i) * 32) t else s, r)
  | 4 => (s, { r with reds := r.reds ++ [(bank, j, t)] })
  | _ => (s, r)

/-- The rows of the banks that `done` names take what the pass wrote to them, as one step (04 R75). -/
def State.commitBanks (s : State) (gs : Nat) (r : BankRun) (done : Nat → Bool) : State × BankRun :=
  (s.commitWrites gs (r.row r.pass) (r.writes.filter fun w => done (w.1 / 256)),
    { r with writes := r.writes.filter fun w => !done (w.1 / 256) })

/-- BANK_COLUMN_CYCLE (04 R66, R74): one word in every bank that runs the pass natively; with the last the pass is over for them. -/
def execBankColumnCycle (gs : Nat) (s : State) : Out :=
  match s.bankHead gs with
  | none => .next s
  | some r =>
    match r.words[r.col]?, s.launch? r.launch with
    | some w, some l =>
      if !r.inPass || s.bankHeld gs r || s.unitSpent (.bankUnits gs) r.launch then .next s else
      let before := r.words.take r.col
      let i := wbCount before 3
      let j := wbCount before 4
      let banks := (List.range 512).filter fun b => r.mode b = .native
      let (s, r) := banks.foldl (fun (s, r) b => s.bankStep gs r l true w i j b) (s, r)
      let r := { r with col := r.col + 1 }
      let s := s.countUnit (.bankUnits gs) r.launch
      if r.col < r.words.length then .next (s.setBankHead gs r)
      else
        let (s, r) := s.commitBanks gs r fun b => r.mode b = .native
        .next ((s.setBankHead gs r).flushStreams gs)
    | _, _ => .next s

/-- Sectors of a row's columns that the decoder finds uncorrectable become poisoned, the row's poison bit is set (04 R77, R81; 09 R404). -/
def State.poisonRow (s : State) (gs bank row : Nat) : State :=
  let key := rowKey bank row
  let es := mget (s.stk gs).errs key []
  let s := es.foldl (fun s e => if e.2.1 then s.markPoison (colPa gs bank row e.1) else s) s
  s.updStk gs fun k => { k with
    poisoned := mset k.poisoned key true false
    unclean := mset k.unclean key true false
    errs := mset k.errs key (es.filter fun e => !e.2.1) [] }

/-- A row rewritten, corrected, through the encoder: its clean bit is set (04 R77). Emulation certifies its row for the season as a visit does
(log 92, DEDUCED). -/
def State.cleanRow (s : State) (gs bank row : Nat) : State :=
  let key := rowKey bank row
  s.updStk gs fun k => { k with
    poisoned := mset k.poisoned key false false
    unclean := mset k.unclean key false false
    errs := mset k.errs key [] []
    certified := mset k.certified key true false }

/-- Does the decoder find an uncorrectable or poisoned column in a row? -/
def State.rowLost (s : State) (gs bank row : Nat) : Bool :=
  (mget (s.stk gs).errs (rowKey bank row) []).any (·.2.1) || (List.range 256).any fun c => mget s.poison (colPa gs bank row c / 32) false

/-- ROW_EMULATION_END (04 R81): the lowest bank still to be emulated runs the whole pass on corrected data, or is poisoned and skipped. -/
def execRowEmulationEnd (gs : Nat) (s : State) : Out :=
  match s.bankHead gs with
  | none => .next s
  | some r =>
    if !r.inPass || s.bankHeld gs r then .next s else
    match (List.range 512).find? (fun b => r.mode b = .emulated && !r.emuDone.contains b), s.launch? r.launch with
    | some b, some l =>
      let row := r.row r.pass
      if s.rowLost gs b row then
        let r := { r.skip b with modes := mput r.modes b .skipped }
        .next (((s.poisonRow gs b row).setBankHead gs r).flushStreams gs)
      else
        let s := s.cleanRow gs b row
        let run (acc : State × BankRun × Nat × Nat) (w : BitVec 64) : State × BankRun × Nat × Nat :=
          let (s, r, i, j) := acc
          let (s, r) := s.bankStep gs r l false w i j b
          (s, r, i + b2n (bits w.toNat 13 3 = 3), j + b2n (bits w.toNat 13 3 = 4))
        let (s, r, _, _) := r.words.foldl run (s, r, 0, 0)
        let (s, r) := s.commitBanks gs r fun k => k = b
        .next ((s.setBankHead gs { r with
          emuDone := r.emuDone ++ [b]
          emulated := r.emulated + 1 }).flushStreams gs)
    | _, _ => .next s

/-- TYPE of the `i`-th WRED word. -/
def redType (ws : List (BitVec 64)) (i : Nat) : Nat :=
  match (ws.filter fun w => bits w.toNat 13 3 = 4)[i]? with
  | some w => bits w.toNat 41 2
  | none => 0

/-- Insert a contribution in ascending bank order. -/
def insertBank (x : Nat × BitVec 256) : List (Nat × BitVec 256) → List (Nat × BitVec 256)
  | [] => [x]
  | y :: ys => if x.1 < y.1 then x :: y :: ys else y :: insertBank x ys

/-- The sum of a reduction entry: contributions in ascending bank order, each addition to nearest even or wrapping (04 R76). The flags of
these additions are the dispatcher's own and reach no launch, and an entry to which every bank contributes nothing is zero (log 70,
DESIGN CHOICE). -/
def redSum (ty : Nat) (xs : List (BitVec 256)) : BitVec 256 :=
  match xs with
  | [] => 0
  | x :: rest => rest.foldl (fun acc y =>
      pack256 ty ((List.range (bankN ty)).map fun e => (bankAdd ty 0 false (lane256 ty acc e) (lane256 ty y e)).1)) x

/-- BANK_PASS_END (04 R74, R76): every bank has finished; the rows close and the reduction stream of the pass is written. -/
def execBankPassEnd (gs : Nat) (s : State) : Out :=
  match s.bankHead gs with
  | none => .next s
  | some r =>
    let emus := r.modes.filter fun m => m.2 = .emulated
    if !r.inPass || s.bankHeld gs r || r.col < r.words.length || !(emus.all fun m => r.emuDone.contains m.1) then .next s else
    match s.launch? r.launch with
    | none => .next s
    | some l =>
      let row := r.row r.pass
      let s := (s.updStk gs fun k => { k with openRow := [] }).setBankHead gs { r with
            inPass := false
            pass := r.pass + 1 }
      let entry (s : State) (i : Nat) : State :=
        let xs := (r.reds.filter fun x => x.2.1 = i).foldl (fun l x => insertBank (x.1, x.2.2) l) []
        s.streamStore gs r.launch l (r.dbase + (r.pass * r.dper + i) * 32) (redSum (redType r.words i) (xs.map (·.2)))
      let s := (List.range (wbCount r.words 4)).foldl entry (s.flushStreams gs)
      .next (s.watchPass gs l.pslot row false).1

/-- BANK_LAUNCH_COMPLETE (04 R76, R87): accumulators written, then DONE once every stream write has performed, with the first poisoned row
where a pass was skipped. -/
def execBankLaunchComplete (gs : Nat) (s : State) : Out :=
  match s.bankHead gs with
  | none => .next s
  | some r =>
    if !r.started || r.inPass || s.bankHeld gs r || r.pass < 8 * r.chunks.length then .next s else
    match s.launch? r.launch with
    | none => .next s
    | some l =>
      let s := if r.aout = 0 then s else
          (List.range 512).foldl (fun s b => s.streamStore gs r.launch l (r.aout + b * 32) (mget r.units b BankUnit.zero).a) s
      if s.stks.any (fun kk => kk.2.streams.any fun x => x.launch = r.launch) then .next (s.setBankHead gs { r with aout := 0 })
      else
        let s := s.updLaunch r.launch fun l => { l.withBank r with
              state := .done
              status := if l.status = 0 && r.skipped ≠ 0 then 0x65 else l.status
              finfo := r.poisonPa gs }
        .next (s.dropBankHead gs)

/-! ## The scrubber (04 R77-R80) -/

/-- SCRUB_VISIT_START (04 R77): the next row of a bank that no pass holds; its clean bit clears. -/
def execScrubVisitStart (gs bank : Nat) (s : State) : Out :=
  let k := s.stk gs
  let row := mget k.nextRow bank 0
  if 512 ≤ bank || 24576 ≤ row || s.bankBusy gs bank then .next s
  else .next (s.setStk gs { k with
      visiting := mset k.visiting bank (row + 1) 0
      openRow := mset k.openRow bank 0 0
      nextRow := mset k.nextRow bank (row + 1) 0
      unclean := mset k.unclean (rowKey bank row) true false })

/-- SCRUB_VISIT_END (04 R77): clean, corrected or poisoned; the visit closes the row. -/
def execScrubVisitEnd (gs bank : Nat) (s : State) : Out :=
  let v := mget (s.stk gs).visiting bank 0
  if v = 0 then .next s else
  let row := v - 1
  let s := if s.rowLost gs bank row then s.poisonRow gs bank row else s.cleanRow gs bank row
  .next ((s.updStk gs fun k => { k with
    visiting := mset k.visiting bank 0 0
    openRow := mset k.openRow bank 0 0 }).flushStreams gs)

/-- The season in force (04 R79): 16 ms runs as 32 ms under a power cap from code 1 up. -/
def seasonInForce (season cap : Nat) : Nat := if season = 0 && cap ≠ 0 then 1 else season

/-- SEASON_BOUNDARY (04 R78, R79): rows not certified in the season lose their clean bit; the setting comes into force. -/
def execSeasonBoundary (gs : Nat) (s : State) : Out :=
  let k := s.stk gs
  let missed (b : Nat) : List Nat :=
    ((List.range (24576 - mget k.nextRow b 0)).map fun i => rowKey b (mget k.nextRow b 0 + i)).filter fun r => !mget k.certified r false
  let un := ((List.range 512).flatMap missed).foldl (fun m r => mset m r true false) k.unclean
  .next (s.setStk gs { k with
    unclean := un
    certified := []
    nextRow := []
    seasons := (k.seasons + 1) % 2 ^ 32
    inforce := seasonInForce k.season (s.pkg (pkgOf gs)).cap })

/-- DRAM_REFRESH (04 R405): the bank's open row closes. -/
def execDramRefresh (gs bank : Nat) (s : State) : Out :=
  .next (s.updStk gs fun k => { k with openRow := mset k.openRow bank 0 0 })

/-- A write of SCRUB_CTL (04 Table 4-8): SEASON, in force from the next season boundary. -/
def State.writeScrub (s : State) (gs value : Nat) : State := s.updStk gs fun k => { k with season := value % 4 }

/-- SCRUB_CTL_WRITE (04 R80). -/
def execScrubCtlWrite (gs value : Nat) (s : State) : Out := .next (s.writeScrub gs value)

/-- SOFT_ERROR (04 R78): a column of a row is struck; the row's clean bit stands until a read or a scrub finds it. What stands stored from
then on is a free value (log 2, DESIGN CHOICE). -/
def execSoftError (gs bank row col : Nat) (uncorrectable : Bool) (s : State) : Out :=
  if bank < 512 && row < 24576 && col < 256 then
    let (v, s) := s.free
    .next (s.updStk gs fun k =>
      let es := mget k.errs (rowKey bank row) []
      let was := es.any fun e => e.1 = col && e.2.1
      { k with errs := mset k.errs (rowKey bank row) ((es.filter fun e => e.1 ≠ col) ++ [(col, uncorrectable || was, v)]) [] })
  else .next s

end Sys2Proof.Machine
end

