-- ==== Sys2Proof/Machine/Static.lean ====
section
/-! DEFINITION. Which field values an instruction accepts: the checks of 06 Table 6-17, first row (fault 0x01), that the fields
alone decide, with the engine class of each word (06 R118) and the words that end a clause (06 R120). -/

namespace Sys2Proof

/-- Unused parts of an X word: `keep*` names what the word uses; everything else must be zero (06 R128). -/
def xZero (x : FmtX) (sc rnd sat na aa nb ab nc ac : Bool) : Bool :=
  (sc || x.sc = 0) && (rnd || x.rnd = 0) && (sat || !x.sat) && (na || !x.nega) && (aa || !x.absa) && (nb || !x.negb) &&
    (ab || !x.absb) && (nc || !x.negc) && (ac || !x.absc)

/-- No C operand, no rounding, no saturation; source modifiers on A and B only as asked (10 R206). -/
def xMods (x : FmtX) (a b : Bool) : Bool := xZero x false false false a a b b false false

/-- TYPE is one of those listed. -/
def tyIn (x : FmtX) (l : List Nat) : Bool := l.contains x.ty.toNat

/-- Rounding codes 0-4: not stochastic (02 R26). -/
def rndExact (r : BitVec 3) : Bool := r.toNat ≤ 4

/-- Rounding codes 0-5 (02 R26). -/
def rndAny (r : BitVec 3) : Bool := r.toNat ≤ 5

/-- Bits of a type of Table 6-11, codes 0-12. -/
def typeBits (t : Nat) : Nat :=
  match t with
  | 0 | 1 | 8 => 32
  | 2 | 3 | 9 | 10 => 16
  | 4 | 5 | 11 | 12 => 8
  | 6 | 7 => 64
  | _ => 0

/-- Integer types are codes 0-7; floating types 8-12. -/
def typeIsInt (t : Nat) : Bool := t < 8

/-- Signed integer types: even codes below 8. -/
def typeSigned (t : Nat) : Bool := t % 2 = 0

/-- The least value of an integer type. -/
def intMin (t : Nat) : Int := if typeSigned t then -(2 : Int) ^ (typeBits t - 1) else 0

/-- The greatest value of an integer type. -/
def intMax (t : Nat) : Int := if typeSigned t then (2 : Int) ^ (typeBits t - 1) - 1 else (2 : Int) ^ typeBits t - 1

/-- A bound on the finite magnitudes of a floating type: the largest finite value (02 Table 2-1). -/
def floatMax (t : Nat) : Int :=
  match t with
  | 8 => (2 ^ 24 - 1) * 2 ^ 104
  | 9 => (2 ^ 8 - 1) * 2 ^ 120
  | 10 => 65504
  | 11 => 448
  | 12 => 57344
  | _ => 0

/-- Widening conversions: the destination's range holds every value of the source, so nothing clamps or overflows (10 R223). -/
def cvtWidens (dst src : Nat) : Bool :=
  if typeIsInt dst then typeIsInt src && decide (intMin dst ≤ intMin src) && decide (intMax src ≤ intMax dst)
  else if typeIsInt src then decide (-(floatMax dst) ≤ intMin src) && decide (intMax src ≤ floatMax dst)
  else decide (floatMax src ≤ floatMax dst)

/-- CVT's fields (10 R223): types 0-12 and unequal, SB and B's modifiers only where two values are converted, `.hi` only for
8-bit destinations, rounding, saturation. -/
def cvtOk (f : FmtA) (x : FmtX) : Bool :=
  let dst := x.ty.toNat
  let sub := x.sub.toNat
  let src := sub % 32
  let two := typeBits dst < 32
  let rndOk :=
    if typeIsInt dst && typeIsInt src then x.rnd = 0
    else if dst = 9 || dst = 10 || dst = 11 || dst = 12 then rndAny x.rnd
    else rndExact x.rnd
  let satOk :=
    if !x.sat then true
    else if typeIsInt dst && !typeIsInt src then false
    else !cvtWidens dst src
  decide (dst ≤ 12) && decide (src ≤ 12) && decide (dst ≠ src) && (two || f.b = 0) && (sub < 32 || typeBits dst = 8) &&
    xZero x false true true true true two two false false && rndOk && satOk

/-- REDX and SCAN (10 R231): the operation, its types and its rounding. -/
def redOk (f : FmtA) (x : FmtX) (scan : Bool) : Bool :=
  let sub := x.sub.toNat
  let op := sub / 2 % 8
  f.b = 0 && xZero x false true false false false false false false false && tyIn x [0, 1, 8] && op ≤ 5 &&
    (x.ty ≠ 8 || op ≤ 2) && (if x.ty = 8 && op = 0 then rndExact x.rnd else x.rnd = 0) && sub < 32 &&
    (scan || sub < 16) && (decide (sub % 2 = 1) == scan)

/-- Orders of Table 8-2: plain always; acquire and release as the word accepts them. -/
def ordOk (o : BitVec 2) (acq rel both : Bool) : Bool :=
  match o.toNat with
  | 0 => true
  | 1 => acq
  | 2 => rel
  | _ => both

/-- A memory word's SCOPE, ORDER and SZOP (08 R163, 09 Table 9-1). -/
def memOk (f : FmtM) (acq rel both : Bool) (sz : List Nat) : Bool :=
  f.scope.toNat ≤ 8 && ordOk f.order acq rel both && sz.contains f.szop.toNat

/-- The block types of MST: 13-16, and 11 with MX (11 R261). -/
def mstBlock (c : MstCtl) : Bool := (decide (13 ≤ c.ty.toNat) && decide (c.ty.toNat ≤ 16)) || (c.mx && c.ty = 11)

/-- Is a type code one of an element narrower than 32 bits (06 Table 6-11)? -/
def narrowType (ty : Nat) : Bool := decide (2 ≤ ty && ty ≤ 5) || decide (9 ≤ ty && ty ≤ 16)

/-- MST at issue (02 R26, 06 R131): RND 6-7 never, RND 5 only for destinations narrower than 32 bits; unused ED and EE zero
(log 12, DEDUCED). -/
def mstOk (f : FmtE) (c : MstCtl) : Bool :=
  rndAny c.rnd && (c.rnd ≠ 5 || narrowType c.ty.toNat) && (c.bias || mstBlock c || f.ed = 0) &&
    (c.scale || f.ee = 0)

/-- Does every field of the instruction hold a value the form accepts, so that it is no illegal instruction (0x01)? Events have
no encoding and pass. -/
def fieldsAccepted : Instr → Bool
  | .iabs f | .popc f | .clz f | .brev f | .mov f | .fclass f | .rcp f | .rsq f | .sqrt f | .ex2 f | .lg2 f | .sin f
  | .cos f | .tanh f | .p2v f | .v2p f => f.b = 0
  | .mzero f | .mscl f => f.b = 0 && !f.n
  | .imulh _ x | .imin _ x | .imax _ x => xMods x true true && tyIn x [0, 1] && x.sub = 0
  | .imad _ x => xZero x true false true true true true true true true && tyIn x [0, 1] && x.sub = 0
  | .imadw _ x => xZero x true false false true true true true false false && tyIn x [0, 1] && x.sub = 0
  | .bfi _ x => xZero x true false false false false false false false false && x.ty = 0 && x.sub = 0
  | .iset _ x => xMods x true true && tyIn x [0, 1, 6, 7] && x.sub.toNat < 8
  | .sel _ x => xMods x false false && x.ty = 0 && x.sub.toNat < 16
  | .lea _ x => xMods x false false && tyIn x [0, 1] && x.sub.toNat < 8
  | .ffma _ x => xZero x true true true true true true true true true && rndExact x.rnd && x.ty = 0 && x.sub = 0
  | .fset _ x => xMods x true true && x.ty = 0 && x.sub.toNat < 6
  | .frnd f x => f.b = 0 && xZero x false true false true true false false false false && rndExact x.rnd && x.ty = 0 && x.sub = 0
  | .duadd _ x | .dumul _ x =>
    xZero x false true true true true true true false false && rndExact x.rnd && tyIn x [9, 10] && x.sub = 0
  | .dufma _ x => xZero x true true true true true true true true true && rndExact x.rnd && tyIn x [9, 10] && x.sub = 0
  | .dumin _ x | .dumax _ x => xMods x true true && tyIn x [9, 10] && x.sub = 0
  | .duset _ x => xMods x true true && tyIn x [9, 10] && x.sub.toNat < 32 && x.sub.toNat % 8 < 6
  | .cvt f x => cvtOk f x
  | .zpk f x => f.b = 0 && xZero x false true false true true false false false false && rndAny x.rnd && tyIn x [14, 15, 16] && x.sub = 0
  | .zupk _ x => xMods x false false && tyIn x [14, 15, 16] && x.sub = 0
  | .mxpk f x => f.b = 0 && xZero x false true false true true false false false false && rndAny x.rnd && tyIn x [11, 13] && x.sub = 0
  | .mxupk _ x => xZero x false false true false false false false false false && tyIn x [11, 13] && x.sub = 0
  | .fdot4 _ x => xZero x true true true true false true false true true && rndExact x.rnd && tyIn x [11, 12] && x.sub = 0
  | .idot4 _ x => xZero x true false true false false false false true true && tyIn x [4, 5] && x.sub = 0
  | .smov f => f.b = 0
  | .sshlImm f | .sshrImm f => f.imm.toNat < 32
  | .plop _ x => xMods x false false && x.ty = 0 && x.sub.toNat < 16
  | .shfl _ x => xMods x false false && tyIn x [0, 6] && x.sub.toNat < 4
  | .vote f x => f.b = 0 && xMods x false false && x.ty = 0 && x.sub.toNat ≤ 4
  | .redx f x => redOk f x false
  | .scan f x => redOk f x true
  | .matchW f x => f.b = 0 && xMods x false false && tyIn x [0, 6] && x.sub.toNat < 2
  | .ld f => memOk f true false false [0, 1, 2, 3, 4, 5, 6]
  | .st f => memOk f false true false [0, 2, 4, 5, 6]
  | .atom f => memOk f true true true [0, 1, 2, 3, 4, 5, 6, 7, 8, 9, 10, 11, 12, 13, 14, 15]
  | .cas f => memOk f true true true [4, 5]
  | .post f => memOk f false true false [0, 1, 2, 3, 4, 5, 6, 7, 8, 9, 10, 11, 12]
  | .migrate f => memOk f false false false [0] && f.data = 0
  | .migrateOne f => memOk f false false false [1] && f.data = 0
  | .home f => memOk f false false false [0]
  | .ldt f => memOk f true false false [0, 1, 2]
  | .stt f => memOk f false true false [0, 1, 2]
  | .cpy f _ | .cpyi f _ => f.ed = 0 && f.ee = 0
  | .fill f | .mld f | .mldt f => f.ee = 0
  | .seal f | .waitb f => f.eb = 0 && f.ec = 0 && f.ed = 0 && f.ee = 0
  | .vrrun f => f.ed = 0 && f.ee = 0
  | .vract f => f.ec = 0 && f.ed = 0 && f.ee = 0
  | .vrset f c => c.bsel.toNat ≤ 4 && (!c.acc || !c.ofmt) && (c.vfmt ≠ 0 || f.ee = 0)
  | .mma f x => xZero x true false false false false false false false false && x.ty = 0 && !f.n &&
      (x.sub.toNat % 4 = 2 || x.sub.toNat < 4)
  | .mvacc f x => f.b = 0 && !f.n && xMods x false false && tyIn x [0, 8] && x.sub.toNat < 8 && x.sub.toNat % 2 = 0
  | .maccv f x => f.b = 0 && !f.n && f.a.toNat < 8 && xMods x false false && tyIn x [0, 8] && x.sub.toNat < 8 && x.sub.toNat % 2 = 1
  | .mloop _ c => c.md = 2 || c.sk = 0
  | .mst f c => mstOk f c
  | .bra f | .brc f | .call f => !f.cneg || f.cpred ≠ 0
  | .bar d a _ o => o ≠ 0 || (d = 0 && a = 0)
  | .arrive a _ o => o ≠ 0 || a = 0
  | .await d _ o => o || d = 0
  | _ => true

/-- The engine class of a word (06 Table 6-7, Table 6-15, Table 6-16); events have none. -/
def engineClass : Instr → Nat
  | .ld _ | .st _ | .atom _ | .cas _ | .post _ | .migrate _ | .migrateOne _ | .home _ | .ldt _ | .stt _ => 1
  | .cpy .. | .cpyi .. | .cpys _ | .gath .. | .scat .. | .fill _ | .seal _ | .waitb _ => 2
  | .mma .. | .mloop .. | .mld _ | .mldt _ | .mst .. | .mvacc .. | .maccv .. | .mzero _ | .mscl _ => 3
  | .vrset .. | .vrrun _ | .vract _ => 4
  | .bra _ | .brc _ | .call _ | .brx _ | .callr _ | .ret | .jmpt .. | .exitW | .yield | .elect | .ende | .lbrk | .loop ..
  | .grow _ | .shrink _ | .bar .. | .arrive .. | .await .. | .join _ | .joink .. => 5
  | .trap _ | .tret | .gets .. | .sets .. | .halt _ | .replay | .dump _ | .step .. | .rdctx .. | .wrctx .. | .resume .. => 6
  | .rcp _ | .rsq _ | .sqrt _ | .ex2 _ | .lg2 _ | .sin _ | .cos _ | .tanh _ | .shfl .. | .vote .. | .redx .. | .scan ..
  | .matchW .. | .v2s _ => 7
  | _ => 0

/-- The words that stand last in their clause (06 R120). -/
def terminal : Instr → Bool
  | .bra _ | .brc _ | .call _ | .brx _ | .callr _ | .ret | .jmpt .. | .exitW | .yield | .elect | .ende | .lbrk | .loop ..
  | .grow _ | .bar .. | .await .. | .join _ | .joink .. | .trap _ | .tret | .halt _ | .dump _ => true
  | .ld f | .st f | .atom f | .cas f | .ldt f | .stt f | .migrate f | .migrateOne f => f.space ≠ 2
  | _ => false

end Sys2Proof
end

