-- ==== Sys2Proof/WellFormed.lean ====
section
/-! DEFINITION. Well-formed instructions: every field holds a value its form accepts (06 R134, first row of Table 6-17). -/

namespace Sys2Proof

/-- No illegal-instruction defect. -/
def Instr.wf (i : Instr) : Bool := fieldsAccepted i

/-- The check as a proposition. -/
abbrev Instr.WellFormed (i : Instr) : Prop := i.wf = true

end Sys2Proof
end

