-- ==== Sys2Proof/Decode.lean ====
section
/-! DEFINITION. The decoder and, after it, the encoder, both written from 06 Tables 6-8 to 6-16 and the control words of 09, 11
and 12. The decoder is total on any words; it rejects by name every encoding of the first row of Table 6-17 (fault 0x01) that
the bits alone decide. -/

namespace Sys2Proof

/-- Why an encoding is no instruction; each is an illegal instruction, fault 0x01 (06 R134, Table 6-17). -/
inductive DecodeError where
  /-- Reserved opcode, or a clause header where an instruction stands. -/
  | reservedOpcode
  /-- A SUBOP not in Table 6-15. -/
  | reservedSubop
  /-- A field the form does not use is not zero. -/
  | unusedField
  /-- A TYPE, SUBOP, RND, SCOPE, ORDER, SZOP or control value the instruction does not accept. -/
  | notAccepted
  /-- Fewer bytes than the word has. -/
  | truncated
  deriving DecidableEq, Repr

/-- Bits [hi:lo] of a word as a bit vector of `len` bits. -/
def fld (w : Word) (lo len : Nat) : BitVec len := w.extractLsb' lo len

/-- One bit of a word. -/
def bit (w : Word) (i : Nat) : Bool := w.getLsbD i

def decFmtA (w : Word) : FmtA := ⟨fld w 19 6, bit w 18, fld w 11 7, fld w 4 7, bit w 3, fld w 0 3⟩
def decFmtS (w : Word) : FmtS := ⟨fld w 19 6, bit w 18, fld w 11 7, fld w 4 7⟩
def decFmtI (w : Word) : FmtI := ⟨fld w 19 6, bit w 18, fld w 0 18⟩
def decFmtIS (w : Word) : FmtIS := ⟨fld w 19 6, bit w 18, fld w 11 7, fld w 0 11⟩
def decFmtM (w : Word) : FmtM := ⟨fld w 19 6, fld w 12 7, fld w 8 4, fld w 6 2, fld w 4 2, fld w 0 4⟩
def decFmtB (w : Word) : FmtB := ⟨bit w 24, fld w 21 3, fld w 0 21⟩
def decFmtE (w : Word) : FmtE := ⟨fld w 20 5, fld w 15 5, fld w 10 5, fld w 5 5, fld w 0 5⟩

/-- The X word; its reserved bits [3:0] must be zero (06 R128). -/
def decFmtX (w : Word) : Except DecodeError FmtX :=
  if fld w 0 4 = 0 then
    .ok ⟨fld w 25 7, fld w 22 3, bit w 21, bit w 20, bit w 19, bit w 18, bit w 17, bit w 16, bit w 15, fld w 10 5, fld w 4 6⟩
  else .error .unusedField

def decCopyCtl (w : Word) : Except DecodeError CopyCtl :=
  if fld w 5 27 = 0 then .ok ⟨fld w 0 2, fld w 2 2, bit w 4⟩ else .error .unusedField
def decGathCtl (w : Word) : Except DecodeError GathCtl :=
  if fld w 6 26 = 0 then .ok ⟨fld w 0 2, bit w 2, bit w 3, fld w 4 2⟩ else .error .unusedField
def decMloopCtl (w : Word) : Except DecodeError MloopCtl :=
  if fld w 10 22 = 0 then .ok ⟨fld w 0 3, fld w 3 2, fld w 5 5⟩ else .error .unusedField
def decMstCtl (w : Word) : Except DecodeError MstCtl :=
  if fld w 20 12 = 0 then
    .ok ⟨bit w 19, bit w 18, bit w 17, bit w 16, fld w 13 3, bit w 12, bit w 11, fld w 8 3, bit w 7, fld w 2 5, fld w 0 2⟩
  else .error .unusedField
def decVrCtl (w : Word) : Except DecodeError VrCtl :=
  if fld w 8 24 = 0 then .ok ⟨bit w 7, bit w 6, fld w 4 2, bit w 3, fld w 0 3⟩ else .error .unusedField

/-- A word whose unused bits must be zero, else 0x01. -/
def needZero {len : Nat} (z : BitVec len) (i : Instr) : Except DecodeError Instr :=
  if z = 0 then .ok i else .error .unusedField

/-- Opcode 0x38: scalar subops (06 Table 6-15). -/
def decScalar (w : Word) : Except DecodeError Instr :=
  let f := decFmtS w
  match (fld w 0 4).toNat with
  | 0 => .ok (.sadd f)
  | 1 => .ok (.ssub f)
  | 2 => .ok (.smul f)
  | 3 => .ok (.sand f)
  | 4 => .ok (.sor f)
  | 5 => .ok (.sxor f)
  | 6 => .ok (.sshl f)
  | 7 => .ok (.sshr f)
  | 8 => .ok (.ssetEq f)
  | 9 => .ok (.ssetNe f)
  | 10 => .ok (.ssetLt f)
  | 11 => .ok (.ssetGe f)
  | 12 => .ok (.ssetLtu f)
  | 13 => .ok (.ssetGeu f)
  | 14 => .ok (.smov f)
  | _ => .error .reservedSubop

/-- Opcode 0x77 (06 Table 6-15). -/
def dec77 (w : Word) : Except DecodeError Instr :=
  let dn := fld w 18 7
  let ab := fld w 4 14
  let a := fld w 11 7
  let b := fld w 4 7
  match (fld w 0 4).toNat with
  | 0 => if dn = 0 then needZero b (.brx a) else .error .unusedField
  | 1 => if dn = 0 then needZero b (.callr a) else .error .unusedField
  | 2 => if dn = 0 then needZero ab .ret else .error .unusedField
  | 3 => needZero dn (.jmpt a b)
  | 4 => if dn = 0 then needZero ab .exitW else .error .unusedField
  | 5 => if dn = 0 then needZero ab .nop else .error .unusedField
  | 6 => if dn = 0 then needZero ab .yield else .error .unusedField
  | 7 => if dn = 0 then needZero ab .elect else .error .unusedField
  | 8 => if dn = 0 then needZero ab .ende else .error .unusedField
  | 9 => if dn = 0 then needZero ab .lbrk else .error .unusedField
  | 10 => if dn = 0 then needZero ab .leave else .error .unusedField
  | _ => .error .reservedSubop

/-- Opcode 0x78: format I with the subop in DST (06 R132). -/
def dec78 (w : Word) : Except DecodeError Instr :=
  if bit w 18 then .error .unusedField else
  match (fld w 19 6).toNat with
  | 0 => needZero (fld w 8 3) (.loop (fld w 11 7) (fld w 0 8))
  | 1 => needZero (fld w 16 2) (.enter (fld w 0 16))
  | 2 => needZero (fld w 4 14) (.grow (fld w 0 4))
  | 3 => needZero (fld w 4 14) (.shrink (fld w 0 4))
  | _ => .error .reservedSubop

/-- Opcode 0x79: barriers, joins (06 Table 6-15, 13 R292, R294, R298). -/
def dec79 (w : Word) : Except DecodeError Instr :=
  if bit w 18 then .error .unusedField else
  let d := fld w 19 6
  let a := fld w 11 7
  let k := fld w 7 4
  match (fld w 0 4).toNat with
  | 0 => .ok (.bar d a k (fld w 4 3))
  | 1 => needZero d (.arrive a k (fld w 4 3))
  | 2 => if a = 0 then needZero (fld w 5 2) (.await d k (bit w 4)) else .error .unusedField
  | 3 => if d = 0 ∧ a = 0 then needZero (fld w 4 3) (.join k) else .error .unusedField
  | 4 => needZero (fld w 4 7) (.joink d a)
  | _ => .error .reservedSubop

/-- Opcode 0x7A: system words (06 Table 6-15). -/
def dec7A (w : Word) : Except DecodeError Instr :=
  if bit w 18 then .error .unusedField else
  let d := fld w 19 6
  let a := fld w 11 7
  let b := fld w 4 7
  match (fld w 0 4).toNat with
  | 0 => if d = 0 then needZero a (.trap b) else .error .unusedField
  | 1 => if d = 0 ∧ a = 0 then needZero b .tret else .error .unusedField
  | 2 => needZero b (.gets d a)
  | 3 => needZero d (.sets a b)
  | 4 => if d = 0 then needZero a (.halt b) else .error .unusedField
  | 5 => if d = 0 ∧ a = 0 then needZero b .replay else .error .unusedField
  | 6 => if d = 0 then needZero a (.dump b) else .error .unusedField
  | _ => .error .reservedSubop

/-- Opcode 0x7B: debug-agent words (06 Table 6-15). -/
def dec7B (w : Word) : Except DecodeError Instr :=
  if bit w 18 then .error .unusedField else
  let d := fld w 19 6
  let a := fld w 11 7
  let b := fld w 4 7
  match (fld w 0 4).toNat with
  | 0 => .ok (.step d a b)
  | 1 => .ok (.rdctx d a b)
  | 2 => .ok (.wrctx d a b)
  | 3 => .ok (.resume d a b)
  | _ => .error .reservedSubop

/-- MIGRATE with SZOP 0 or 1; its DATA is zero (09 R178, R188). -/
def decMigrate (w : Word) : Except DecodeError Instr :=
  match (fld w 0 4).toNat with
  | 0 => .ok (.migrate (decFmtM w))
  | 1 => .ok (.migrateOne (decFmtM w))
  | _ => .error .notAccepted

/-- An opcode followed by an X word. -/
def withX (w x : Word) (mk : FmtA → FmtX → Instr) : Except DecodeError Instr := do
  let fx ← decFmtX x
  return mk (decFmtA w) fx

/-- The constructor that the opcode map (06 Table 6-16) gives the word `w` followed by `x`. -/
def decRaw (w x : Word) : Except DecodeError Instr :=
  match (fld w 25 7).toNat with
  | 0x00 => .ok (.iadd (decFmtA w))
  | 0x01 => .ok (.isub (decFmtA w))
  | 0x02 => .ok (.imul (decFmtA w))
  | 0x03 => withX w x .imulh
  | 0x04 => withX w x .imad
  | 0x05 => withX w x .imadw
  | 0x06 => withX w x .imin
  | 0x07 => withX w x .imax
  | 0x08 => .ok (.iabs (decFmtA w))
  | 0x09 => .ok (.andW (decFmtA w))
  | 0x0A => .ok (.orW (decFmtA w))
  | 0x0B => .ok (.xorW (decFmtA w))
  | 0x0C => .ok (.andn (decFmtA w))
  | 0x0D => .ok (.shl (decFmtA w))
  | 0x0E => .ok (.shr (decFmtA w))
  | 0x0F => .ok (.sar (decFmtA w))
  | 0x10 => .ok (.rotl (decFmtA w))
  | 0x11 => .ok (.bfx (decFmtA w))
  | 0x12 => withX w x .bfi
  | 0x13 => .ok (.popc (decFmtA w))
  | 0x14 => .ok (.clz (decFmtA w))
  | 0x15 => .ok (.brev (decFmtA w))
  | 0x16 => withX w x .iset
  | 0x17 => withX w x .sel
  | 0x18 => .ok (.mov (decFmtA w))
  | 0x19 => .ok (.movi (decFmtI w))
  | 0x1A => .ok (.moviH (decFmtI w))
  | 0x1B => .ok (.movx (decFmtA w))
  | 0x1C => .ok (.movxw (decFmtA w))
  | 0x1D => withX w x .lea
  | 0x20 => .ok (.fadd (decFmtA w))
  | 0x21 => .ok (.fmul (decFmtA w))
  | 0x22 => withX w x .ffma
  | 0x23 => .ok (.fmin (decFmtA w))
  | 0x24 => .ok (.fmax (decFmtA w))
  | 0x25 => withX w x .fset
  | 0x26 => .ok (.fclass (decFmtA w))
  | 0x27 => withX w x .frnd
  | 0x28 => .ok (.fscale (decFmtA w))
  | 0x29 => withX w x .duadd
  | 0x2A => withX w x .dumul
  | 0x2B => withX w x .dufma
  | 0x2C => withX w x .dumin
  | 0x2D => withX w x .dumax
  | 0x2E => withX w x .duset
  | 0x30 => withX w x .cvt
  | 0x31 => withX w x .zpk
  | 0x32 => withX w x .zupk
  | 0x33 => withX w x .mxpk
  | 0x34 => withX w x .mxupk
  | 0x35 => withX w x .fdot4
  | 0x36 => withX w x .idot4
  | 0x38 => decScalar w
  | 0x39 => .ok (.smovi (decFmtI w))
  | 0x3A => .ok (.smoviH (decFmtI w))
  | 0x3B => .ok (.saddImm (decFmtIS w))
  | 0x3C => .ok (.sandImm (decFmtIS w))
  | 0x3D => .ok (.sshlImm (decFmtIS w))
  | 0x3E => .ok (.sshrImm (decFmtIS w))
  | 0x40 => .ok (.rcp (decFmtA w))
  | 0x41 => .ok (.rsq (decFmtA w))
  | 0x42 => .ok (.sqrt (decFmtA w))
  | 0x43 => .ok (.ex2 (decFmtA w))
  | 0x44 => .ok (.lg2 (decFmtA w))
  | 0x45 => .ok (.sin (decFmtA w))
  | 0x46 => .ok (.cos (decFmtA w))
  | 0x47 => .ok (.tanh (decFmtA w))
  | 0x48 => withX w x .plop
  | 0x49 => .ok (.p2v (decFmtA w))
  | 0x4A => .ok (.v2p (decFmtA w))
  | 0x4B => withX w x .shfl
  | 0x4C => withX w x .vote
  | 0x4D => if bit x 4 then withX w x .scan else withX w x .redx
  | 0x4E => withX w x .matchW
  | 0x4F => .ok (.v2s (decFmtA w))
  | 0x50 => .ok (.ld (decFmtM w))
  | 0x51 => .ok (.st (decFmtM w))
  | 0x52 => .ok (.atom (decFmtM w))
  | 0x53 => .ok (.cas (decFmtM w))
  | 0x54 => .ok (.post (decFmtM w))
  | 0x55 => decMigrate w
  | 0x56 => .ok (.home (decFmtM w))
  | 0x57 => .ok (.ldt (decFmtM w))
  | 0x58 => .ok (.stt (decFmtM w))
  | 0x60 => (decCopyCtl x).map (.cpy (decFmtE w))
  | 0x61 => (decCopyCtl x).map (.cpyi (decFmtE w))
  | 0x62 => .ok (.cpys (decFmtE w))
  | 0x63 => (decGathCtl x).map (.gath (decFmtE w))
  | 0x64 => (decGathCtl x).map (.scat (decFmtE w))
  | 0x65 => .ok (.fill (decFmtE w))
  | 0x66 => .ok (.seal (decFmtE w))
  | 0x67 => .ok (.waitb (decFmtE w))
  | 0x68 => withX w x .mma
  | 0x69 => (decMloopCtl x).map (.mloop (decFmtE w))
  | 0x6A => .ok (.mld (decFmtE w))
  | 0x6B => .ok (.mldt (decFmtE w))
  | 0x6C => (decMstCtl x).map (.mst (decFmtE w))
  | 0x6D => if bit x 4 then withX w x .maccv else withX w x .mvacc
  | 0x6E => .ok (.mzero (decFmtA w))
  | 0x6F => .ok (.mscl (decFmtA w))
  | 0x70 => (decVrCtl x).map (.vrset (decFmtE w))
  | 0x71 => .ok (.vrrun (decFmtE w))
  | 0x72 => .ok (.vract (decFmtE w))
  | 0x74 => .ok (.bra (decFmtB w))
  | 0x75 => .ok (.brc (decFmtB w))
  | 0x76 => .ok (.call (decFmtB w))
  | 0x77 => dec77 w
  | 0x78 => dec78 w
  | 0x79 => dec79 w
  | 0x7A => dec7A w
  | 0x7B => dec7B w
  | _ => .error .reservedOpcode

/-- Does the opcode take a second word: X (06 R128) or control word (06 R131)? -/
def hasSecond (w : Word) : Bool :=
  match (fld w 25 7).toNat with
  | 0x03 | 0x04 | 0x05 | 0x06 | 0x07 | 0x12 | 0x16 | 0x17 | 0x1D | 0x22 | 0x25 | 0x27 | 0x29 | 0x2A | 0x2B | 0x2C | 0x2D | 0x2E | 0x30 | 0x31 | 0x32 | 0x33 | 0x34 | 0x35 | 0x36 | 0x48 | 0x4B | 0x4C | 0x4D | 0x4E | 0x60 | 0x61 | 0x63 | 0x64 | 0x68 | 0x69 | 0x6C | 0x6D | 0x70 => true
  | _ => false

/-- The instruction of two words, the second used only where the opcode takes one; every 0x01 defect is refused by name. -/
def decode2 (w x : Word) : Except DecodeError Instr := do
  let i ← decRaw w x
  if i.wf then return i else throw .notAccepted

/-- A little-endian word of four bytes (06 R117). -/
def wordOfBytes (b0 b1 b2 b3 : Byte) : Word := b3 ++ b2 ++ b1 ++ b0

/-- Decode the instruction that stands first in `bytes`; answers it and the bytes after it. -/
def decode : List Byte → Except DecodeError (Instr × List Byte)
  | b0 :: b1 :: b2 :: b3 :: rest =>
    let w := wordOfBytes b0 b1 b2 b3
    if hasSecond w then
      match rest with
      | c0 :: c1 :: c2 :: c3 :: rest' => (decode2 w (wordOfBytes c0 c1 c2 c3)).map (·, rest')
      | _ => .error .truncated
    else (decode2 w 0).map (·, rest)
  | _ => .error .truncated

/-- The bytes of a word in memory order (06 R117). -/
def wordBytes (w : Word) : List Byte :=
  [w.extractLsb' 0 8, w.extractLsb' 8 8, w.extractLsb' 16 8, w.extractLsb' 24 8]

/-- The eight bytes of an instruction whose table bits are `w`, bits above `nbits` zero. -/
def tableBytes (nbits w : Nat) : List Byte :=
  let v := w % 2 ^ nbits
  wordBytes (BitVec.ofNat 32 v) ++ wordBytes (BitVec.ofNat 32 (v / 2 ^ 32))

/-- What the decoder reads from an instruction whose bits are `w`, numbered as the opcode table numbers them. -/
def decodeTableWord (nbits w : Nat) : Option Instr :=
  if nbits = 0 then none
  else match decode (tableBytes nbits w) with
    | .ok (i, _) => some i
    | .error _ => none

/-! ## The encoder -/

/-- Opcode in [31:25] over the 25 bits below. -/
def enc (opc : Nat) (rest : BitVec 25) : Word := BitVec.ofNat 7 opc ++ rest

def encA (opc : Nat) (f : FmtA) : Word :=
  enc opc (f.d ++ BitVec.ofBool f.n ++ f.a ++ f.b ++ BitVec.ofBool f.g ++ f.p)
def encS (sub : Nat) (f : FmtS) : Word :=
  enc 0x38 (f.d ++ BitVec.ofBool f.n ++ f.a ++ f.b ++ BitVec.ofNat 4 sub)
def encI (opc : Nat) (f : FmtI) : Word := enc opc (f.d ++ BitVec.ofBool f.n ++ f.imm)
def encIS (opc : Nat) (f : FmtIS) : Word := enc opc (f.d ++ BitVec.ofBool f.n ++ f.a ++ f.imm)
def encM (opc : Nat) (f : FmtM) : Word := enc opc (f.data ++ f.addr ++ f.scope ++ f.order ++ f.space ++ f.szop)
def encB (opc : Nat) (f : FmtB) : Word := enc opc (BitVec.ofBool f.cneg ++ f.cpred ++ f.off)
def encE (opc : Nat) (f : FmtE) : Word := enc opc (f.ea ++ f.eb ++ f.ec ++ f.ed ++ f.ee)
def encX (x : FmtX) : Word :=
  x.sc ++ x.rnd ++ BitVec.ofBool x.sat ++ BitVec.ofBool x.nega ++ BitVec.ofBool x.absa ++ BitVec.ofBool x.negb ++
    BitVec.ofBool x.absb ++ BitVec.ofBool x.negc ++ BitVec.ofBool x.absc ++ x.ty ++ x.sub ++ (0 : BitVec 4)
def encCopyCtl (c : CopyCtl) : Word := (0 : BitVec 27) ++ BitVec.ofBool c.ord ++ c.dst ++ c.src
def encGathCtl (c : GathCtl) : Word :=
  (0 : BitVec 26) ++ c.near ++ BitVec.ofBool c.idx16 ++ BitVec.ofBool c.ord ++ c.far
def encMloopCtl (c : MloopCtl) : Word := (0 : BitVec 22) ++ c.sk ++ c.md ++ c.tile
def encMstCtl (c : MstCtl) : Word :=
  (0 : BitVec 12) ++ BitVec.ofBool c.itile ++ BitVec.ofBool c.mreq ++ BitVec.ofBool c.trn ++ BitVec.ofBool c.sat ++ c.rnd ++
    BitVec.ofBool c.scale ++ BitVec.ofBool c.bias ++ c.act ++ BitVec.ofBool c.mx ++ c.ty ++ c.space
def encVrCtl (c : VrCtl) : Word :=
  (0 : BitVec 24) ++ BitVec.ofBool c.acc ++ BitVec.ofBool c.ofmt ++ c.vfmt ++ BitVec.ofBool c.afmt ++ c.bsel

/-- Opcode, DST, SA, bits [10:4] and the subop of the 0x77-0x7B words; NWB is zero. -/
def encSub (opc : Nat) (d : BitVec 6) (a b : BitVec 7) (sub : Nat) : Word :=
  enc opc (d ++ (0 : BitVec 1) ++ a ++ b ++ BitVec.ofNat 4 sub)

/-- The words of an instruction; an event has none. -/
def encode : Instr → List Word
  | .iadd f => [encA 0x00 f]
  | .isub f => [encA 0x01 f]
  | .imul f => [encA 0x02 f]
  | .iabs f => [encA 0x08 f]
  | .andW f => [encA 0x09 f]
  | .orW f => [encA 0x0A f]
  | .xorW f => [encA 0x0B f]
  | .andn f => [encA 0x0C f]
  | .shl f => [encA 0x0D f]
  | .shr f => [encA 0x0E f]
  | .sar f => [encA 0x0F f]
  | .rotl f => [encA 0x10 f]
  | .bfx f => [encA 0x11 f]
  | .popc f => [encA 0x13 f]
  | .clz f => [encA 0x14 f]
  | .brev f => [encA 0x15 f]
  | .mov f => [encA 0x18 f]
  | .movx f => [encA 0x1B f]
  | .movxw f => [encA 0x1C f]
  | .fadd f => [encA 0x20 f]
  | .fmul f => [encA 0x21 f]
  | .fmin f => [encA 0x23 f]
  | .fmax f => [encA 0x24 f]
  | .fclass f => [encA 0x26 f]
  | .fscale f => [encA 0x28 f]
  | .rcp f => [encA 0x40 f]
  | .rsq f => [encA 0x41 f]
  | .sqrt f => [encA 0x42 f]
  | .ex2 f => [encA 0x43 f]
  | .lg2 f => [encA 0x44 f]
  | .sin f => [encA 0x45 f]
  | .cos f => [encA 0x46 f]
  | .tanh f => [encA 0x47 f]
  | .p2v f => [encA 0x49 f]
  | .v2p f => [encA 0x4A f]
  | .v2s f => [encA 0x4F f]
  | .mzero f => [encA 0x6E f]
  | .mscl f => [encA 0x6F f]
  | .imulh f x => [encA 0x03 f, encX x]
  | .imad f x => [encA 0x04 f, encX x]
  | .imadw f x => [encA 0x05 f, encX x]
  | .imin f x => [encA 0x06 f, encX x]
  | .imax f x => [encA 0x07 f, encX x]
  | .bfi f x => [encA 0x12 f, encX x]
  | .iset f x => [encA 0x16 f, encX x]
  | .sel f x => [encA 0x17 f, encX x]
  | .lea f x => [encA 0x1D f, encX x]
  | .ffma f x => [encA 0x22 f, encX x]
  | .fset f x => [encA 0x25 f, encX x]
  | .frnd f x => [encA 0x27 f, encX x]
  | .duadd f x => [encA 0x29 f, encX x]
  | .dumul f x => [encA 0x2A f, encX x]
  | .dufma f x => [encA 0x2B f, encX x]
  | .dumin f x => [encA 0x2C f, encX x]
  | .dumax f x => [encA 0x2D f, encX x]
  | .duset f x => [encA 0x2E f, encX x]
  | .cvt f x => [encA 0x30 f, encX x]
  | .zpk f x => [encA 0x31 f, encX x]
  | .zupk f x => [encA 0x32 f, encX x]
  | .mxpk f x => [encA 0x33 f, encX x]
  | .mxupk f x => [encA 0x34 f, encX x]
  | .fdot4 f x => [encA 0x35 f, encX x]
  | .idot4 f x => [encA 0x36 f, encX x]
  | .plop f x => [encA 0x48 f, encX x]
  | .shfl f x => [encA 0x4B f, encX x]
  | .vote f x => [encA 0x4C f, encX x]
  | .matchW f x => [encA 0x4E f, encX x]
  | .mma f x => [encA 0x68 f, encX x]
  | .redx f x => [encA 0x4D f, encX x]
  | .scan f x => [encA 0x4D f, encX x]
  | .mvacc f x => [encA 0x6D f, encX x]
  | .maccv f x => [encA 0x6D f, encX x]
  | .sadd f => [encS 0 f]
  | .ssub f => [encS 1 f]
  | .smul f => [encS 2 f]
  | .sand f => [encS 3 f]
  | .sor f => [encS 4 f]
  | .sxor f => [encS 5 f]
  | .sshl f => [encS 6 f]
  | .sshr f => [encS 7 f]
  | .ssetEq f => [encS 8 f]
  | .ssetNe f => [encS 9 f]
  | .ssetLt f => [encS 10 f]
  | .ssetGe f => [encS 11 f]
  | .ssetLtu f => [encS 12 f]
  | .ssetGeu f => [encS 13 f]
  | .smov f => [encS 14 f]
  | .movi f => [encI 0x19 f]
  | .moviH f => [encI 0x1A f]
  | .smovi f => [encI 0x39 f]
  | .smoviH f => [encI 0x3A f]
  | .saddImm f => [encIS 0x3B f]
  | .sandImm f => [encIS 0x3C f]
  | .sshlImm f => [encIS 0x3D f]
  | .sshrImm f => [encIS 0x3E f]
  | .ld f => [encM 0x50 f]
  | .st f => [encM 0x51 f]
  | .atom f => [encM 0x52 f]
  | .cas f => [encM 0x53 f]
  | .post f => [encM 0x54 f]
  | .home f => [encM 0x56 f]
  | .ldt f => [encM 0x57 f]
  | .stt f => [encM 0x58 f]
  | .migrate f => [encM 0x55 f]
  | .migrateOne f => [encM 0x55 f]
  | .cpys f => [encE 0x62 f]
  | .fill f => [encE 0x65 f]
  | .seal f => [encE 0x66 f]
  | .waitb f => [encE 0x67 f]
  | .mld f => [encE 0x6A f]
  | .mldt f => [encE 0x6B f]
  | .vrrun f => [encE 0x71 f]
  | .vract f => [encE 0x72 f]
  | .cpy f c => [encE 0x60 f, encCopyCtl c]
  | .cpyi f c => [encE 0x61 f, encCopyCtl c]
  | .gath f c => [encE 0x63 f, encGathCtl c]
  | .scat f c => [encE 0x64 f, encGathCtl c]
  | .mloop f c => [encE 0x69 f, encMloopCtl c]
  | .mst f c => [encE 0x6C f, encMstCtl c]
  | .vrset f c => [encE 0x70 f, encVrCtl c]
  | .bra f => [encB 0x74 f]
  | .brc f => [encB 0x75 f]
  | .call f => [encB 0x76 f]
  | .brx a => [encSub 0x77 0 a 0 0]
  | .callr a => [encSub 0x77 0 a 0 1]
  | .ret => [encSub 0x77 0 0 0 2]
  | .jmpt a b => [encSub 0x77 0 a b 3]
  | .exitW => [encSub 0x77 0 0 0 4]
  | .nop => [encSub 0x77 0 0 0 5]
  | .yield => [encSub 0x77 0 0 0 6]
  | .elect => [encSub 0x77 0 0 0 7]
  | .ende => [encSub 0x77 0 0 0 8]
  | .lbrk => [encSub 0x77 0 0 0 9]
  | .leave => [encSub 0x77 0 0 0 10]
  | .loop a l => [enc 0x78 ((0 : BitVec 6) ++ (0 : BitVec 1) ++ a ++ (0 : BitVec 3) ++ l)]
  | .enter i => [enc 0x78 ((1 : BitVec 6) ++ (0 : BitVec 3) ++ i)]
  | .grow n => [enc 0x78 ((2 : BitVec 6) ++ (0 : BitVec 15) ++ n)]
  | .shrink n => [enc 0x78 ((3 : BitVec 6) ++ (0 : BitVec 15) ++ n)]
  | .bar d a k p => [encSub 0x79 d a (k ++ p) 0]
  | .arrive a k p => [encSub 0x79 0 a (k ++ p) 1]
  | .await d k p => [encSub 0x79 d 0 (k ++ (0 : BitVec 2) ++ BitVec.ofBool p) 2]
  | .join k => [encSub 0x79 0 0 (k ++ (0 : BitVec 3)) 3]
  | .joink d a => [encSub 0x79 d a 0 4]
  | .trap c => [encSub 0x7A 0 0 c 0]
  | .tret => [encSub 0x7A 0 0 0 1]
  | .gets d i => [encSub 0x7A d i 0 2]
  | .sets i b => [encSub 0x7A 0 i b 3]
  | .halt c => [encSub 0x7A 0 0 c 4]
  | .replay => [encSub 0x7A 0 0 0 5]
  | .dump c => [encSub 0x7A 0 0 c 6]
  | .step d a b => [encSub 0x7B d a b 0]
  | .rdctx d a b => [encSub 0x7B d a b 1]
  | .wrctx d a b => [encSub 0x7B d a b 2]
  | .resume d a b => [encSub 0x7B d a b 3]
  | .clauseFetch _ _ => []
  | .tableWalk _ _ _ => []
  | .loadResult _ _ => []
  | .storePerform _ _ => []
  | .atomicPerform _ => []
  | .postPerform _ => []
  | .postAck _ => []
  | .waitLineWake _ => []
  | .invPage _ _ _ => []
  | .invSlot _ _ => []
  | .invAll _ => []
  | .invalidationDropEnd _ => []
  | .migrationDepart _ => []
  | .landingOffer _ _ => []
  | .landingGrant _ => []
  | .grantReturn _ _ => []
  | .contextLanding _ => []
  | .landingAck _ => []
  | .contextPlace _ => []
  | .coreToCoreArrival _ => []
  | .groupSplit _ => []
  | .visitChainLeg _ => []
  | .joinArrival _ => []
  | .rstackExtensionClaim _ => []
  | .doorbell _ _ _ _ _ => []
  | .bankLaunchStart _ => []
  | .bankPassStart _ => []
  | .bankColumnCycle _ => []
  | .bankPassEnd _ => []
  | .rowEmulationEnd _ => []
  | .bankLaunchComplete _ => []
  | .scrubVisitStart _ _ => []
  | .scrubVisitEnd _ _ => []
  | .seasonBoundary _ => []
  | .dramRefresh _ _ => []
  | .scrubCtlWrite _ _ => []
  | .meshUncorrectable _ _ => []
  | .channelFlitReceive _ _ => []
  | .ackSendTimer _ => []
  | .replayTimeout _ => []
  | .spareSwitch _ => []
  | .spareSwitchEnd _ => []
  | .retrain _ _ => []
  | .training _ _ => []
  | .lossOfLight _ => []
  | .peerDown _ _ => []
  | .tileReadServe _ => []
  | .tileWriteServe _ => []
  | .copyStart _ => []
  | .copySectorIssue _ => []
  | .copySectorLand _ _ => []
  | .kStepEnd _ => []
  | .mloopStepStart _ => []
  | .mloopFetchSector _ => []
  | .mldStart _ => []
  | .tileWordComplete _ => []
  | .mstStart _ => []
  | .mstCaptureEnd _ => []
  | .epilogueStoreSector _ _ => []
  | .vrsetStart _ => []
  | .vractStart _ => []
  | .vrrunStart _ => []
  | .vrRowHandoff _ => []
  | .vrRowDone _ _ => []
  | .vrResultPerform _ _ => []
  | .barrierArrival _ => []
  | .barrierRelease _ _ => []
  | .joinHoldTimeout _ _ => []
  | .loopIteration _ => []
  | .ninthPathRelease _ _ => []
  | .groupEnd _ => []
  | .joinkAnswer _ => []
  | .reportDelivery _ => []
  | .landingNotice _ => []
  | .launchCheck _ => []
  | .priorityAging _ => []
  | .teamPlace _ => []
  | .coreHot _ _ => []
  | .coreCool _ _ => []
  | .droopEvent _ => []
  | .avoidExpiry _ => []
  | .schedCtlWrite _ _ => []
  | .preempt _ => []
  | .groupEvict _ => []
  | .evictionSaveEnd _ => []
  | .groupReturn _ => []
  | .restoreEnd _ => []
  | .activeFill _ => []
  | .pendingExchange _ => []
  | .pathPromotion _ _ => []
  | .growEviction _ => []
  | .faultRetry _ _ => []
  | .faultKill _ _ => []
  | .haltLineArrival _ => []
  | .partitionKill _ _ => []
  | .vctlArm _ _ _ _ => []
  | .vctlDisarm _ _ _ _ => []
  | .stopArrival _ => []
  | .haltRequest _ _ => []
  | .haltAtRegion _ _ => []
  | .dumpRequest _ _ => []
  | .traceEnable _ _ => []
  | .traceDisable _ _ => []
  | .traceDrainEnd _ => []
  | .histClr _ => []
  | .dumpImageWritten _ => []
  | .dumpPeerAck _ => []
  | .hostWrite _ _ _ _ => []
  | .hostRead _ _ _ _ => []
  | .linkDown _ _ => []
  | .linkUp _ => []
  | .hqCtlWrite _ _ _ => []
  | .hqTailWrite _ _ _ => []
  | .hqNop _ _ => []
  | .hqLaunch _ _ => []
  | .hqSignal _ _ => []
  | .hqBadEntry _ _ => []
  | .privAreaWrite _ _ _ => []
  | .deviceReset _ _ => []
  | .selfTestEnd _ _ _ _ _ => []
  | .attGo _ _ => []
  | .attReportDone _ => []
  | .mctpAttestRequest _ _ => []
  | .pwrCtlWrite _ _ => []
  | .capEffect _ => []
  | .registerWrite _ _ _ _ => []
  | .softError _ _ _ _ _ => []
  | .rdctxCopyComplete _ => []
  | .wrctxWriteEnd _ => []
  | .coreCycle _ => []

/-- The bytes of an instruction in memory order. -/
def encodeBytes (i : Instr) : List Byte := (encode i).flatMap wordBytes

end Sys2Proof
end

