-- ==== Sys2Proof/Machine/Block.lean ====
section
/-! DEFINITION. Block-scaled formats (02 R21-R25) and the stochastic draw (02 R27, R28). -/

namespace Sys2Proof.Machine

/-- The draw of lane `l` for element `e` (02 R28). -/
def draw (seed scnt : Word) (l e : Nat) : Nat :=
  let x := seed ^^^ BitVec.ofNat 32 (l * 0x9E3779B9) ^^^ ((scnt + BitVec.ofNat 32 e) * 0x85EBCA6B)
  let x := x ^^^ (x >>> 16)
  let x := x * 0x7FEB352D
  let x := x ^^^ (x >>> 15)
  let x := x * 0x846CA68B
  (x ^^^ (x >>> 16)).toNat

/-- Magnitude bits of a ZB type (02 R22): ZB4 2, ZB6 4, ZB9 7. -/
def zbM (t : Nat) : Nat :=
  match t with
  | 14 => 2
  | 15 => 4
  | _ => 7

/-- Field words of a ZB type (10 R224). -/
def zbWords (t : Nat) : Nat :=
  match t with
  | 14 => 2
  | 15 => 3
  | _ => 4

/-- Magnitude and exponent of a finite value; 0 for anything else. -/
def magOf : FVal → Nat × Int
  | .fin _ m e => (m, e)
  | _ => (0, 0)

/-- The larger of two magnitudes m x 2^e. -/
def magMax (a b : Nat × Int) : Nat × Int :=
  if a.1 = 0 then b else if b.1 = 0 then a else
  let g := min a.2 b.2
  if a.1 * 2 ^ (a.2 - g).toNat < b.1 * 2 ^ (b.2 - g).toNat then b else a

/-- The largest finite magnitude of a block; 0 where no value is finite and non-zero. -/
def amaxOf (vs : List FVal) : Nat × Int := vs.foldl (fun a v => magMax a (magOf v)) (0, 0)

/-- A magnitude in units of 2^q, rounded under a mode (02 R24: the rounded quotient of the magnitude by its unit). -/
def magUnits (mode u : Nat) (a : Nat × Int) (q : Int) : Nat × Bool :=
  if a.1 = 0 then (0, false) else roundUnits mode false u a.1 a.2 q

/-- The smallest E, counting up from `e`, for which amax in its unit fits (02 R24 step 2); the fuel ends at 254. -/
def zbFindE (mode m : Nat) (amax : Nat × Int) : Nat → Nat → Nat
  | 0, e => e
  | n + 1, e =>
    if (magUnits mode 0 amax ((e : Int) - 127 - ((m : Int) - 1))).1 ≤ 2 ^ m - 1 then e else zbFindE mode m amax n (e + 1)

/-- A start for the search: below it amax spans too many bits to fit. -/
def zbStart (m : Nat) (amax : Nat × Int) : Nat :=
  ((Nat.log2 amax.1 : Int) + amax.2 + 127 - 2).toNat - (if m = 0 then 1 else 0)

/-- The mode that chooses E and the micro-exponents: nearest even under stochastic rounding (10 R224). -/
def scaleMode (mode : Nat) : Nat := if mode = 5 then 0 else mode

/-- The scale word of a block of 16 values (02 R24 steps 1-3). -/
def zbScale (t mode : Nat) (vs : List FVal) : Nat × List Bool :=
  let m := zbM t
  let md := scaleMode mode
  let amax := amaxOf vs
  let e := if amax.1 = 0 then 127
    else let st := min (zbStart m amax) 254
      zbFindE md m amax (254 - st) st
  let fits (v : FVal) : Bool :=
    match v with
    | .fin .. => decide ((magUnits md 0 (magOf v) ((e : Int) - 128 - ((m : Int) - 1))).1 ≤ 2 ^ m - 1)
    | _ => false
  let mus := (chunks 2 8 vs).map fun p => p.all fits
  (e, mus)

/-- One element of a ZB block: its code and its own flags (02 R24 step 4). -/
def zbElem (t mode u e : Nat) (mu : Bool) (v : FVal) : Nat × Flags :=
  let m := zbM t
  match v with
  | .nan => (0, 0)
  | .inf s => (b2n s * 2 ^ m + (2 ^ m - 1), flSat)
  | .fin s k x =>
    let (n, inx) := magUnits mode u (k, x) ((e : Int) - 127 - b2n mu - ((m : Int) - 1))
    let clamp := decide (2 ^ m - 1 < n)
    let n' := min n (2 ^ m - 1)
    (b2n s * 2 ^ m + n', flIf clamp flSat ||| flIf (inx || clamp) flInexact ||| flIf (k ≠ 0 && n' = 0) flUnder)

/-- Convert 16 values, each with its draw, to a ZB block: scale word, codes, and each element's flags (02 R24). -/
def zbPack (t mode : Nat) (vs : List (FVal × Nat)) : Nat × List (Nat × Flags) :=
  let vals := vs.map (·.1)
  if vals.any FVal.isNan then (0xFF00, vs.map fun _ => (0, flNanIn))
  else
    let (e, mus) := zbScale t mode vals
    let mu := (mus.zipIdx.map fun (b, j) => b2n b * 2 ^ j).foldl (· + ·) 0
    (e * 256 + mu, vs.zipIdx.map fun ((v, u), i) => zbElem t mode u e (mus.getD (i / 2) false) v)

/-- The codes of a block packed little-endian (02 R23), as a number. -/
def zbField (t : Nat) (codes : List Nat) : Nat :=
  (codes.zipIdx.map fun (c, i) => c * 2 ^ ((zbM t + 1) * i)).foldl (· + ·) 0

/-- The value of code `i` of a ZB field under a scale word (02 R22). -/
def zbValue (t field i scale : Nat) : FVal :=
  let m := zbM t
  let e := bits scale 8 8
  let code := bits field ((m + 1) * i) (m + 1)
  if e = 255 then .nan
  else .fin (nbit code m) (bits code 0 m) ((e : Int) - 127 - bits scale (i / 2) 1 - ((m : Int) - 1))

/-- The greatest element exponent of an MX element type (02 R25). -/
def mxEmax (t : Nat) : Int := if t = 13 then 2 else 8

/-- Bits of an MX element code. -/
def mxBits (t : Nat) : Nat := if t = 13 then 4 else 8

/-- Convert 32 values, each with its draw, to an MX block: scale byte, codes, each element's flags (02 R25). -/
def mxPack (t mode : Nat) (vs : List (FVal × Nat)) : Nat × List (Nat × Flags) :=
  let vals := vs.map (·.1)
  if vals.any FVal.isNan then (0xFF, vs.map fun _ => (0, flNanIn))
  else
    let amax := amaxOf vals
    let x : Int := if amax.1 = 0 then -127
      else max (-127) (min 127 ((Nat.log2 amax.1 : Int) + amax.2 - mxEmax t))
    ((x + 127).toNat, vs.map fun (v, u) => fDeliver t mode u false (match v with
      | .fin s m e => .fin s m (e - x)
      | w => w))

/-- The value of an MX element under a scale byte (02 R21). -/
def mxValue (t code scale : Nat) : FVal :=
  if scale = 255 then .nan
  else match fDecode t code with
    | .fin s m e => .fin s m (e + (scale : Int) - 127)
    | w => w

/-- The codes of an MX block packed little-endian (02 R21), as a number. -/
def mxField (t : Nat) (codes : List Nat) : Nat :=
  (codes.zipIdx.map fun (c, i) => c * 2 ^ (mxBits t * i)).foldl (· + ·) 0

end Sys2Proof.Machine
end

