-- ==== Sys2Proof/Machine/Special.lean ====
section
/-! DEFINITION. The special functions (10 R227, R228): exact argument reduction and fixed-point series with far more bits than
FP32 holds, rounded once to nearest even (log 13, DESIGN CHOICE). -/

namespace Sys2Proof.Machine

/-- Fraction bits of the fixed-point work. -/
def fixP : Nat := 640

/-- pi in units of 2^-640, truncated. -/
def piFix : Nat := 0x3243f6a8885a308d313198a2e03707344a4093822299f31d0082efa98ec4e6c89452821e638d01377be5466cf34e90c6cc0ac29b7c97c50dd3f84d5b5b54709179216d5d98979fb1bd1310ba698dfb5ac

/-- ln 2 in units of 2^-640, truncated. -/
def ln2Fix : Nat := 0xb17217f7d1cf79abc9e3b39803f2f6af40f343267298b62d8a0d175b8baafa2be7b876206debac98559552fb4afa1b10ed2eae35c138214427573b291169b8253e96ca16224ae8c51acbda11317c387e

/-- The integer square root by Newton's steps from above; the fuel covers every operand used. -/
def isqrtStep (n : Nat) : Nat → Nat → Nat
  | 0, x => x
  | f + 1, x =>
    let y := (x + n / x) / 2
    if y < x then isqrtStep n f y else x

/-- The greatest r with r x r at most n. -/
def isqrt (n : Nat) : Nat := if n = 0 then 0 else isqrtStep n 1000 (2 ^ (Nat.log2 n / 2 + 1))

/-- The Taylor terms of exp at r (units of 2^-640): k is the next index, t the last term. -/
def expTerms (r : Nat) : Nat → Nat → Nat → Nat
  | 0, _, _ => 0
  | f + 1, k, t => if t = 0 then 0 else t + expTerms r f (k + 1) (t * r / 2 ^ fixP / k)

/-- exp of r, with 0 at most r below 1, in units of 2^-640. -/
def expFix (r : Nat) : Nat := expTerms r 200 1 (2 ^ fixP)

/-- Alternating Taylor terms in steps of two (sine from t = r, k = 2; cosine from t = 1, k = 1), split into sums of even and odd
places so that both stay natural numbers. -/
def trigTerms (r2 : Nat) : Nat → Nat → Nat → Nat × Nat
  | 0, _, _ => (0, 0)
  | f + 1, k, t =>
    if t = 0 then (0, 0) else
    let (p, m) := trigTerms r2 f (k + 2) (t * r2 / 2 ^ fixP / (k * (k + 1)))
    (t + m, p)

/-- sin of r (units of 2^-640, at most pi / 4). -/
def sinFix (r : Nat) : Nat :=
  let (p, m) := trigTerms (r * r / 2 ^ fixP) 200 2 r
  p - m

/-- cos of r (units of 2^-640, at most pi / 4). -/
def cosFix (r : Nat) : Nat :=
  let (p, m) := trigTerms (r * r / 2 ^ fixP) 200 1 (2 ^ fixP)
  p - m

/-- Bits of log2 of y (units of 2^-640, from 1 to below 2), the first `n` of them, by squaring. -/
def log2Bits : Nat → Nat → Nat → Nat
  | 0, _, acc => acc
  | n + 1, y, acc =>
    let y2 := y * y / 2 ^ fixP
    if 2 ^ (fixP + 1) ≤ y2 then log2Bits n (y2 / 2) (2 * acc + 1) else log2Bits n y2 (2 * acc)

/-- A result with its flags: the exact value m x 2^e rounded once, `more` marking a value that is no dyadic number. -/
def spRound (neg : Bool) (m : Nat) (e : Int) (more : Bool) : Nat × Flags := fRound 8 0 0 false neg m e more

/-- A quotient of naturals as a rounded result; the last bit is sticky. -/
def spQuot (neg : Bool) (num den : Nat) (e : Int) : Nat × Flags :=
  spRound neg (2 * (num / den) + b2n (num % den ≠ 0)) (e - 1) false

/-- The square root of n x 2^(2h) as a rounded result; the last bit is sticky. -/
def spSqrt (n : Nat) (h : Int) : Nat × Flags :=
  let r := isqrt n
  spRound false (2 * r + b2n (r * r ≠ n)) (h - 1) false

/-- 2^x for finite x. -/
def spEx2 (neg : Bool) (m : Nat) (e : Int) : Nat × Flags :=
  let big := decide (8 ≤ (Nat.log2 m : Int) + e)
  if m = 0 then (0x3F800000, 0)
  else if big then (if neg then spRound false 1 (-400) true else spRound false 1 400 true)
  else
    let x := m * 2 ^ (e + fixP).toNat
    let k := x / 2 ^ fixP
    let f := x % 2 ^ fixP
    if f = 0 then spRound false 1 (if neg then -(k : Int) else k) false
    else if neg then spRound false (expFix ((2 ^ fixP - f) * ln2Fix / 2 ^ fixP)) (-(k : Int) - 1 - fixP) true
    else spRound false (expFix (f * ln2Fix / 2 ^ fixP)) ((k : Int) - fixP) true

/-- log2 x for finite x above zero. -/
def spLg2 (m : Nat) (e : Int) : Nat × Flags :=
  let l := Nat.log2 m
  let ex : Int := l + e
  let y := m * 2 ^ (fixP - l)
  if y = 2 ^ fixP then spRound (ex < 0) ex.natAbs 0 false
  else
    let v : Int := ex * 2 ^ 320 + log2Bits 320 y 0
    spRound (v < 0) v.natAbs (-320) true

/-- sin or cos of a finite value: the argument reduced to the nearest multiple of pi / 2. -/
def spTrig (cos neg : Bool) (m : Nat) (e : Int) : Nat × Flags :=
  if m = 0 then (if cos then (0x3F800000, 0) else (withSign 8 neg 0, 0))
  else
    let x := m * 2 ^ (e + fixP).toNat
    let h := piFix / 2
    let k := (2 * x + h) / piFix
    let t := k * piFix / 2
    let rneg := decide (x < t)
    let r := if rneg then t - x else x - t
    let q := (if cos then k + 1 else k) % 4
    let useCos := q % 2 = 1
    let mag := if useCos then cosFix r else sinFix r
    let sgn := (decide (2 ≤ q)) != (if useCos then false else rneg)
    spRound (if cos then sgn else sgn != neg) mag (-(fixP : Int)) true

/-- exp of y (units of 2^-640): mantissa in the same units and a power of two. -/
def expAny (y : Nat) : Nat × Nat := (expFix (y % ln2Fix), y / ln2Fix)

/-- tanh of a finite value. -/
def spTanh (neg : Bool) (m : Nat) (e : Int) : Nat × Flags :=
  if m = 0 then (withSign 8 neg 0, 0)
  else if 5 ≤ (Nat.log2 m : Int) + e then spRound neg (2 ^ 64 - 1) (-64) true
  else
    let (g, k) := expAny (2 * m * 2 ^ (e + fixP).toNat)
    let ex := g * 2 ^ k
    spRound neg ((ex - 2 ^ fixP) * 2 ^ fixP / (ex + 2 ^ fixP)) (-(fixP : Int)) true

/-- A special function by its opcode 0x40-0x47 (10 Tables 10-10, 10-11), on a FP32 code already flushed. -/
def special (opc code : Nat) : Nat × Flags :=
  let nan : Nat := 0x7FC00000
  let inf : Nat := 0x7F800000
  match fDecode 8 code with
  | .nan => (nan, flNanIn)
  | .inf s =>
    match opc with
    | 0x40 => (withSign 8 s 0, 0)
    | 0x41 => if s then (nan, flInvalid) else (0, 0)
    | 0x42 => if s then (nan, flInvalid) else (inf, 0)
    | 0x43 => if s then (0, 0) else (inf, 0)
    | 0x44 => if s then (nan, flInvalid) else (inf, 0)
    | 0x45 | 0x46 => (nan, flInvalid)
    | _ => (withSign 8 s 0x3F800000, 0)
  | .fin s m e =>
    match opc with
    | 0x40 => if m = 0 then (withSign 8 s inf, flDivZ) else spQuot s (2 ^ 640) m (-e - 640)
    | 0x41 =>
      if m = 0 then (withSign 8 s inf, flDivZ)
      else if s then (nan, flInvalid)
      else
        let odd := e % 2 ≠ 0
        let mm := if odd then 2 * m else m
        let ee := if odd then e - 1 else e
        let r := isqrt (2 ^ 640 / mm)
        spRound false (2 * r + b2n (r * r * mm ≠ 2 ^ 640)) (-(ee / 2) - 320 - 1) false
    | 0x42 =>
      if m = 0 then (withSign 8 s 0, 0)
      else if s then (nan, flInvalid)
      else
        let odd := e % 2 ≠ 0
        let mm := if odd then 2 * m else m
        let ee := if odd then e - 1 else e
        spSqrt (mm * 2 ^ 128) (ee / 2 - 64)
    | 0x43 => spEx2 s m e
    | 0x44 =>
      if m = 0 then (withSign 8 true inf, flDivZ)
      else if s then (nan, flInvalid)
      else spLg2 m e
    | 0x45 => spTrig false s m e
    | 0x46 => spTrig true s m e
    | _ => spTanh s m e

end Sys2Proof.Machine
end

