-- ==== Sys2Proof/Machine/Operands.lean ====
section
/-! DEFINITION. Operand positions (06 R107-R116), the defects of a word (06 R134), and the write-back every word shares: destination,
latch, flags, and the path's step to its next word (06 R110, R126; 10 R205-R208). -/

namespace Sys2Proof.Machine

/-- The word being issued: the state, its context and path, and whether it is the word of issue position 1. -/
structure Env where
  s : State
  cid : Nat
  c : Ctx
  e : Nat
  p : Path
  second : Bool

/-- The issuer under the cursor: a valid path with a clause. -/
def State.issuer (s : State) : Option Env :=
  match s.ctx? s.cursor.ctx with
  | none => none
  | some c =>
    let p := c.path s.cursor.entry
    if p.v && p.clause.isSome then some ⟨s, s.cursor.ctx, c, s.cursor.entry, p, s.cursor.second⟩ else none

/-- Run a word for its issuer; with none the model stops (no run comes here). -/
def withIssuer (s : State) (k : Env → State) : Out :=
  match s.issuer with
  | none => .fault .noIssuer
  | some e => .next (k e)

/-- Cycle counter of the issuer's core. -/
def Env.now (e : Env) : Nat := e.s.now e.c.gc

/-- Lanes a word without a predicate acts in (10 R205, 13 R290). -/
def Env.lanes (e : Env) : Mask := e.c.pathLanes e.e

/-- A predicate as a lane mask; p0 is true (06 R109). -/
def Ctx.pred (c : Ctx) (k : Nat) : Mask := if k = 0 then BitVec.allOnes 64 else mget c.preds k 0

/-- ACTIVE of a format A word: the lanes in which its predicate, after PNEG, is true (06 R126, 10 R205). -/
def Env.active (e : Env) (f : FmtA) : Mask :=
  let q := e.c.pred f.p.toNat
  e.lanes &&& (if f.g then ~~~q else q)

/-- A vector register of a lane. -/
def Ctx.v (c : Ctx) (r l : Nat) : Word := mget c.vregs (r * 64 + l) 0

/-- A scalar register. -/
def Ctx.sreg (c : Ctx) (k : Nat) : Word := mget c.sregs k 0

/-- A scalar as the word reads it: in the second word of a cycle the value from before the first (10 R210). -/
def Env.sreg (e : Env) (k : Nat) : Word := if e.second then mget e.c.sPrev k 0 else e.c.sreg k

/-- Operand positions: 32-bit and 64-bit integers, FP32, packed 16-bit of a type, four bytes of a floating or an integer type. -/
inductive Pos where
  | i32
  | i64
  | f32
  | p16 (t : Nat)
  | f8 (t : Nat)
  | i8 (t : Nat)
  deriving DecidableEq, Repr

/-- FP32 bits of a constant (06 Table 6-4). -/
def constF (code : Nat) : Nat :=
  match code with
  | 104 => 0
  | 105 => 0x3F800000
  | 106 => 0xBF800000
  | 107 => 0x40000000
  | 108 => 0x3F000000
  | 109 => 0x7F800000
  | 110 => 0xFF800000
  | _ => 0x7FC00000

/-- Integer reading of a constant. -/
def constI (code : Nat) : Nat :=
  match code with
  | 104 => 0
  | 105 => 1
  | 106 => 0xFFFFFFFF
  | 107 => 2
  | 108 => 16
  | 109 => 0x7FFFFFFF
  | 110 => 0x80000000
  | _ => 0xFFFFFFFF

/-- 64-bit integer reading of a constant (06 R114). -/
def constI64 (code : Nat) : Nat :=
  match code with
  | 109 => 0x7FFFFFFFFFFFFFFF
  | 110 => 0x8000000000000000
  | 111 => 0xFFFFFFFFFFFFFFFF
  | _ => wrap 64 (sint 32 (constI code))

/-- The same byte in every byte of a word. -/
def fourBytes (b : Nat) : Nat := b * 0x01010101

/-- A constant in the type of its position (06 R114). An integer constant is clamped from its signed reading, whatever the type (log 94,
DEDUCED). -/
def constVal (p : Pos) (code : Nat) : Nat :=
  match p with
  | .i32 => constI code
  | .i64 => constI64 code
  | .f32 => constF code
  | .p16 t => (fDeliver t 0 0 false (fDecode 8 (constF code))).1 * 0x10001
  | .f8 t => fourBytes (fDeliver t 0 0 false (fDecode 8 (constF code))).1
  | .i8 t => fourBytes (wrap 8 (clampInt t (sint 32 (constI code))).1)

/-- Is the position 64 bits wide? -/
def Pos.wide : Pos → Bool
  | .i64 => true
  | _ => false

/-- A special at issue (06 Table 6-5), in full. -/
def Env.special (e : Env) (code l : Nat) : Nat :=
  match code with
  | 112 => l
  | 113 => e.c.gidx
  | 114 => e.c.width
  | 115 => ((e.s.team? e.c.team).map (·.lin)).getD 0 % 2 ^ 32
  | 116 => e.c.gidx % 4
  | 117 => e.p.mask.toNat
  | 118 => gsOf e.c.gc % 16
  | _ => e.now % 2 ^ 32

/-- Latch Lk of the path. -/
def Env.latch (e : Env) (k : Nat) : Option Latch := (e.p.latches.getD (k - 1) none)

/-- A latch's value for a lane; a scalar result is every lane's. -/
def Latch.read (t : Latch) (l : Nat) : Nat := (mget t.vals (if t.scalar then 0 else l) 0).toNat

/-- Registers at or above the allocation (06 R107). -/
def Ctx.unalloc (c : Ctx) (r : Nat) : Bool := decide (8 * c.walloc ≤ r)

/-- Defects of a vector source (06 R107, R108, R110, R113, R116): fault codes. -/
def Env.srcDefects (e : Env) (p : Pos) (code : Nat) : List Nat :=
  if code < 64 then
    (if p.wide && code % 2 = 1 then [2] else []) ++
      (if e.c.unalloc code || (p.wide && e.c.unalloc (code + 1)) then [4] else [])
  else if code < 96 then (if p.wide && code % 2 = 1 then [2] else [])
  else if code < 104 then
    match e.latch (code - 95) with
    | none => [5]
    | some t => if p.wide && !t.wide then [5] else []
  else if code < 120 then []
  else [2]

/-- Defects of a scalar source (06 R110, R116). -/
def Env.scalarDefects (e : Env) (p : Pos) (code : Nat) : List Nat :=
  if code < 64 || code = 112 || 120 ≤ code then [2]
  else if 96 ≤ code && code < 104 then
    match e.latch (code - 95) with
    | none => [5]
    | some t => if !t.scalar then [2] else if p.wide && !t.wide then [5] else []
  else if code < 96 && p.wide && code % 2 = 1 then [2]
  else []

/-- The value of a source in a lane, after the checks. -/
def Env.read (e : Env) (p : Pos) (code l : Nat) : Nat :=
  let x :=
    if code < 64 then
      if p.wide then (e.c.v code l).toNat + (e.c.v (code + 1) l).toNat * 2 ^ 32 else (e.c.v code l).toNat
    else if code < 96 then
      if p.wide then (e.sreg (code - 64)).toNat + (e.sreg (code - 63)).toNat * 2 ^ 32 else (e.sreg (code - 64)).toNat
    else if code < 104 then ((e.latch (code - 95)).map (·.read l)).getD 0
    else if code < 112 then constVal p code
    else e.special code l
  if p.wide then x % 2 ^ 64 else x % 2 ^ 32

/-- Vector registers a source names, for the dead-register check (07 R143). -/
def srcRegs (p : Pos) (code : Nat) : List Nat :=
  if code < 64 then (if p.wide then [code, code + 1] else [code]) else []

/-- Defects of a vector destination. -/
def Env.dstDefects (e : Env) (wide : Bool) (d : Nat) : List Nat :=
  (if wide && d % 2 = 1 then [2] else []) ++ (if e.c.unalloc d || (wide && e.c.unalloc (d + 1)) then [4] else [])

/-- Defects of a predicate, scalar or accumulator destination (06 R116). -/
def rangeDefects (d limit : Nat) : List Nat := if d < limit then [] else [2]

/-- The first defect in the order of Table 6-17, which is the order of the codes. -/
def firstDefect (ds : List Nat) : Option Nat := ds.min?

/-! ## The step to the next word -/

/-- A word has issued: the path takes `n` words off its clause, its latch moves in, and with the last word it reaches the next header
(06 R110, R119), where it goes on or begins to wait as `w` says. Code that runs past offset 0xFFFF_FFFF goes on above it (log 97, DESIGN
CHOICE). -/
def Ctx.advanceTo (c : Ctx) (e n now : Nat) (latch : Option Latch) (w : Wait) : Ctx :=
  let p := c.path e
  match p.clause with
  | none => c
  | some k =>
    let k' := { k with words := k.words.drop n, wait := 0 }
    let p := { p with clause := some k', pc := p.pc + 4 * n, latches := (latch :: p.latches).take 8, lastIssue := now, wait := w }
    let c := { c.setPath e p with lastIssue := now }
    if k'.words.isEmpty then (c.fallTo e p.pc now).settle else c

/-- A word has issued, and its path goes on. -/
def Ctx.advance (c : Ctx) (e n now : Nat) (latch : Option Latch) : Ctx := c.advanceTo e n now latch (c.path e).wait

/-- The group stops before a word that reads a dead register (07 R143): code 0x80, DEAD, AUX the register. -/
def Env.stopDead (e : Env) (reg : Nat) : State :=
  let (ev, s) := e.s.fresh
  let c := { e.c with atWord := some e.e }
  (s.setCtx e.cid c).stopGroup e.cid ev 0x80 { groupRec s c e.e 0x80 with dead := true, aux := reg }

/-- The first register among those read that carries a dead mark in a lane of the word. -/
def Env.deadReg (e : Env) (act : Mask) (regs : List Nat) : Option Nat :=
  if e.c.debug && !e.c.dead.isEmpty then
    regs.find? fun r => (lanesOf act).any fun l => mget e.c.dead (r * 64 + l) false
  else none

/-- A precise fault of the word under issue (06 R134, 15 R330): the earlier words stand, the word has no effect. -/
def Env.fault (e : Env) (code : Nat) (lanes : Mask) : State :=
  e.s.takeTrap e.cid e.e e.p.nextHeader (plainReport code e.p.pc lanes)

/-- Check a word, then run it: its first defect is a precise fault; a dead register read stops the group; else `body`. -/
def Env.checked (e : Env) (act : Mask) (ds regs : List Nat) (body : State) : State :=
  match firstDefect ds with
  | some code => e.fault code e.lanes
  | none =>
    match e.deadReg act regs with
    | some r => e.stopDead r
    | none => body

/-- Write one lane of a vector destination; writing clears its dead mark. -/
def Ctx.setV (c : Ctx) (r l v : Nat) : Ctx :=
  { c with
    vregs := mset c.vregs (r * 64 + l) (BitVec.ofNat 32 v) 0
    dead := if c.dead.isEmpty then c.dead else mset c.dead (r * 64 + l) false false }

/-- Write a 32-bit or 64-bit value of a lane. -/
def Ctx.setVW (c : Ctx) (wide : Bool) (r l v : Nat) : Ctx :=
  let c := c.setV r l v
  if wide then c.setV (r + 1) l (v / 2 ^ 32) else c

/-- Write the value of every lane of a list. -/
def Ctx.writeV (c : Ctx) (wide : Bool) (d : Nat) (rs : List (Nat × Nat)) : Ctx :=
  rs.foldl (fun c lv => c.setVW wide d lv.1 lv.2) c

/-- OR the flags of every lane into FSTAT. -/
def Ctx.orFlags (c : Ctx) (fs : List (Nat × Flags)) : Ctx :=
  { c with fstat := fs.foldl (fun m lf => mset m lf.1 (mget m lf.1 0 ||| lf.2) 0) c.fstat }

/-- Show the flags of every lane to the core's exception predicates. -/
def State.watchAll (s : State) (cid e : Nat) (fs : List (Nat × Flags)) : State :=
  fs.foldl (fun s lf => s.watchFlags cid e lf.1 lf.2) s

/-- The latch of a vector result (06 R110): active lanes hold the result; another lane of the path holds the destination's unchanged
value, or zero with NWB. -/
def vecLatch (c : Ctx) (wide n : Bool) (d : Nat) (path act : Mask) (rs : List (Nat × Nat)) : Latch :=
  let others := lanesOf (path &&& ~~~act)
  let old (l : Nat) : Nat := if n then 0 else (c.v d l).toNat + (if wide then (c.v (d + 1) l).toNat * 2 ^ 32 else 0)
  let m := rs.foldl (fun m lv => mset m lv.1 (BitVec.ofNat 64 lv.2) 0) ([] : Map (BitVec 64))
  ⟨wide, false, others.foldl (fun m l => mset m l (BitVec.ofNat 64 (old l)) 0) m⟩

/-- Write back a vector result: registers unless NWB, flags, draws counted, latch, next word. -/
def Env.finishV (e : Env) (nw : Nat) (wide n : Bool) (d : Nat) (act : Mask) (draws : Nat) (rs : List (Nat × Nat × Flags)) : State :=
  let vs := rs.map fun r => (r.1, r.2.1)
  let fs := rs.map fun r => (r.1, r.2.2)
  let latch := vecLatch e.c wide n d e.lanes act vs
  let c := if n then e.c else e.c.writeV wide d vs
  let c := { c.orFlags fs with scnt := c.scnt + BitVec.ofNat 32 draws }
  (e.s.setCtx e.cid (c.advance e.e nw e.now (some latch))).watchAll e.cid e.e fs

/-- A word on each active lane alone: results of `f` written back. -/
def Env.perLane (e : Env) (nw : Nat) (wide n : Bool) (d : Nat) (act : Mask) (draws : Nat) (f : Nat → Nat × Flags) : State :=
  e.finishV nw wide n d act draws ((lanesOf act).map fun l => (l, f l))

/-- Write back a predicate result: one bit per active lane; a write of p0 is discarded, the latch still holds 1 or 0 (06 R109,
10 R207). -/
def Env.finishP (e : Env) (nw : Nat) (n : Bool) (d : Nat) (act : Mask) (rs : List (Nat × Bool × Flags)) : State :=
  let on := maskOf ((rs.filter fun r => r.2.1).map (·.1))
  let old := e.c.pred d
  let fs := rs.map fun r => (r.1, r.2.2)
  let vals := (lanesOf e.lanes).foldl (fun m l =>
    let b := if act.getLsbD l then on.getLsbD l else if n then false else old.getLsbD l
    mset m l (if b then 1 else 0) 0) ([] : Map (BitVec 64))
  let c := if n || d = 0 then e.c else { e.c with preds := mset e.c.preds d ((old &&& ~~~act) ||| on) 0 }
  let c := c.orFlags fs
  (e.s.setCtx e.cid (c.advance e.e nw e.now (some ⟨false, false, vals⟩))).watchAll e.cid e.e fs

/-- Write back a scalar result: the register unless NWB, the latch as a scalar result (10 R207). -/
def Env.finishS (e : Env) (nw : Nat) (n : Bool) (d v : Nat) : State :=
  let c := if n then e.c else { e.c with sregs := mset e.c.sregs d (BitVec.ofNat 32 v) 0 }
  e.s.setCtx e.cid (c.advance e.e nw e.now (some ⟨false, true, mset [] 0 (BitVec.ofNat 64 v) 0⟩))

/-- A word with no latch: the context `c` with the path one word on. -/
def Env.finish (e : Env) (c : Ctx) (nw : Nat) : State := e.s.setCtx e.cid (c.advance e.e nw e.now none)

/-- The lowest lane of a mask; 0 where it is empty. -/
def lowLane (m : Mask) : Nat := (lanesOf m).headD 0

/-- A scalar pair read as 64 bits (06 R108). -/
def Env.spair (e : Env) (k : Nat) : Nat := (e.sreg k).toNat + (e.sreg (k + 1)).toNat * 2 ^ 32

end Sys2Proof.Machine
end

