-- ==== Sys2Proof/Machine/Vector.lean ====
section
/-! DEFINITION. The shapes of the words that act on each active lane alone (10 R205-R208): one, two or three sources, a vector or a
predicate destination. -/

namespace Sys2Proof.Machine

/-- One source, one 32-bit result. -/
def wordV1 (f : FmtA) (p : Pos) (op : Nat → Nat × Flags) (s : State) : Out :=
  withIssuer s fun e =>
    let a := f.a.toNat
    let act := e.active f
    e.checked act (e.dstDefects false f.d.toNat ++ e.srcDefects p a) (srcRegs p a)
      (e.perLane 1 false f.n f.d.toNat act 0 fun l => op (e.read p a l))

/-- Two sources, one 32-bit result; `nw` words (two with an X word). -/
def wordV2 (f : FmtA) (nw : Nat) (p q : Pos) (op : Nat → Nat → Nat × Flags) (s : State) : Out :=
  withIssuer s fun e =>
    let a := f.a.toNat
    let b := f.b.toNat
    let act := e.active f
    e.checked act (e.dstDefects false f.d.toNat ++ e.srcDefects p a ++ e.srcDefects q b) (srcRegs p a ++ srcRegs q b)
      (e.perLane nw false f.n f.d.toNat act 0 fun l => op (e.read p a l) (e.read q b l))

/-- Three sources with an X word; `wide` makes the result a pair. -/
def wordV3 (f : FmtA) (x : FmtX) (wide : Bool) (p q r : Pos) (op : Nat → Nat → Nat → Nat × Flags) (s : State) : Out :=
  withIssuer s fun e =>
    let a := f.a.toNat
    let b := f.b.toNat
    let c := x.sc.toNat
    let act := e.active f
    e.checked act (e.dstDefects wide f.d.toNat ++ e.srcDefects p a ++ e.srcDefects q b ++ e.srcDefects r c)
      (srcRegs p a ++ srcRegs q b ++ srcRegs r c)
      (e.perLane 2 wide f.n f.d.toNat act 0 fun l => op (e.read p a l) (e.read q b l) (e.read r c l))

/-- Two sources with an X word, one predicate bit per lane. -/
def wordP2 (f : FmtA) (p : Pos) (op : Nat → Nat → Bool × Flags) (s : State) : Out :=
  withIssuer s fun e =>
    let a := f.a.toNat
    let b := f.b.toNat
    let act := e.active f
    e.checked act (rangeDefects f.d.toNat 8 ++ e.srcDefects p a ++ e.srcDefects p b) (srcRegs p a ++ srcRegs p b)
      (e.finishP 2 f.n f.d.toNat act ((lanesOf act).map fun l => (l, op (e.read p a l) (e.read p b l))))

/-- Is flush-to-zero on for the issuing group (02 R29)? -/
def ftzOf (s : State) : Bool :=
  match s.issuer with
  | some e => e.c.ftz
  | none => false

end Sys2Proof.Machine
end

