-- ==== Sys2Proof/Machine/Fp.lean ====
section
/-! DEFINITION. FP32 words, packed 16-bit words, conversions, block packing, dot words and special functions (10 R218-R228). -/

namespace Sys2Proof.Machine

/-- A FP32 operation under flush-to-zero: sources flushed, result flushed (02 R29). -/
def ftz2 (z : Bool) (op : Nat → Nat → Nat × Flags) (a b : Nat) : Nat × Flags := flushOut z (op (flushIn z a) (flushIn z b))

/-- FADD: one rounding to nearest even (10 Table 10-7). -/
def faddOp (a b : Nat) : Nat × Flags := fSum 8 0 0 false [.val (fDecode 8 a), .val (fDecode 8 b)]
/-- FMUL. -/
def fmulOp (a b : Nat) : Nat × Flags := fSum 8 0 0 false [fMulX (fDecode 8 a) (fDecode 8 b)]

/-- A fused product-sum in a type with one rounding (02 R37). -/
def fmaOp (t mode : Nat) (sat : Bool) (a b c : Nat) : Nat × Flags :=
  fSum t mode 0 sat [fMulX (fDecode t a) (fDecode t b), .val (fDecode t c)]

/-- FRND: the integral value under a mode; zero keeps the source's sign (10 R218). -/
def frndOp (mode a : Nat) : Nat × Flags :=
  match fDecode 8 a with
  | .nan => (fmtNan 8, flNanIn)
  | .inf s => (withSign 8 s 0x7F800000, 0)
  | .fin s m e =>
    let (n, _) := roundUnits mode s 0 m e 0
    ((fRound 8 0 0 false s n 0 false).1, 0)

/-- FSCALE: A x 2^B with B as s32; zero and infinity are delivered unchanged. -/
def fscaleOp (a b : Nat) : Nat × Flags :=
  match fDecode 8 a with
  | .nan => (fmtNan 8, flNanIn)
  | .inf s => (withSign 8 s 0x7F800000, 0)
  | .fin s m e => fRound 8 0 0 false s m (e + max (-600) (min 600 (sint 32 b))) false

/-- FCLASS: the one class bit of a code (10 Table 10-8). -/
def fclassOp (a : Nat) : Nat :=
  let neg := nbit a 31
  let ef := bits a 23 8
  let fr := bits a 0 23
  if ef = 255 then (if fr ≠ 0 then 256 else if neg then 1 else 128)
  else if ef = 0 then (if fr = 0 then (if neg then 8 else 16) else if neg then 4 else 32)
  else if neg then 2 else 64

def execFadd (f : FmtA) (s : State) : Out := wordV2 f 1 .f32 .f32 (ftz2 (ftzOf s) faddOp) s
def execFmul (f : FmtA) (s : State) : Out := wordV2 f 1 .f32 .f32 (ftz2 (ftzOf s) fmulOp) s

/-- FFMA: modifiers on the sign bits, RND, SAT (10 R218). -/
def execFfma (f : FmtA) (x : FmtX) (s : State) : Out :=
  let z := ftzOf s
  wordV3 f x false .f32 .f32 .f32 (fun a b c =>
    flushOut z (fmaOp 8 x.rnd.toNat x.sat (flushIn z (fMods 8 x.absa x.nega a)) (flushIn z (fMods 8 x.absb x.negb b))
      (flushIn z (fMods 8 x.absc x.negc c)))) s

def execFmin (f : FmtA) (s : State) : Out :=
  let z := ftzOf s
  wordV2 f 1 .f32 .f32 (fun a b => fMinMax 8 false (flushIn z a) (flushIn z b)) s
def execFmax (f : FmtA) (s : State) : Out :=
  let z := ftzOf s
  wordV2 f 1 .f32 .f32 (fun a b => fMinMax 8 true (flushIn z a) (flushIn z b)) s

/-- FSET (10 R219). -/
def execFset (f : FmtA) (x : FmtX) (s : State) : Out :=
  let z := ftzOf s
  wordP2 f .f32 (fun a b =>
    fCond 8 x.sub.toNat (flushIn z (fMods 8 x.absa x.nega a)) (flushIn z (fMods 8 x.absb x.negb b))) s

def execFclass (f : FmtA) (s : State) : Out := wordV1 f .f32 (fun a => (fclassOp a, 0)) s

/-- FRND (10 R218). -/
def execFrnd (f : FmtA) (x : FmtX) (s : State) : Out :=
  let z := ftzOf s
  withIssuer s fun e =>
    let a := f.a.toNat
    let act := e.active f
    e.checked act (e.dstDefects false f.d.toNat ++ e.srcDefects .f32 a) (srcRegs .f32 a)
      (e.perLane 2 false f.n f.d.toNat act 0 fun l =>
        frndOp x.rnd.toNat (flushIn z (fMods 8 x.absa x.nega (e.read .f32 a l))))

/-- FSCALE (10 R218): B is an integer. -/
def execFscale (f : FmtA) (s : State) : Out :=
  let z := ftzOf s
  wordV2 f 1 .f32 .i32 (fun a b => flushOut z (fscaleOp (flushIn z a) b)) s

/-- Both halves of a packed word (02 R17): results and their flags ORed. -/
def packed2 (op : Nat → Nat × Flags) : Nat × Flags :=
  let r0 := op 0
  let r1 := op 1
  (r0.1 + r1.1 * 2 ^ 16, r0.2 ||| r1.2)

/-- Element `i` of a packed word, with source modifiers on its sign (10 R221). -/
def half (t : Nat) (abs neg : Bool) (v i : Nat) : Nat := fMods t abs neg (bits v (16 * i) 16)

/-- DUADD on two packed words. -/
def duaddOp (x : FmtX) (a b : Nat) : Nat × Flags :=
  let t := x.ty.toNat
  packed2 fun i => fSum t x.rnd.toNat 0 x.sat
    [.val (fDecode t (half t x.absa x.nega a i)), .val (fDecode t (half t x.absb x.negb b i))]

/-- DUMUL. -/
def dumulOp (x : FmtX) (a b : Nat) : Nat × Flags :=
  let t := x.ty.toNat
  packed2 fun i => fSum t x.rnd.toNat 0 x.sat
    [fMulX (fDecode t (half t x.absa x.nega a i)) (fDecode t (half t x.absb x.negb b i))]

/-- DUFMA. -/
def dufmaOp (x : FmtX) (a b c : Nat) : Nat × Flags :=
  let t := x.ty.toNat
  packed2 fun i => fmaOp t x.rnd.toNat x.sat (half t x.absa x.nega a i) (half t x.absb x.negb b i) (half t x.absc x.negc c i)

/-- DUMIN and DUMAX. -/
def duminmaxOp (x : FmtX) (wantMax : Bool) (a b : Nat) : Nat × Flags :=
  let t := x.ty.toNat
  packed2 fun i => fMinMax t wantMax (half t x.absa x.nega a i) (half t x.absb x.negb b i)

def execDuadd (f : FmtA) (x : FmtX) (s : State) : Out := wordV2 f 2 (.p16 x.ty.toNat) (.p16 x.ty.toNat) (duaddOp x) s
def execDumul (f : FmtA) (x : FmtX) (s : State) : Out := wordV2 f 2 (.p16 x.ty.toNat) (.p16 x.ty.toNat) (dumulOp x) s
def execDufma (f : FmtA) (x : FmtX) (s : State) : Out :=
  wordV3 f x false (.p16 x.ty.toNat) (.p16 x.ty.toNat) (.p16 x.ty.toNat) (dufmaOp x) s
def execDumin (f : FmtA) (x : FmtX) (s : State) : Out := wordV2 f 2 (.p16 x.ty.toNat) (.p16 x.ty.toNat) (duminmaxOp x false) s
def execDumax (f : FmtA) (x : FmtX) (s : State) : Out := wordV2 f 2 (.p16 x.ty.toNat) (.p16 x.ty.toNat) (duminmaxOp x true) s

/-- DUSET (10 R222). -/
def dusetOp (x : FmtX) (a b : Nat) : Bool × Flags :=
  let t := x.ty.toNat
  let sub := x.sub.toNat
  let r (i : Nat) : Bool × Flags := fCond t (sub % 8) (half t x.absa x.nega a i) (half t x.absb x.negb b i)
  let p := match sub / 8 % 4 with
    | 0 => (r 0).1
    | 1 => (r 1).1
    | 2 => (r 0).1 && (r 1).1
    | _ => (r 0).1 || (r 1).1
  (p, (r 0).2 ||| (r 1).2)

def execDuset (f : FmtA) (x : FmtX) (s : State) : Out := wordP2 f (.p16 x.ty.toNat) (dusetOp x) s

/-- The position in which CVT reads a source type. -/
def cvtPos (t : Nat) : Pos :=
  match t with
  | 6 | 7 => .i64
  | 8 => .f32
  | 9 => .p16 9
  | 10 => .p16 10
  | 11 => .f8 11
  | 12 => .f8 12
  | _ => .i32

/-- A CVT source after its modifiers, in its own width (06 R128). -/
def cvtSrc (t : Nat) (abs neg : Bool) (v : Nat) : Nat :=
  let w := elemBits t
  if t < 8 then iMods t abs neg v else fMods t abs neg (v % 2 ^ w)

/-- CVT (10 R223): one or two conversions, packed by the destination's width; a stochastic one draws one element each. -/
def execCvt (f : FmtA) (x : FmtX) (s : State) : Out :=
  withIssuer s fun e =>
    let t := x.ty.toNat
    let src := x.sub.toNat % 32
    let hi := nbit x.sub.toNat 5
    let a := f.a.toNat
    let b := f.b.toNat
    let d := f.d.toNat
    let act := e.active f
    let p := cvtPos src
    let two := decide (elemBits t < 32)
    let wide := decide (elemBits t = 64)
    let draws := if x.rnd = 5 then (if two then 2 else 1) else 0
    let cv (l k v : Nat) (ab ng : Bool) : Nat × Flags :=
      convert t src (cvtSrc src ab ng v) x.rnd.toNat (draw e.c.seed e.c.scnt l k) x.sat
    e.checked act (e.dstDefects wide d ++ e.srcDefects p a ++ (if two then e.srcDefects p b else []))
      (srcRegs p a ++ (if two then srcRegs p b else []) ++ (if hi then [d] else []))
      (e.perLane 2 wide f.n d act draws fun l =>
        let ra := cv l 0 (e.read p a l) x.absa x.nega
        if !two then ra else
        let rb := cv l 1 (e.read p b l) x.absb x.negb
        let w := rb.1 * 2 ^ elemBits t + ra.1
        (if hi then w * 2 ^ 16 + (e.c.v d l).toNat % 2 ^ 16 else w, ra.2 ||| rb.2))

/-- The lanes of block `b`, `k` lanes each. -/
def blockLanes (k b : Nat) : List Nat := (List.range k).map (· + k * b)

/-- ZPK (10 R224): every block of 16 lanes becomes one ZB block, its field in the first lanes, its scale word in the last. -/
def execZpk (f : FmtA) (x : FmtX) (s : State) : Out :=
  withIssuer s fun e =>
    let t := x.ty.toNat
    let a := f.a.toNat
    let act := e.active f
    let w := zbWords t
    let draws := if x.rnd = 5 then 1 else 0
    let blk (b : Nat) : List (Nat × Nat × Flags) :=
      let vs := (blockLanes 16 b).map fun l =>
        (if act.getLsbD l then fDecode 8 (fMods 8 x.absa x.nega (e.read .f32 a l)) else .fin false 0 0, draw e.c.seed e.c.scnt l 0)
      let (sc, cs) := zbPack t x.rnd.toNat vs
      let fld := zbField t (cs.map (·.1))
      let sat := cs.any fun c => c.2 &&& flSat ≠ 0
      (List.range 16).map fun i =>
        let fl := (cs.getD i (0, 0)).2 ||| flIf sat flSat
        (16 * b + i, if i < w then bits fld (32 * i) 32 else if i = 15 then sc else 0, fl)
    e.checked act (e.dstDefects false f.d.toNat ++ e.srcDefects .f32 a) (srcRegs .f32 a)
      (e.finishV 2 false f.n f.d.toNat act draws
        (((List.range (e.c.width / 16)).flatMap blk).filter fun r => act.getLsbD r.1))

/-- A value delivered in FP32 without an X word's options. -/
def toF32 (sat : Bool) (v : FVal) : Nat × Flags := fDeliver 8 0 0 sat v

/-- ZUPK (10 R224): each lane's code of its block's field under the lane's own scale word. -/
def execZupk (f : FmtA) (x : FmtX) (s : State) : Out :=
  withIssuer s fun e =>
    let t := x.ty.toNat
    let a := f.a.toNat
    let b := f.b.toNat
    let act := e.active f
    let fld (blk : Nat) : Nat := ((List.range (zbWords t)).map fun w =>
      (if act.getLsbD (16 * blk + w) then e.read .i32 a (16 * blk + w) else 0) * 2 ^ (32 * w)).foldl (· + ·) 0
    e.checked act (e.dstDefects false f.d.toNat ++ e.srcDefects .i32 a ++ e.srcDefects .i32 b) (srcRegs .i32 a ++ srcRegs .i32 b)
      (e.perLane 2 false f.n f.d.toNat act 0 fun l => toF32 false (zbValue t (fld (l / 16)) (l % 16) (e.read .i32 b l)))

/-- MXPK (10 R225): blocks of 32 lanes; at width 16 it is illegal. -/
def execMxpk (f : FmtA) (x : FmtX) (s : State) : Out :=
  withIssuer s fun e =>
    let t := x.ty.toNat
    let a := f.a.toNat
    let act := e.active f
    let w := mxBits t
    let draws := if x.rnd = 5 then 1 else 0
    let blk (b : Nat) : List (Nat × Nat × Flags) :=
      let vs := (blockLanes 32 b).map fun l =>
        (if act.getLsbD l then fDecode 8 (fMods 8 x.absa x.nega (e.read .f32 a l)) else .fin false 0 0, draw e.c.seed e.c.scnt l 0)
      let (sc, cs) := mxPack t x.rnd.toNat vs
      let fld := mxField t (cs.map (·.1))
      let sat := cs.any fun c => c.2 &&& flSat ≠ 0
      (List.range 32).map fun i =>
        let fl := (cs.getD i (0, 0)).2 ||| flIf sat flSat
        (32 * b + i, if i < w then bits fld (32 * i) 32 else if i = 31 then sc else 0, fl)
    e.checked act ((if e.c.width = 16 then [1] else []) ++ e.dstDefects false f.d.toNat ++ e.srcDefects .f32 a) (srcRegs .f32 a)
      (e.finishV 2 false f.n f.d.toNat act draws
        (((List.range (e.c.width / 32)).flatMap blk).filter fun r => act.getLsbD r.1))

/-- MXUPK (10 R225). -/
def execMxupk (f : FmtA) (x : FmtX) (s : State) : Out :=
  withIssuer s fun e =>
    let t := x.ty.toNat
    let a := f.a.toNat
    let b := f.b.toNat
    let act := e.active f
    let w := mxBits t
    let fld (blk : Nat) : Nat := ((List.range w).map fun i =>
      (if act.getLsbD (32 * blk + i) then e.read .i32 a (32 * blk + i) else 0) * 2 ^ (32 * i)).foldl (· + ·) 0
    e.checked act ((if e.c.width = 16 then [1] else []) ++ e.dstDefects false f.d.toNat ++ e.srcDefects .i32 a ++ e.srcDefects .i32 b)
      (srcRegs .i32 a ++ srcRegs .i32 b)
      (e.perLane 2 false f.n f.d.toNat act 0 fun l =>
        toF32 x.sat (mxValue t (bits (fld (l / 32)) (w * (l % 32)) w) (e.read .i32 b l % 256)))

/-- FDOT4 (10 R226): the exact sum of four products and C, one rounding. -/
def fdot4Op (x : FmtX) (a b c : Nat) : Nat × Flags :=
  let t := x.ty.toNat
  fSum 8 x.rnd.toNat 0 x.sat (((List.range 4).map fun i =>
    fMulX (fDecode t (fMods t false x.nega (bits a (8 * i) 8))) (fDecode t (fMods t false x.negb (bits b (8 * i) 8)))) ++
      [.val (fDecode 8 (fMods 8 x.absc x.negc c))])

def execFdot4 (f : FmtA) (x : FmtX) (s : State) : Out := wordV3 f x false (.f8 x.ty.toNat) (.f8 x.ty.toNat) .f32 (fdot4Op x) s

/-- IDOT4 (10 R226). -/
def idot4Op (x : FmtX) (a b c : Nat) : Nat × Flags :=
  let t := x.ty.toNat
  let v := ((List.range 4).map fun i => intOf t (bits a (8 * i) 8) * intOf t (bits b (8 * i) 8)).foldl (· + ·) (sint 32 (iMods 0 x.absc x.negc c))
  let (y, out) := clampInt 0 v
  if x.sat then (wrap 32 y, flIf out flSat) else (wrap 32 v, flIf out flOver)

def execIdot4 (f : FmtA) (x : FmtX) (s : State) : Out := wordV3 f x false (.i8 x.ty.toNat) (.i8 x.ty.toNat) .i32 (idot4Op x) s

/-- A special function under flush-to-zero (10 R227). -/
def specialOp (z : Bool) (opc a : Nat) : Nat × Flags := flushOut z (special opc (flushIn z a))

def execRcp (f : FmtA) (s : State) : Out := wordV1 f .f32 (specialOp (ftzOf s) 0x40) s
def execRsq (f : FmtA) (s : State) : Out := wordV1 f .f32 (specialOp (ftzOf s) 0x41) s
def execSqrt (f : FmtA) (s : State) : Out := wordV1 f .f32 (specialOp (ftzOf s) 0x42) s
def execEx2 (f : FmtA) (s : State) : Out := wordV1 f .f32 (specialOp (ftzOf s) 0x43) s
def execLg2 (f : FmtA) (s : State) : Out := wordV1 f .f32 (specialOp (ftzOf s) 0x44) s
def execSin (f : FmtA) (s : State) : Out := wordV1 f .f32 (specialOp (ftzOf s) 0x45) s
def execCos (f : FmtA) (s : State) : Out := wordV1 f .f32 (specialOp (ftzOf s) 0x46) s
def execTanh (f : FmtA) (s : State) : Out := wordV1 f .f32 (specialOp (ftzOf s) 0x47) s

end Sys2Proof.Machine
end

