-- ==== Sys2Proof/Machine/Integer.lean ====
section
/-! DEFINITION. Integer and bit words, moves, selection and predicate words (10 R212-R217). -/

namespace Sys2Proof.Machine

/-- A result and OVER where the exact s32 value is out of range. -/
def over32 (x : Int) : Nat × Flags := (wrap 32 x, flIf (clampInt 0 x).2 flOver)

/-- IADD on two words (10 Table 10-3). -/
def iaddOp (a b : Nat) : Nat × Flags := over32 (sint 32 a + sint 32 b)
/-- ISUB. -/
def isubOp (a b : Nat) : Nat × Flags := over32 (sint 32 a - sint 32 b)
/-- IMUL. -/
def imulOp (a b : Nat) : Nat × Flags := over32 (sint 32 a * sint 32 b)
/-- SHL with the count as n32. -/
def shlOp (a b : Nat) : Nat := if b < 32 then a * 2 ^ b % 2 ^ 32 else 0
/-- SHR. -/
def shrOp (a b : Nat) : Nat := if b < 32 then a / 2 ^ b else 0
/-- SAR. -/
def sarOp (a b : Nat) : Nat := wrap 32 (sint 32 a / 2 ^ min b 31)
/-- ROTL. -/
def rotlOp (a b : Nat) : Nat := (a * 2 ^ (b % 32) + a / 2 ^ (32 - b % 32)) % 2 ^ 32
/-- Number of 1 bits among the low `n`. -/
def popCount (a : Nat) : Nat → Nat
  | 0 => 0
  | n + 1 => popCount a n + bits a n 1
/-- Leading zero bits of a 32-bit value. -/
def clzOp (a : Nat) : Nat := if a = 0 then 32 else 31 - Nat.log2 a
/-- Bits in reverse order. -/
def brevOp (a : Nat) : Nat := ((List.range 32).map fun i => bits a (31 - i) 1 * 2 ^ i).foldl (· + ·) 0

/-- BFX under the field control in B (10 R213). -/
def bfxOp (a b : Nat) : Nat :=
  let pos := bits b 0 5
  let len := min (bits b 8 6) 32
  let d := a / 2 ^ pos % 2 ^ len
  if nbit b 16 && len ≠ 0 then wrap 32 (sint len d) else d

/-- BFI under the field control in B (10 R213). -/
def bfiOp (a b c : Nat) : Nat :=
  let pos := bits b 0 5
  let len := min (bits b 8 6) 32
  let mask := (2 ^ len - 1) * 2 ^ pos % 2 ^ 32
  (c &&& (2 ^ 32 - 1 - mask)) ||| (a * 2 ^ pos % 2 ^ 32 &&& mask)

/-- A comparison under the codes of Table 10-4: 0-5 in the type, 6 and 7 unsigned in its width. -/
def intCond (t cond a b : Nat) : Bool :=
  let x := intOf t a
  let y := intOf t b
  match cond with
  | 0 => x = y
  | 1 => x ≠ y
  | 2 => x < y
  | 3 => y ≤ x
  | 4 => y < x
  | 5 => x ≤ y
  | 6 => a < b
  | _ => b ≤ a

/-- An integer source after its modifiers (06 R128). -/
def modA (x : FmtX) (v : Nat) : Nat := iMods x.ty.toNat x.absa x.nega v
def modB (x : FmtX) (v : Nat) : Nat := iMods x.ty.toNat x.absb x.negb v
def modC (x : FmtX) (v : Nat) : Nat := iMods x.ty.toNat x.absc x.negc v

/-- IMUL.H: bits [63:32] of the exact product. -/
def imulhOp (x : FmtX) (a b : Nat) : Nat :=
  let t := x.ty.toNat
  wrap 64 (intOf t (modA x a) * intOf t (modB x b)) / 2 ^ 32

/-- IMAD, wrapping or saturating (10 Table 10-3). -/
def imadOp (x : FmtX) (a b c : Nat) : Nat × Flags :=
  let t := x.ty.toNat
  let v := intOf t (modA x a) * intOf t (modB x b) + intOf t (modC x c)
  let (y, out) := clampInt t v
  if x.sat then (wrap 32 y, flIf out flSat) else (wrap 32 v, flIf out flOver)

/-- IMADW: a 64-bit product-sum. -/
def imadwOp (x : FmtX) (a b c : Nat) : Nat × Flags :=
  let t := x.ty.toNat
  let v := intOf t (modA x a) * intOf t (modB x b) + intOf (t + 6) c
  (wrap 64 v, flIf (clampInt (t + 6) v).2 flOver)

/-- IMIN and IMAX in TYPE. -/
def iminmaxOp (x : FmtX) (wantMax : Bool) (a b : Nat) : Nat :=
  let t := x.ty.toNat
  let p := modA x a
  let q := modB x b
  if (if wantMax then intOf t p < intOf t q else intOf t q < intOf t p) then q else p

def execIadd (f : FmtA) (s : State) : Out := wordV2 f 1 .i32 .i32 iaddOp s
def execIsub (f : FmtA) (s : State) : Out := wordV2 f 1 .i32 .i32 isubOp s
def execImul (f : FmtA) (s : State) : Out := wordV2 f 1 .i32 .i32 imulOp s
def execImulh (f : FmtA) (x : FmtX) (s : State) : Out := wordV2 f 2 .i32 .i32 (fun a b => (imulhOp x a b, 0)) s
def execImad (f : FmtA) (x : FmtX) (s : State) : Out := wordV3 f x false .i32 .i32 .i32 (imadOp x) s
def execImadw (f : FmtA) (x : FmtX) (s : State) : Out := wordV3 f x true .i32 .i32 .i64 (imadwOp x) s
def execImin (f : FmtA) (x : FmtX) (s : State) : Out := wordV2 f 2 .i32 .i32 (fun a b => (iminmaxOp x false a b, 0)) s
def execImax (f : FmtA) (x : FmtX) (s : State) : Out := wordV2 f 2 .i32 .i32 (fun a b => (iminmaxOp x true a b, 0)) s
def execIabs (f : FmtA) (s : State) : Out := wordV1 f .i32 (fun a => over32 |sint 32 a|) s
def execAnd (f : FmtA) (s : State) : Out := wordV2 f 1 .i32 .i32 (fun a b => (a &&& b, 0)) s
def execOr (f : FmtA) (s : State) : Out := wordV2 f 1 .i32 .i32 (fun a b => (a ||| b, 0)) s
def execXor (f : FmtA) (s : State) : Out := wordV2 f 1 .i32 .i32 (fun a b => (a ^^^ b, 0)) s
def execAndn (f : FmtA) (s : State) : Out := wordV2 f 1 .i32 .i32 (fun a b => (a &&& (2 ^ 32 - 1 - b), 0)) s
def execShl (f : FmtA) (s : State) : Out := wordV2 f 1 .i32 .i32 (fun a b => (shlOp a b, 0)) s
def execShr (f : FmtA) (s : State) : Out := wordV2 f 1 .i32 .i32 (fun a b => (shrOp a b, 0)) s
def execSar (f : FmtA) (s : State) : Out := wordV2 f 1 .i32 .i32 (fun a b => (sarOp a b, 0)) s
def execRotl (f : FmtA) (s : State) : Out := wordV2 f 1 .i32 .i32 (fun a b => (rotlOp a b, 0)) s
def execBfx (f : FmtA) (s : State) : Out := wordV2 f 1 .i32 .i32 (fun a b => (bfxOp a b, 0)) s
def execBfi (f : FmtA) (x : FmtX) (s : State) : Out := wordV3 f x false .i32 .i32 .i32 (fun a b c => (bfiOp a b c, 0)) s
def execPopc (f : FmtA) (s : State) : Out := wordV1 f .i32 (fun a => (popCount a 32, 0)) s
def execClz (f : FmtA) (s : State) : Out := wordV1 f .i32 (fun a => (clzOp a, 0)) s
def execBrev (f : FmtA) (s : State) : Out := wordV1 f .i32 (fun a => (brevOp a, 0)) s

/-- The type in which ISET reads its operands, modifiers included: TYPE, or for codes 6 and 7 the unsigned one of its width (10 R206, R214). -/
def isetType (x : FmtX) : Nat := if 6 ≤ x.sub.toNat then x.ty.toNat / 2 * 2 + 1 else x.ty.toNat

/-- ISET's comparison of two sources as read. -/
def isetOp (x : FmtX) (a b : Nat) : Bool :=
  let t := isetType x
  intCond t x.sub.toNat (iMods t x.absa x.nega a) (iMods t x.absb x.negb b)

/-- ISET (10 R214): TYPE 6 and 7 compare even pairs. -/
def execIset (f : FmtA) (x : FmtX) (s : State) : Out :=
  wordP2 f (if elemBits x.ty.toNat = 64 then .i64 else .i32) (fun a b => (isetOp x a b, 0)) s

/-- SEL (10 R216): the selector predicate stands in SUBOP. -/
def execSel (f : FmtA) (x : FmtX) (s : State) : Out :=
  withIssuer s fun e =>
    let a := f.a.toNat
    let b := f.b.toNat
    let act := e.active f
    let k := e.c.pred (x.sub.toNat % 8)
    let selp := if nbit x.sub.toNat 3 then ~~~k else k
    e.checked act (e.dstDefects false f.d.toNat ++ e.srcDefects .i32 a ++ e.srcDefects .i32 b) (srcRegs .i32 a ++ srcRegs .i32 b)
      (e.perLane 2 false f.n f.d.toNat act 0 fun l => (if selp.getLsbD l then e.read .i32 a l else e.read .i32 b l, 0))

def execMov (f : FmtA) (s : State) : Out := wordV1 f .i32 (fun a => (a, 0)) s

/-- MOVI: IMM18 sign-extended, in every lane of the path (10 R205). -/
def execMovi (f : FmtI) (s : State) : Out :=
  withIssuer s fun e =>
    e.checked e.lanes (e.dstDefects false f.d.toNat) []
      (e.perLane 1 false f.n f.d.toNat e.lanes 0 fun _ => (wrap 32 f.imm.toInt, 0))

/-- MOVI.H: IMM18 over the low 14 bits of D, which is read as a source. -/
def execMoviH (f : FmtI) (s : State) : Out :=
  withIssuer s fun e =>
    let d := f.d.toNat
    e.checked e.lanes (e.dstDefects false d) [d]
      (e.perLane 1 false f.n d e.lanes 0 fun l => ((f.imm.toNat * 2 ^ 14 + (e.c.v d l).toNat % 2 ^ 14) % 2 ^ 32, 0))

/-- Is a long-latency write of a register still under way: the access or the command that makes it (06 R122, R123)? -/
def State.outstanding (s : State) (r handle : Nat) : Bool :=
  (s.accs.any fun a => a.id = handle && a.lanes.any fun l => decide (l.reg ≤ r) && decide (r < l.reg + (l.n + 3) / 4)) ||
    s.cmds.any fun c => c.id = handle

/-- Registers with a long-latency write outstanding from the same clause (06 R123). -/
def Env.longDst (e : Env) : List Nat :=
  (((e.p.clause.map (·.longDst)).getD []).filter fun rh => e.s.outstanding rh.1 rh.2).map (·.1)

/-- The checks of a computed register index (06 R123, R134; 10 R215), after the word's illegal operands: a register the word `uses` that has
a long-latency write outstanding raises 0x03, one at or above the allocation 0x04, before an invalid latch that is not the index's own;
the report names the lanes that failed with the code (15 R329). -/
def Env.computed (e : Env) (static idxDefects : List Nat) (uses : Bool) (act : Mask) (idx : Nat → Nat) (body : State) : State :=
  let late := (lanesOf act).filter fun l => uses && e.longDst.contains (idx l)
  let high := (lanesOf act).filter fun l => e.c.unalloc (idx l)
  if static.contains 1 || static.contains 2 || ¬ idxDefects.isEmpty then body
  else if ¬ late.isEmpty then e.fault 3 (maskOf late)
  else if ¬ static.contains 4 ∧ ¬ high.isEmpty then e.fault 4 (maskOf high)
  else body

/-- MOVX (10 R215): SB names the base register; the computed register is checked against the allocation and against long-latency
writes of the clause. -/
def execMovx (f : FmtA) (s : State) : Out :=
  withIssuer s fun e =>
    let a := f.a.toNat
    let b := f.b.toNat
    let act := e.active f
    let idx (l : Nat) : Nat := b + e.read .i32 a l
    let static := e.dstDefects false f.d.toNat ++ e.srcDefects .i32 a ++ (if b < 64 then (if e.c.unalloc b then [4] else []) else [2])
    e.computed static (e.srcDefects .i32 a) true act idx (e.checked act static (srcRegs .i32 a ++ (lanesOf act).map idx)
      (e.perLane 1 false f.n f.d.toNat act 0 fun l => ((e.c.v (idx l) l).toNat, 0)))

/-- MOVXW (10 R215): DST names the base of the computed destination. In a lane where the predicate is false the latch holds the base register's
value (log 95, DEDUCED). -/
def execMovxw (f : FmtA) (s : State) : Out :=
  withIssuer s fun e =>
    let a := f.a.toNat
    let b := f.b.toNat
    let d := f.d.toNat
    let act := e.active f
    let idx (l : Nat) : Nat := d + e.read .i32 a l
    let static := e.dstDefects false d ++ e.srcDefects .i32 a ++ e.srcDefects .i32 b
    let vs := (lanesOf act).map fun l => (l, e.read .i32 b l)
    let old := (lanesOf (e.lanes &&& ~~~act)).map fun l => (l, if f.n then 0 else (e.c.v d l).toNat)
    let latch : Latch := ⟨false, false, (vs ++ old).foldl (fun m lv => mset m lv.1 (BitVec.ofNat 64 lv.2) 0) []⟩
    let c := if f.n then e.c else vs.foldl (fun c lv => c.setV (idx lv.1) lv.1 lv.2) e.c
    e.computed static (e.srcDefects .i32 a) (!f.n) act idx (e.checked act static (srcRegs .i32 a ++ srcRegs .i32 b)
      (e.s.setCtx e.cid (c.advance e.e 1 e.now (some latch))))

/-- LEA (10 R215): a 64-bit address sum with a scaled, extended offset. -/
def execLea (f : FmtA) (x : FmtX) (s : State) : Out :=
  withIssuer s fun e =>
    let a := f.a.toNat
    let b := f.b.toNat
    let act := e.active f
    e.checked act (e.dstDefects true f.d.toNat ++ e.srcDefects .i64 a ++ e.srcDefects .i32 b) (srcRegs .i64 a ++ srcRegs .i32 b)
      (e.perLane 2 true f.n f.d.toNat act 0 fun l =>
        (wrap 64 (e.read .i64 a l + intOf x.ty.toNat (e.read .i32 b l) * 2 ^ x.sub.toNat), 0))

/-- PLOP (10 R217): predicates by a truth table. -/
def execPlop (f : FmtA) (x : FmtX) (s : State) : Out :=
  withIssuer s fun e =>
    let act := e.active f
    let pa := e.c.pred f.a.toNat
    let pb := e.c.pred f.b.toNat
    e.checked act (rangeDefects f.d.toNat 8 ++ rangeDefects f.a.toNat 8 ++ rangeDefects f.b.toNat 8) []
      (e.finishP 2 f.n f.d.toNat act ((lanesOf act).map fun l =>
        (l, nbit x.sub.toNat (2 * b2n (pa.getLsbD l) + b2n (pb.getLsbD l)), 0)))

/-- P2V. -/
def execP2v (f : FmtA) (s : State) : Out :=
  withIssuer s fun e =>
    let act := e.active f
    let pa := e.c.pred f.a.toNat
    e.checked act (e.dstDefects false f.d.toNat ++ rangeDefects f.a.toNat 8) []
      (e.perLane 1 false f.n f.d.toNat act 0 fun l => (b2n (pa.getLsbD l), 0))

/-- V2P. -/
def execV2p (f : FmtA) (s : State) : Out :=
  withIssuer s fun e =>
    let a := f.a.toNat
    let act := e.active f
    e.checked act (rangeDefects f.d.toNat 8 ++ e.srcDefects .i32 a) (srcRegs .i32 a)
      (e.finishP 1 f.n f.d.toNat act ((lanesOf act).map fun l => (l, e.read .i32 a l ≠ 0, 0)))

end Sys2Proof.Machine
end

