-- ==== Sys2Proof/Machine/CrossLane.lean ====
section
/-! DEFINITION. Cross-lane words (10 R229-R233) and scalar words (10 R234). -/

namespace Sys2Proof.Machine

/-- SHFL (10 R229): every active lane reads A of a source lane of its own word, or its own A. -/
def execShfl (f : FmtA) (x : FmtX) (s : State) : Out :=
  withIssuer s fun e =>
    let wide := x.ty = 6
    let p : Pos := if wide then .i64 else .i32
    let a := f.a.toNat
    let b := f.b.toNat
    let act := e.active f
    let src (l : Nat) : Int :=
      let v := e.read .i32 b l
      match x.sub.toNat with
      | 0 => v
      | 1 => (l : Int) - v
      | 2 => (l : Int) + v
      | _ => ((l ^^^ v : Nat) : Int)
    let from_ (l : Nat) : Nat :=
      let j := src l
      if 0 ≤ j && j < e.c.width && act.getLsbD j.toNat then j.toNat else l
    e.checked act (e.dstDefects wide f.d.toNat ++ e.srcDefects p a ++ e.srcDefects .i32 b) (srcRegs p a ++ srcRegs .i32 b)
      (e.perLane 2 wide f.n f.d.toNat act 0 fun l => (e.read p a (from_ l), 0))

/-- VOTE (10 R230). -/
def execVote (f : FmtA) (x : FmtX) (s : State) : Out :=
  withIssuer s fun e =>
    let a := f.a.toNat
    let act := e.active f
    let yes := (lanesOf act).filter fun l => e.read .i32 a l ≠ 0
    let m := (maskOf yes).toNat
    let r := match x.sub.toNat with
      | 0 => b2n (!yes.isEmpty)
      | 1 => b2n (decide (yes.length = (lanesOf act).length))
      | 2 => m % 2 ^ 32
      | 3 => m / 2 ^ 32
      | _ => yes.length
    e.checked act (e.dstDefects false f.d.toNat ++ e.srcDefects .i32 a) (srcRegs .i32 a)
      (e.perLane 2 false f.n f.d.toNat act 0 fun _ => (r, 0))

/-- What a reduction carries: the value, the exact integer, the flags of its steps. -/
abbrev RedAcc := Nat × Int × Flags

/-- The identity of an operation in a type (10 R231). -/
def redIdent (op t : Nat) : RedAcc :=
  match op with
  | 0 => (0, 0, 0)
  | 1 => if t = 8 then (0x7F800000, 0, 0) else (wrap 32 (intHi t), 0, 0)
  | 2 => if t = 8 then (0xFF800000, 0, 0) else (wrap 32 (intLo t), 0, 0)
  | 3 => (0xFFFFFFFF, 0, 0)
  | _ => (0, 0, 0)

/-- One step of a reduction: one rounding or wrap (02 R42). -/
def redStep (op t mode : Nat) (acc : RedAcc) (v : Nat) : RedAcc :=
  let a := acc.1
  match op with
  | 0 =>
    if t = 8 then
      let r := fSum 8 mode 0 false [.val (fDecode 8 a), .val (fDecode 8 v)]
      (r.1, 0, acc.2.2 ||| r.2)
    else
      let x := acc.2.1 + intOf t v
      (wrap 32 x, x, flIf (clampInt t x).2 flOver)
  | 1 | 2 =>
    if t = 8 then
      let r := fMinMax 8 (op = 2) a v
      (r.1, 0, acc.2.2 ||| r.2)
    else
      let pick := if op = 2 then decide (intOf t a < intOf t v) else decide (intOf t v < intOf t a)
      (if pick then v else a, 0, 0)
  | 3 => (a &&& v, 0, 0)
  | 4 => (a ||| v, 0, 0)
  | _ => (a ^^^ v, 0, 0)

/-- The scan over lanes with their values: each lane's delivered accumulator, and the last. -/
def scanList (op t mode : Nat) (excl : Bool) : RedAcc → List (Nat × Nat) → List (Nat × RedAcc) × RedAcc
  | acc, [] => ([], acc)
  | acc, (l, v) :: rest =>
    let acc' := redStep op t mode acc v
    let (rs, fin) := scanList op t mode excl acc' rest
    ((l, if excl then acc else acc') :: rs, fin)

/-- REDX (10 R231): every active lane receives the reduction of all of them in ascending order. -/
def execRedx (f : FmtA) (x : FmtX) (s : State) : Out :=
  withIssuer s fun e =>
    let a := f.a.toNat
    let t := x.ty.toNat
    let op := x.sub.toNat / 2 % 8
    let p : Pos := if t = 8 then .f32 else .i32
    let act := e.active f
    let (_, fin) := scanList op t x.rnd.toNat false (redIdent op t) ((lanesOf act).map fun l => (l, e.read p a l))
    e.checked act (e.dstDefects false f.d.toNat ++ e.srcDefects p a) (srcRegs p a)
      (e.perLane 2 false f.n f.d.toNat act 0 fun _ => (fin.1, fin.2.2))

/-- SCAN (10 R231), inclusive or exclusive. -/
def execScan (f : FmtA) (x : FmtX) (s : State) : Out :=
  withIssuer s fun e =>
    let a := f.a.toNat
    let t := x.ty.toNat
    let op := x.sub.toNat / 2 % 8
    let p : Pos := if t = 8 then .f32 else .i32
    let act := e.active f
    let (rs, _) := scanList op t x.rnd.toNat (nbit x.sub.toNat 4) (redIdent op t) ((lanesOf act).map fun l => (l, e.read p a l))
    e.checked act (e.dstDefects false f.d.toNat ++ e.srcDefects p a) (srcRegs p a)
      (e.finishV 2 false f.n f.d.toNat act 0 (rs.map fun r => (r.1, r.2.1, r.2.2.2)))

/-- MATCH (10 R232). -/
def execMatch (f : FmtA) (x : FmtX) (s : State) : Out :=
  withIssuer s fun e =>
    let a := f.a.toNat
    let p : Pos := if x.ty = 6 then .i64 else .i32
    let act := e.active f
    let same (l : Nat) : Nat := (maskOf ((lanesOf act).filter fun j => e.read p a j = e.read p a l)).toNat
    e.checked act (e.dstDefects false f.d.toNat ++ e.srcDefects p a) (srcRegs p a)
      (e.perLane 2 false f.n f.d.toNat act 0 fun l => (if x.sub = 0 then same l % 2 ^ 32 else same l / 2 ^ 32, 0))

/-- V2S (10 R233): one lane's A in a scalar register; with no active lane the register keeps its value. -/
def execV2s (f : FmtA) (s : State) : Out :=
  withIssuer s fun e =>
    let a := f.a.toNat
    let b := f.b.toNat
    let d := f.d.toNat
    let act := e.active f
    let k := e.read .i32 b 0
    let v := if act = 0 then (e.c.sreg d).toNat
      else if k < e.c.width && act.getLsbD k then e.read .i32 a k else e.read .i32 a (lowLane act)
    e.checked act (rangeDefects d 32 ++ e.srcDefects .i32 a ++ e.scalarDefects .i32 b) (srcRegs .i32 a)
      (e.finishS 1 (f.n || act = 0) d v)

/-- A scalar word of opcode 0x38 (10 R234): once for the group, on scalar sources. -/
def wordS (f : FmtS) (op : Nat → Nat → Nat) (s : State) : Out :=
  withIssuer s fun e =>
    let a := f.a.toNat
    let b := f.b.toNat
    e.checked 0 (rangeDefects f.d.toNat 32 ++ e.scalarDefects .i32 a ++ e.scalarDefects .i32 b) []
      (e.finishS 1 f.n f.d.toNat (op (e.read .i32 a 0) (e.read .i32 b 0)))

/-- A scalar word with an 11-bit immediate (10 R234). -/
def wordSI (f : FmtIS) (op : Nat → Nat) (s : State) : Out :=
  withIssuer s fun e =>
    let a := f.a.toNat
    e.checked 0 (rangeDefects f.d.toNat 32 ++ e.scalarDefects .i32 a) []
      (e.finishS 1 f.n f.d.toNat (op (e.read .i32 a 0)))

def execSadd (f : FmtS) (s : State) : Out := wordS f (fun a b => (a + b) % 2 ^ 32) s
def execSsub (f : FmtS) (s : State) : Out := wordS f (fun a b => (a + 2 ^ 32 - b) % 2 ^ 32) s
def execSmul (f : FmtS) (s : State) : Out := wordS f (fun a b => a * b % 2 ^ 32) s
def execSand (f : FmtS) (s : State) : Out := wordS f (fun a b => a &&& b) s
def execSor (f : FmtS) (s : State) : Out := wordS f (fun a b => a ||| b) s
def execSxor (f : FmtS) (s : State) : Out := wordS f (fun a b => a ^^^ b) s
def execSshl (f : FmtS) (s : State) : Out := wordS f shlOp s
def execSshr (f : FmtS) (s : State) : Out := wordS f shrOp s
def execSsetEq (f : FmtS) (s : State) : Out := wordS f (fun a b => b2n (intCond 0 0 a b)) s
def execSsetNe (f : FmtS) (s : State) : Out := wordS f (fun a b => b2n (intCond 0 1 a b)) s
def execSsetLt (f : FmtS) (s : State) : Out := wordS f (fun a b => b2n (intCond 0 2 a b)) s
def execSsetGe (f : FmtS) (s : State) : Out := wordS f (fun a b => b2n (intCond 0 3 a b)) s
def execSsetLtu (f : FmtS) (s : State) : Out := wordS f (fun a b => b2n (intCond 0 6 a b)) s
def execSsetGeu (f : FmtS) (s : State) : Out := wordS f (fun a b => b2n (intCond 0 7 a b)) s

/-- SMOV: SB is zero and is no source. -/
def execSmov (f : FmtS) (s : State) : Out :=
  withIssuer s fun e =>
    let a := f.a.toNat
    e.checked 0 (rangeDefects f.d.toNat 32 ++ e.scalarDefects .i32 a) []
      (e.finishS 1 f.n f.d.toNat (e.read .i32 a 0))

def execSmovi (f : FmtI) (s : State) : Out :=
  withIssuer s fun e => e.checked 0 (rangeDefects f.d.toNat 32) [] (e.finishS 1 f.n f.d.toNat (wrap 32 f.imm.toInt))

/-- SMOVI.H: IMM18 over the low 14 bits of the register. -/
def execSmoviH (f : FmtI) (s : State) : Out :=
  withIssuer s fun e =>
    e.checked 0 (rangeDefects f.d.toNat 32) []
      (e.finishS 1 f.n f.d.toNat ((f.imm.toNat * 2 ^ 14 + (e.sreg f.d.toNat).toNat % 2 ^ 14) % 2 ^ 32))

def execSaddImm (f : FmtIS) (s : State) : Out := wordSI f (fun a => wrap 32 ((a : Int) + f.imm.toInt)) s
def execSandImm (f : FmtIS) (s : State) : Out := wordSI f (fun a => a &&& wrap 32 f.imm.toInt) s
def execSshlImm (f : FmtIS) (s : State) : Out := wordSI f (fun a => shlOp a (f.imm.toNat % 32)) s
def execSshrImm (f : FmtIS) (s : State) : Out := wordSI f (fun a => shrOp a (f.imm.toNat % 32)) s

end Sys2Proof.Machine
end

