-- ==== Sys2Proof/Machine/Control.lean ====
section
/-! DEFINITION. Branches, calls, loops, exit, election, regions, windows (13 R279-R290, R296, R297) and the barrier words
(13 R291-R294). -/

namespace Sys2Proof.Machine

/-! ## Holding a word at issue -/

/-- The word does not issue yet: nothing of it happens, the group shows the stall reason. -/
def Env.hold (e : Env) (reason : Nat) : State := e.s.setCtx e.cid { e.c with stall := reason }

/-- Has every earlier non-posted access of the group performed, a visit chain's at all its stops, and every post been acknowledged (08 R164)? -/
def State.released (s : State) (cid : Nat) (c : Ctx) : Bool := !(s.accs.any fun a => a.ctx = cid) && c.chain.isEmpty && c.anchor = 0

/-- Is an acquire of the group still to perform (08 R165): an access, a chain with stops to come (07 R151), or a JOINK's answer (13 R298)? -/
def State.acquiring (s : State) (cid : Nat) : Bool :=
  (s.accs.any fun a => a.ctx = cid && a.acquire) || (s.joinks.any fun j => j.ctx = cid) ||
    ((s.ctx? cid).map fun c => !c.chain.isEmpty && c.chainAcq).getD false

/-! ## Sending lanes to their targets -/

/-- Does the word act for its leader alone (13 R290)? -/
def Env.elected (e : Env) : Bool := e.c.leader.isSome && e.c.leaderPath = e.e

/-- Under ELECT the sleepers follow the leader (13 R290): every lane of the entry takes the acting lane's destination. -/
def Env.spread (e : Env) (ds : List (Nat × Nat × Bool)) : List (Nat × Nat × Bool) :=
  if e.elected then
    match ds with
    | (_, t, h) :: _ => (lanesOf e.p.mask).map fun l => (l, t, h)
    | [] => []
  else ds

/-- The word would need a ninth path (13 R281): its path holds at the word; when every valid path is so held, the lowest takes 0x09; join
holds end when every path is held (R285). -/
def Env.holdNinth (e : Env) : State :=
  let c := e.c.setPath e.e { e.p with hold := true, kind := .ninth, since := e.now }
  let c := { c with stall := 5 }
  let s := e.s.setCtx e.cid c
  if c.validPaths.all fun k => (c.path k).hold && (c.path k).kind = .ninth then
    let k := c.firstPath
    let p := c.path k
    s.takeTrap e.cid k p.nextHeader (plainReport 0x09 p.pc p.mask)
  else (s.setCtx e.cid c.settle).rest e.cid 5

/-- The first target of the lanes that fails to translate or is no header (06 R121, R406). -/
inductive TargetBad where
  | miss (r : Report32)
  | notHeader (lanes : Mask)
  deriving DecidableEq, Repr

/-- Fetch every target header the lanes take, in lane order (06 R406): translation failures come before a word that is no header. -/
def State.checkTargets (s : State) (c : Ctx) (pc : Nat) (ds : List (Nat × Nat × Bool)) : State × Option TargetBad :=
  let ts := (ds.map fun d => d.2.1).eraseDups
  let lanesTo (t : Nat) : Mask := maskOf ((ds.filter fun d => d.2.1 = t).map (·.1))
  let step (acc : State × List (Nat × Miss) × List Nat) (t : Nat) : State × List (Nat × Miss) × List Nat :=
    let (s, ms, bad) := acc
    match s.codeWord c t with
    | (s, .error m) => (s, ms ++ [(t, m)], bad)
    | (s, .ok w) => (s, ms, if t % 4 = 0 && isHeader w then bad else bad ++ [t])
  let (s, ms, bad) := ts.foldl step (s, [], [])
  match ms, bad with
  | (t, (code, lvl)) :: _, _ => (s, some (.miss ⟨code, 0, lvl, 10, 0, false, (c.codeBase + t) % 2 ^ 64, pc, lanesTo t⟩))
  | [], _ :: _ => (s, some (.notHeader (bad.foldl (fun m t => m ||| lanesTo t) 0)))
  | [], [] => (s, none)

/-- Move the lanes of a control word: `stay` falls through, `ds` are the others' destinations, `c` the context after pushes and pops. -/
def Env.move (e : Env) (c : Ctx) (stay : Mask) (ds : List (Nat × Nat × Bool)) : State :=
  let c := { c.setPath e.e { c.path e.e with lastIssue := e.now } with lastIssue := e.now }
  match c.diverge e.e e.p.nextHeader e.now stay (gatherDests ds) with
  | none => e.holdNinth
  | some c => e.s.setCtx e.cid c.fixExt.settle

/-- A control word whose lanes take targets: park, fault 0x03 at the lanes that take a bad target, or move. -/
def Env.jump (e : Env) (c : Ctx) (stay : Mask) (ds : List (Nat × Nat × Bool)) : State :=
  let ds := e.spread ds
  let stay := if ds.isEmpty then e.p.mask else if e.elected then 0 else stay
  let (s, bad) := e.s.checkTargets e.c e.p.pc ds
  let e := { e with s := s }
  match bad with
  | some (.miss r) => s.park e.cid e.e r
  | some (.notHeader ls) => e.fault 0x03 ls
  | none => e.move c stay ds

/-- Does a push by these lanes need the return-stack extension (07 R141)? -/
def Env.needExt (e : Env) (ls : List Nat) : Bool := !e.c.ext && ls.any fun l => decide (16 ≤ e.c.depth l)

/-- A push: 0x09 at depth 64; held with wait-grow where six windows are not free for the extension (07 R141); else `body` on the
context with the entries pushed. -/
def Env.pushing (e : Env) (ps : List (Nat × Nat)) (body : Env → Ctx → State) : State :=
  let ls := ps.map (·.1)
  if ls.any fun l => decide (64 ≤ e.c.depth l) then e.fault 0x09 (maskOf (ls.filter fun l => decide (64 ≤ e.c.depth l)))
  else if e.needExt ls && decide (e.s.freeG e.c.gc < 6 * e.c.gran) then e.s.setCtx e.cid { e.c with stall := 7, grow := 16 }
  else body e (ps.foldl (fun c lv => c.push lv.1 lv.2) { e.c with ext := e.c.ext || e.needExt ls })

/-- Lanes of the path in which a branch's condition holds (13 R282). -/
def Env.condLanes (e : Env) (f : FmtB) : Mask :=
  let q := e.c.pred f.cpred.toNat
  e.p.mask &&& (if f.cneg then ~~~q else q)

/-- Lanes that act with those that act for them: every lane of the path where the leader does (13 R290). -/
def Env.following (e : Env) (m : Mask) : Mask := if e.elected then (if m &&& e.lanes = 0 then 0 else e.p.mask) else m

/-- Lanes of the path that a BRA or CALL takes: under ELECT all follow the leader (13 R282, R290; log 72, DEDUCED). -/
def Env.takers (e : Env) (f : FmtB) : Mask := e.following (e.condLanes f)

/-- Target of a format B word. -/
def Env.target (e : Env) (f : FmtB) : Nat := wrap 32 ((e.p.pc : Int) + 4 * f.off.toInt)

/-- BRA (13 R282): per lane. -/
def execBra (f : FmtB) (s : State) : Out :=
  withIssuer s fun e =>
    let take := e.takers f
    e.jump e.c (e.p.mask &&& ~~~take) ((lanesOf take).map fun l => (l, e.target f, false))

/-- BRC: the path moves as a whole when the condition holds in any of its lanes. -/
def execBrc (f : FmtB) (s : State) : Out :=
  withIssuer s fun e =>
    if e.condLanes f = 0 then e.jump e.c e.p.mask []
    else e.jump e.c 0 ((lanesOf e.p.mask).map fun l => (l, e.target f, false))

/-- CALL: BRA whose lanes push the next header. -/
def execCall (f : FmtB) (s : State) : Out :=
  withIssuer s fun e =>
    let take := e.takers f
    e.pushing ((lanesOf take).map fun l => (l, e.p.nextHeader)) fun e c =>
      e.jump c (e.p.mask &&& ~~~take) ((lanesOf take).map fun l => (l, e.target f, false))

/-- BRX (13 R283): each lane takes its own target. -/
def execBrx (a : BitVec 7) (s : State) : Out :=
  withIssuer s fun e =>
    e.checked e.lanes (e.srcDefects .i32 a.toNat) (srcRegs .i32 a.toNat)
      (e.jump e.c 0 ((lanesOf e.lanes).map fun l => (l, e.read .i32 a.toNat l, false)))

/-- CALLR: every lane of the path pushes the next header first. -/
def execCallr (a : BitVec 7) (s : State) : Out :=
  withIssuer s fun e =>
    e.checked e.lanes (e.srcDefects .i32 a.toNat) (srcRegs .i32 a.toNat)
      (e.pushing ((lanesOf e.p.mask).map fun l => (l, e.p.nextHeader)) fun e c =>
        e.jump c 0 ((lanesOf e.lanes).map fun l => (l, e.read .i32 a.toNat l, false)))

/-- The destination a popped entry sends a lane to: its offset, held where the join mark is set (13 R284, R285). -/
def Ctx.retDest (c : Ctx) (l : Nat) : Nat × Nat × Bool := (l, c.top l / 4 * 4, nbit (c.top l) 0)

/-- RET (13 R283): every lane of the path pops; 0x09 where one has depth 0. -/
def execRet (s : State) : Out :=
  withIssuer s fun e =>
    let ls := lanesOf e.p.mask
    if ls.any fun l => e.c.depth l = 0 then e.fault 0x09 (maskOf (ls.filter fun l => e.c.depth l = 0))
    else e.jump (ls.foldl (fun c l => c.pop l) e.c) 0 ((lanesOf e.lanes).map e.c.retDest)

/-- Code words at offsets, or the first failed check. -/
def State.codeWords (s : State) (c : Ctx) : List Nat → State × Except (Nat × Miss) (List Word)
  | [] => (s, .ok [])
  | o :: os =>
    match s.codeWord c o with
    | (s, .error m) => (s, .error (o, m))
    | (s, .ok w) =>
      match s.codeWords c os with
      | (s, .error m) => (s, .error m)
      | (s, .ok ws) => (s, .ok (w :: ws))

/-- JMPT (13 R285): table lookup per lane; lanes in range push the join offset with its mark, the others go to it at once, held. An entry that
cannot be read parks the group with the lanes that read it (06 R406, 03 R60). The table's words are read where the offset says, aligned
or not (log 96, DESIGN CHOICE). -/
def execJmpt (a b : BitVec 7) (s : State) : Out :=
  withIssuer s fun e =>
    let tab := e.read .i32 b.toNat 0
    let ls := lanesOf e.lanes
    let idx (l : Nat) : Nat := e.read .i32 a.toNat l
    let missed (s : State) (o : Nat) (m : Miss) (lanes : Mask) : State :=
      s.park e.cid e.e (.mk m.1 0 m.2 10 0 false ((e.c.codeBase + o) % 2 ^ 64) e.p.pc lanes)
    e.checked e.lanes (e.srcDefects .i32 a.toNat ++ e.scalarDefects .i32 b.toNat) (srcRegs .i32 a.toNat)
      (match s.codeWords e.c [tab, tab + 4] with
        | (s, .ok [nw, jw]) =>
          let e := { e with s := s }
          let n := nw.toNat
          if n = 0 || 256 < n then e.fault 0x02 e.lanes else
          let ins := ls.filter fun l => decide (idx l < n)
          match s.codeWords e.c (ins.map fun l => tab + 8 + 4 * idx l) with
          | (s, .error (o, m)) => missed s o m (maskOf (ins.filter fun l => tab + 8 + 4 * idx l = o))
          | (s, .ok ts) =>
            let e := { e with s := s }
            let direct := (ls.filter fun l => !decide (idx l < n)).map fun l => (l, jw.toNat, true)
            e.pushing ((lanesOf (e.following (maskOf ins))).map fun l => (l, jw.toNat / 4 * 4 + 1)) fun e c =>
              e.jump c 0 ((ins.zip ts).map (fun lt => (lt.1, lt.2.toNat, false)) ++ direct)
        | (s, .error (o, m)) => missed s o m e.lanes
        | (s, .ok _) => s)

/-! ## Loops -/

/-- LOOP (13 R286); where E cannot be fetched the group parks at that header (06 R406). -/
def execLoop (a : BitVec 7) (l : BitVec 8) (s : State) : Out :=
  withIssuer s fun e =>
    let n := e.read .i32 a.toNat 0
    let start := e.p.nextHeader
    let fin := start + 4 * (l.toNat + 1)
    let outside := match e.c.loops.getLast? with
      | some k => !(decide (k.start ≤ start) && decide (fin ≤ k.fin))
      | none => false
    let c := { e.c.setPath e.e { e.p with lastIssue := e.now } with lastIssue := e.now }
    e.checked e.lanes (e.scalarDefects .i32 a.toNat) []
      (if 3 ≤ e.c.loops.length then e.fault 0x09 e.lanes
      else match s.codeWord e.c fin with
        | (s, .error m) => s.park e.cid e.e (.mk m.1 0 m.2 10 0 false ((e.c.codeBase + fin) % 2 ^ 64) fin e.lanes)
        | (s, .ok w) =>
          let e := { e with s := s }
          if !isHeader w || outside then e.fault 0x03 e.lanes
          else if n = 0 then e.s.setCtx e.cid (c.fallTo e.e fin e.now).settle
          else
            let c := c.leaveClause e.e
            let c := c.setPath e.e { c.path e.e with pc := start }
            e.s.setCtx e.cid ({ c with loops := c.loops ++ [LoopLevel.mk n start l.toNat], loopRegs := c.loopRegs.drop 1 } : Ctx).settle)

/-- LBRK (13 R287): to the end of the innermost level, unheld; 0x01 with no level open. The header there is fetched as the next clause's
(06 R406). -/
def execLbrk (s : State) : Out :=
  withIssuer s fun e =>
    match e.c.loops.getLast? with
    | none => e.fault 0x01 e.lanes
    | some k => e.move e.c 0 ((lanesOf e.p.mask).map fun l => (l, k.fin, false))

/-- May the paths of a group move where they wait: it is not stopped, but for a step (16 R359)? -/
def Ctx.moves (c : Ctx) : Bool := c.stop.isNone || c.step.isSome

/-- LOOP_ITERATION (13 R287): a round of the innermost level that is due. -/
def execLoopIteration (cid : Nat) (s : State) : Out :=
  match s.ctx? cid with
  | none => .next s
  | some c =>
    if !c.moves then .next s else
    match c.round with
    | none => .next s
    | some d => .next (s.setCtx cid d.settle)

/-- NINTH_PATH_RELEASE (13 R281): an entry is free again, so the held word may issue; a path that a join left beyond the eight entries
(07 Table 7-3) takes it. -/
def execNinthPathRelease (cid entry : Nat) (s : State) : Out :=
  match s.ctx? cid with
  | none => .next s
  | some c =>
    let p := c.path entry
    match c.freePaths with
    | [] => .next s
    | k :: _ =>
      if p.v && p.hold && p.kind = .ninth && c.moves && !p.stopped then
        if entry < 8 then .next (s.setCtx cid (c.setPath entry { p with hold := false, kind := .none }))
        else
          let c := c.setPath k { p with hold := false, kind := .none }
          .next (s.setCtx cid { c with paths := c.paths.eraseIdx entry }.settle)
      else .next s

/-- JOIN_HOLD_TIMEOUT (13 R285): a join hold of 4,096 cycles ends. -/
def execJoinHoldTimeout (cid entry : Nat) (s : State) : Out :=
  match s.ctx? cid with
  | none => .next s
  | some c =>
    let p := c.path entry
    if p.v && p.hold && p.kind = .join && c.moves && !p.stopped && decide (4096 ≤ s.now c.gc - p.since) then
      .next (s.setCtx cid (c.setPath entry { p with hold := false, kind := .none }).mergePaths)
    else .next s

/-! ## Exit, yield and election -/

/-- Every lane of a group that has not exited, over its parts. -/
def State.groupLanes (s : State) (tk gidx : Nat) : Mask :=
  (s.ctxs.filter fun kc => kc.2.team = tk && kc.2.gidx = gidx && kc.2.alive).foldl (fun m kc => m ||| kc.2.lanes) 0

/-- A barrier record at reset. -/
def BarRec.empty : BarRec := ⟨0, [], 0, false, [], 0, []⟩

/-- The identity of a payload operation (13 R293). -/
def payIdent (op : Nat) : Nat :=
  match op with
  | 3 => 0x7FFFFFFF
  | 4 => 0x80000000
  | 5 => 0xFFFFFFFF
  | _ => 0

/-- One step of a payload reduction (13 R293): rounding to nearest even or wrapping; OVER where the step's exact sum is outside s32. The
flags of every step are kept. -/
def payStep (op : Nat) (acc : Nat × Flags) (v : Nat) : Nat × Flags :=
  let a := acc.1
  match op with
  | 1 =>
    let x := sint 32 a + sint 32 v
    (wrap 32 x, acc.2 ||| flIf (clampInt 0 x).2 flOver)
  | 2 =>
    let r := fSum 8 0 0 false [.val (fDecode 8 a), .val (fDecode 8 v)]
    (r.1, acc.2 ||| r.2)
  | 3 => (if sint 32 v < sint 32 a then v else a, acc.2)
  | 4 => (if sint 32 a < sint 32 v then v else a, acc.2)
  | 5 => (a &&& v, acc.2)
  | 6 => (a ||| v, acc.2)
  | _ => (a ^^^ v, acc.2)

/-- A payload reduction over values in order, from the identity. -/
def payFold (op : Nat) (vs : List Nat) : Nat × Flags := vs.foldl (payStep op) (payIdent op, 0)

/-- Insert a group's value in ascending group index. -/
def insertVal (g : Nat) (v : Word) : List (Nat × Word) → List (Nat × Word)
  | [] => [(g, v)]
  | (h, w) :: rest => if g < h then (g, v) :: (h, w) :: rest else (h, w) :: insertVal g v rest

/-- Does a path wait for a generation of a barrier? -/
def Path.awaits (p : Path) (nb gen : Nat) : Bool :=
  match p.wait with
  | .barrier k g _ _ => p.v && k = nb && g = gen
  | _ => false

/-- The base core tells every context that waits for the generation of its release (13 R292, R295; 05 R89): one flit to each, of the kind of
replies (log 101, DEDUCED). -/
def State.sendRels (s : State) (tk base nb gen : Nat) : State :=
  (s.ctxs.filter fun kc => kc.2.team = tk && kc.2.paths.any fun p => p.awaits nb gen).foldl (fun s kc =>
    let (i, s) := s.fresh
    ({ s with rels := s.rels ++ [⟨i, base, gsOf kc.2.gc, kc.1, nb, gen⟩] } : State).sendFlit base (gsOf kc.2.gc) (planeOf base) 3 i) s

/-- Release the generation of a barrier when every group of the expected set has arrived and no arrival is still on its way (13 R291): the
payload's second stage runs over the groups in ascending index (13 R293), and the record clears. An empty generation is never released. -/
def State.releaseBar (s : State) (tk nb : Nat) : State :=
  match s.team? tk with
  | none => s
  | some t =>
    let r := mget t.bars nb BarRec.empty
    let arrived (g : Nat) : Bool :=
      let live := s.groupLanes tk g
      mget r.arrived g 0 ≠ 0 && live &&& ~~~(mget r.arrived g 0) = 0
    if r.arrived.isEmpty || !(t.left.all arrived) || s.bars.any (fun b => b.team = tk && b.nb = nb) then s else
    let (v, fl) := payFold r.op (r.vals.map fun gv => gv.2.toNat)
    let res : Word × Flags := if r.clash then (0xFFFFFFFF, r.flags ||| flInvalid) else (BitVec.ofNat 32 v, r.flags ||| fl)
    let r' : BarRec := { BarRec.empty with gen := r.gen + 1, results := mput r.results r.gen res }
    (s.setTeam tk { t with bars := mput t.bars nb r' }).sendRels tk (gsOf t.baseGc) nb r.gen

/-- Check every barrier of a team, after lanes or groups of it ended. -/
def State.releaseBars (s : State) (tk : Nat) : State := (List.range 16).foldl (fun s nb => s.releaseBar tk nb) s

/-- The record of a named barrier as an image holds it (15 Table 15-6). -/
def State.barBytes (s : State) (tk : Nat) (t : Team) (nb : Nat) : List Byte :=
  let r := mget t.bars nb BarRec.empty
  let full (g : Nat) : Bool := mget r.arrived g 0 ≠ 0 && s.groupLanes tk g &&& ~~~(mget r.arrived g 0) = 0
  let (v, _) := payFold r.op (r.vals.map fun gv => gv.2.toNat)
  let joins := t.joins.filter fun kv => kv.1 / 64 = nb
  let due := joins.foldl (fun m kv => m ||| (s.groupLanes tk (kv.1 % 64) &&& ~~~(kv.2.foldl (fun m k => m ||| ((s.ctx? k).map (·.lanes)).getD 0) 0))) (0 : Mask)
  let head := bytesOf 8 (maskOf t.left).toNat ++ bytesOf 8 (maskOf (t.left.filter full)).toNat ++
    bytesOf 8 (r.op + r.flags.toNat * 2 ^ 8 + r.gen % 2 ^ 32 * 2 ^ 16) ++ bytesOf 8 v ++ bytesOf 8 due.toNat ++
    bytesOf 8 ((joins.map (·.2.length)).foldl (· + ·) 0)
  head ++ List.replicate (0x200 - head.length) 0 ++ (List.range 64).flatMap fun g => bytesOf 8 (mget r.arrived g 0).toNat

/-- A change of a barrier record reaches the image of a saved team (15 R342). -/
def State.mirrorBar (s : State) (tk nb : Nat) : State :=
  match s.team? tk with
  | none => s
  | some t =>
    match s.imageOf t with
    | some i => s.refStore (s.imgPa i (i.sec 3 + 1024 * nb)) (s.barBytes tk t nb)
    | none => s

/-- NOP (13 R289): no effect; as a word of the clause it holds no latch. -/
def execNop (s : State) : Out := withIssuer s fun e => e.finish e.c 1

/-- YIELD (13 R289): at the boundary the group leaves the active set as ready, stall reason swap. -/
def execYield (s : State) : Out :=
  withIssuer s fun e =>
    (e.s.setCtx e.cid (e.c.advance e.e 1 e.now none)).swapOut e.cid 8

/-- ELECT (13 R290). -/
def execElect (s : State) : Out :=
  withIssuer s fun e =>
    match e.c.leader with
    | some _ => if e.c.leaderPath = e.e then e.fault 0x01 e.lanes else e.hold 5
    | none => e.finish { e.c with leader := some (lowLane e.p.mask), leaderPath := e.e } 1

/-- ENDE (13 R290). -/
def execEnde (s : State) : Out :=
  withIssuer s fun e =>
    if e.c.leader.isSome && e.c.leaderPath = e.e then e.finish { e.c with leader := none } 1 else e.fault 0x01 e.lanes

/-! ## Named barriers -/

/-- Has a lane of the mask already arrived at the barrier in the current generation, or a message on its way to say so? -/
def State.inGeneration (s : State) (tk gidx nb : Nat) (m : Mask) : Bool :=
  match s.team? tk with
  | none => false
  | some t =>
    (m &&& mget (mget t.bars nb BarRec.empty).arrived gidx 0) ≠ 0 ||
      s.bars.any fun b => b.team = tk && b.gidx = gidx && b.nb = nb && (m &&& b.lanes) ≠ 0

/-- The current generation of a barrier. -/
def State.barGen (s : State) (tk nb : Nat) : Nat := ((s.team? tk).map fun t => (mget t.bars nb BarRec.empty).gen).getD 0

/-- Send one arrival for the lanes of the path: the whole entry arrives, only acting lanes carry values (13 R291-R293). -/
def Env.arrive (e : Env) (a : BitVec 7) (nb op : Nat) : State × Ctx :=
  let (v, fl) := payFold op ((lanesOf e.lanes).map fun l => e.read .i32 a.toNat l)
  let (v, fl) := if op = 2 then payFold op ((lanesOf e.lanes).map fun l => e.read .f32 a.toNat l) else (v, fl)
  let (i, s) := e.s.fresh
  let gen := e.s.barGen e.c.team nb
  let c := { e.c.takeLost with lastArr := (lanesOf e.p.mask).foldl (fun m l => mset m (nb * 64 + l) (gen + 1) 0) e.c.lastArr }
  let src := gsOf e.c.gc
  let msg : BarMsg := ⟨i, src, e.c.team, e.c.gidx, nb, e.p.mask, op, if op = 0 then none else some (BitVec.ofNat 32 v), if op = 0 then 0 else fl⟩
  (({ s with bars := s.bars ++ [msg] } : State).sendFlit src (gsOf e.c.baseGc) (planeOf src) 1 i, c)

/-- The position in which a payload is read: floating for FP32 add. -/
def payPos (op : Nat) : Pos := if op = 2 then .f32 else .i32

/-- BAR (13 R292): a release, then an arrival, then the wait for the generation's release. -/
def execBar (d : BitVec 6) (a : BitVec 7) (k : BitVec 4) (o : BitVec 3) (s : State) : Out :=
  withIssuer s fun e =>
    let nb := k.toNat
    let op := o.toNat
    let ds := if op = 0 then [] else e.dstDefects false d.toNat ++ e.srcDefects (payPos op) a.toNat
    e.checked e.lanes ds (if op = 0 then [] else srcRegs .i32 a.toNat)
      (if !s.released e.cid e.c || s.acquiring e.cid then e.hold 2
      else if s.inGeneration e.c.team e.c.gidx nb e.p.mask then e.hold 5
      else
        let gen := s.barGen e.c.team nb
        let (s, c) := e.arrive a nb op
        (s.setCtx e.cid (c.advanceTo e.e 1 e.now none (.barrier nb gen (if op = 0 then none else some d.toNat) e.lanes))).rest e.cid 5)

/-- ARRIVE (13 R292). -/
def execArrive (a : BitVec 7) (k : BitVec 4) (o : BitVec 3) (s : State) : Out :=
  withIssuer s fun e =>
    let nb := k.toNat
    let op := o.toNat
    e.checked e.lanes (if op = 0 then [] else e.srcDefects (payPos op) a.toNat) (if op = 0 then [] else srcRegs .i32 a.toNat)
      (if !s.released e.cid e.c || s.acquiring e.cid then e.hold 2
      else if s.inGeneration e.c.team e.c.gidx nb e.p.mask then e.hold 5
      else
        let (s, c) := e.arrive a nb op
        s.setCtx e.cid (c.advance e.e 1 e.now none))

/-- AWAIT (13 R292): the wait for the generation its lanes last arrived at; lanes that never arrived pass at once, and the payload
they receive is a value the manual does not state (log 17, DESIGN CHOICE). -/
def execAwait (d : BitVec 6) (k : BitVec 4) (o : Bool) (s : State) : Out :=
  withIssuer s fun e =>
    let nb := k.toNat
    let g := (lanesOf e.p.mask).foldl (fun m l => max m (mget e.c.lastArr (nb * 64 + l) 0)) 0
    let done := mget ((e.s.team? e.c.team).map (·.bars) |>.getD []) nb BarRec.empty
    e.checked e.lanes (if o then e.dstDefects false d.toNat else []) []
      (if s.acquiring e.cid then e.hold 2
      else if g = 0 then
        let (v, s) := e.s.free
        let c := if o then e.c.writeV false d.toNat ((lanesOf e.lanes).map fun l => (l, v % 2 ^ 32)) else e.c
        (if o then s else e.s).setCtx e.cid (c.advance e.e 1 e.now none)
      else if g ≤ done.gen then
        let (v, fl) := mget done.results (g - 1) (0, 0)
        let fs := (lanesOf e.lanes).map fun l => (l, fl)
        let c := if o then (e.c.writeV false d.toNat ((lanesOf e.lanes).map fun l => (l, v.toNat))).orFlags fs else e.c
        let s := e.s.setCtx e.cid (c.advance e.e 1 e.now none)
        if o then s.watchAll e.cid e.e fs else s
      else
        (e.s.setCtx e.cid (e.c.advanceTo e.e 1 e.now none (.barrier nb (g - 1) (if o then some d.toNat else none) e.lanes))).rest e.cid 5)

/-- Stack of the base core a barrier arrival goes to. -/
def State.barDst (s : State) (b : BarMsg) : Nat := ((s.team? b.team).map fun t => gsOf t.baseGc).getD b.src

/-! ## Regions and windows -/

/-- Does a request name a context: its launch on the package by id, with SCOPE 1 its team and group, with SCOPE 2 its team (16 R360)? -/
def State.named (s : State) (pkg scope gidx launch teamLin : Nat) (c : Ctx) : Bool :=
  let ofLaunch := ((s.launch? c.launch).map fun l => l.pkg = pkg && l.id = launch).getD false
  let ofTeam := ((s.team? c.team).map fun t => decide (t.lin = teamLin)).getD false
  ofLaunch && (scope = 6 || (ofTeam && (scope = 2 || c.gidx = gidx)))

/-- Does the deferred request of stack `gs` name a context? -/
def State.atRegNames (s : State) (gs : Nat) (q : AtReg) (c : Ctx) : Bool := s.named (pkgOf gs) q.scope q.gidx q.launch q.teamLin c

/-- A deferred request whose every target has stopped is over (16 R360). -/
def State.settleAtReg (s : State) : State :=
  let one (kk : Nat × Stack) : Nat × Stack := match kk.2.atReg with
    | some q => if s.ctxs.any fun kc => kc.2.atRegion && s.atRegNames kk.1 q kc.2 then kk else (kk.1, { kk.2 with atReg := none })
    | none => kk
  { s with stks := s.stks.map one }

/-- A group under a pending ATREG request stops at its ENTER or LEAVE (16 R360): the word takes effect, SKID is 0. -/
def State.regionStop (s : State) (cid e id : Nat) : State :=
  match s.ctx? cid with
  | none => s
  | some c =>
    if !c.atRegion then s else
    let hits := s.stks.filterMap fun kk => kk.2.atReg.filter fun q => s.atRegNames kk.1 q c && (match q.rid with
          | some r => decide (r = id)
          | none => true)
    match hits with
    | [] => s
    | q :: _ =>
      let (ev, s) := s.fresh
      let s := s.setCtx cid { c with atRegion := false }
      (s.stopGroup cid ev 0x82 { groupRec s c e 0x82 with aux := q.scope }).settleAtReg

/-- ENTER (13 R296). -/
def execEnter (i : BitVec 16) (s : State) : Out :=
  withIssuer s fun e =>
    let d := e.c.rdepth
    let c := { e.c with region := if d < 8 then mset e.c.region d i 0 else e.c.region, rdepth := min (d + 1) 255 }
    let s := e.finish c 1
    State.regionStop (s.trace e.cid 6 (i.toNat + 2 ^ 16 + c.rdepth * 2 ^ 17)) e.cid e.e i.toNat

/-- LEAVE (13 R296). -/
def execLeave (s : State) : Out :=
  withIssuer s fun e =>
    let d := e.c.rdepth
    let popped := if d ≤ 8 then (mget e.c.region (d - 1) 0).toNat else 0
    if d = 0 then e.finish e.c 1 else
    let c := { e.c with rdepth := d - 1 }
    let s := e.finish c 1
    State.regionStop (s.trace e.cid 6 (popped + c.rdepth * 2 ^ 17)) e.cid e.e popped

/-- The context with `k` windows more, which read as zero (13 R297). -/
def Ctx.growBy (c : Ctx) (k : Nat) : Ctx :=
  { c with
    vregs := c.vregs.filter fun kv => !(decide (8 * c.walloc ≤ kv.1 / 64) && decide (kv.1 / 64 < 8 * (c.walloc + k)))
    dead := c.dead.filter fun kv => !(decide (8 * c.walloc ≤ kv.1 / 64) && decide (kv.1 / 64 < 8 * (c.walloc + k)))
    walloc := c.walloc + k }

/-- Discard the windows at and above `w` (13 R297). -/
def Ctx.dropWindows (c : Ctx) (w : Nat) : Ctx :=
  { c with vregs := c.vregs.filter (fun kv => decide (kv.1 / 64 < 8 * w)), dead := c.dead.filter (fun kv => decide (kv.1 / 64 < 8 * w)), walloc := w }

/-- GROW (13 R297): at the boundary the group waits until the windows are free. -/
def execGrow (n : BitVec 4) (s : State) : Out :=
  withIssuer s fun e =>
    let k := n.toNat
    if k = 0 || 8 < k || 8 < e.c.walloc + k then e.fault 0x02 e.lanes else
    let c := e.c.advance e.e 1 e.now none
    if k * c.gran ≤ e.s.freeG c.gc then e.s.setCtx e.cid (c.growBy k)
    else (e.s.setCtx e.cid { c with grow := k, stall := 7, since := e.now, place := if c.place = .active then .pending else c.place }).trace e.cid 8 7

/-- SHRINK (13 R297): the top windows are discarded for the next word on. -/
def execShrink (n : BitVec 4) (s : State) : Out :=
  withIssuer s fun e =>
    let k := n.toNat
    if k = 0 || 8 < k || e.c.walloc ≤ k then e.fault 0x02 e.lanes
    else e.finish (e.c.dropWindows (e.c.walloc - k)) 1

/-- RSTACK_EXTENSION_CLAIM (07 R141): six windows are free, so a group held at a call claims the extension. -/
def execRstackExtensionClaim (cid : Nat) (s : State) : Out :=
  match s.ctx? cid with
  | none => .next s
  | some c =>
    if c.grow = 16 && !c.ext && decide (6 * c.gran ≤ s.freeG c.gc) then
      .next (s.setCtx cid { c with ext := true, grow := 0, stall := 15 })
    else .next s

/-- PATH_PROMOTION (14 R324): a path that has not issued for 256 cycles ranks above every path that has. -/
def execPathPromotion (cid entry : Nat) (s : State) : Out :=
  match s.ctx? cid with
  | none => .next s
  | some c =>
    let p := c.path entry
    if p.v && decide (256 ≤ s.now c.gc - p.lastIssue) then
      .next (s.updCore c.gc fun k => { k with promoted := addNew k.promoted (cid * 8 + entry) })
    else .next s

end Sys2Proof.Machine
end

