-- ==== Sys2Proof/Machine/Issue.lean ====
section
/-! DEFINITION. Fetching a clause with its form checks (06 R117-R125, R406), and the issue stage: which word of a core issues next
(14 R324-R326), and what goes with every issue. -/

namespace Sys2Proof.Machine

/-! ## Clause form (06 R118-R120, R122) -/

/-- SUBOP of a word in [3:0]. -/
def subop (w : Word) : Nat := w.toNat % 16

/-- Class of a raw word by opcode and subop (06 Table 6-15, Table 6-16); none for what is reserved. -/
def wordClass (w : Word) : Option Nat :=
  let o := w.toNat / 2 ^ 25
  if o ≤ 0x1D then some 0
  else if o ≤ 0x1F then none
  else if o ≤ 0x2E then some 0
  else if o = 0x2F then none
  else if o ≤ 0x36 then some 0
  else if o = 0x37 then none
  else if o = 0x38 then (if subop w ≤ 14 then some 0 else none)
  else if o ≤ 0x3E then some 0
  else if o = 0x3F then none
  else if o ≤ 0x47 then some 7
  else if o ≤ 0x4A then some 0
  else if o ≤ 0x4F then some 7
  else if o ≤ 0x58 then some 1
  else if o ≤ 0x5F then none
  else if o ≤ 0x67 then some 2
  else if o ≤ 0x6F then some 3
  else if o ≤ 0x72 then some 4
  else if o = 0x73 then none
  else if o ≤ 0x76 then some 5
  else match o with
    | 0x77 => if subop w = 5 || subop w = 10 then some 0 else if subop w ≤ 9 then some 5 else none
    | 0x78 => match bits w.toNat 19 6 with
      | 0 | 2 | 3 => some 5
      | 1 => some 0
      | _ => none
    | 0x79 => if subop w ≤ 4 then some 5 else none
    | 0x7A => if subop w ≤ 6 then some 6 else none
    | 0x7B => if subop w ≤ 3 then some 6 else none
    | _ => none

/-- The raw words that stand last in their clause (06 R120). -/
def wordTerminal (w : Word) : Bool :=
  let o := w.toNat / 2 ^ 25
  let sp := bits w.toNat 4 2
  match o with
  | 0x50 | 0x51 | 0x52 | 0x53 | 0x55 | 0x57 | 0x58 => sp ≠ 2
  | 0x74 | 0x75 | 0x76 => true
  | 0x77 => subop w ≤ 9 && subop w ≠ 5
  | 0x78 => bits w.toNat 19 6 = 0 || bits w.toNat 19 6 = 2
  | 0x79 => subop w ≤ 4 && subop w ≠ 1
  | 0x7A => subop w = 0 || subop w = 1 || subop w = 4 || subop w = 6
  | _ => false

/-- Registers a source code names: vector registers 0-63, scalars 64-95. -/
def useSrc (wide : Bool) (c : BitVec 7) : List Nat :=
  if c.toNat < 96 then (if wide then [c.toNat, c.toNat + 1] else [c.toNat]) else []

/-- A run of `n` registers. -/
def run (k n : Nat) : List Nat := (List.range n).map (· + k)

/-- Registers of a memory datum by size code (09 Table 9-2). -/
def ldRegs (szop : Nat) : Nat := if szop = 5 then 2 else if szop = 6 then 4 else 1

/-- Registers of an LDT or STT run (09 Table 9-6). -/
def ldtRegs (szop : Nat) : Nat := 8 * 2 ^ szop

/-- Registers of an ATOM operand (09 R184). -/
def atomRegs (szop : Nat) : Nat := if szop = 12 || szop = 13 then 2 else 1

/-- Registers that hold the data of an ST or POST: none where it is a latch (06 R129). -/
def stRegs (d n : Nat) : List Nat := if d < 56 then run d n else []

/-- Registers a word writes from `d`: none with NWB. -/
def dstRegs (nwb : Bool) (d n : Nat) : List Nat := if nwb then [] else run d n

/-- Vector registers of a predicated word that reads A, or A and B, and writes one register. -/
def useA (f : FmtA) : List Nat × List Nat := (useSrc false f.a, dstRegs f.n f.d.toNat 1)
def useAB (f : FmtA) : List Nat × List Nat := (useSrc false f.a ++ useSrc false f.b, dstRegs f.n f.d.toNat 1)

/-- Registers an instruction reads and writes, for the check of 06 R119; `width` gives the length of a tile run (11 R257) and of an image
(11 R241). An operand the form does not use, and a destination under NWB, are none. -/
def regUse (width : Nat) : Instr → List Nat × List Nat
  | .iadd f | .isub f | .imul f | .andW f | .orW f | .xorW f | .andn f | .shl f | .shr f | .sar f | .rotl f | .bfx f | .fadd f
  | .fmul f | .fmin f | .fmax f | .fscale f => useAB f
  | .movxw f => (useSrc false f.a ++ useSrc false f.b, [])
  | .iabs f | .popc f | .clz f | .brev f | .mov f | .fclass f | .rcp f | .rsq f | .sqrt f | .ex2 f | .lg2 f | .sin f | .cos f
  | .tanh f | .movx f => useA f
  | .p2v f => ([], dstRegs f.n f.d.toNat 1)
  | .v2p f => (useSrc false f.a, [])
  | .v2s f => (useSrc false f.a, dstRegs f.n (64 + f.d.toNat) 1)
  | .imulh f _ | .imin f _ | .imax f _ | .sel f _ | .duadd f _ | .dumul f _ | .dumin f _ | .dumax f _ => useAB f
  | .imad f x | .ffma f x | .dufma f x | .fdot4 f x | .idot4 f x | .bfi f x =>
    (useSrc false f.a ++ useSrc false f.b ++ useSrc false x.sc, dstRegs f.n f.d.toNat 1)
  | .imadw f x => (useSrc false f.a ++ useSrc false f.b ++ useSrc true x.sc, dstRegs f.n f.d.toNat 2)
  | .iset f x | .fset f x | .duset f x => (useSrc (decide (6 ≤ x.ty.toNat) && decide (x.ty.toNat < 8)) f.a ++
      useSrc (decide (6 ≤ x.ty.toNat) && decide (x.ty.toNat < 8)) f.b, [])
  | .lea f _ => (useSrc true f.a ++ useSrc false f.b, dstRegs f.n f.d.toNat 2)
  | .frnd f _ | .redx f _ | .scan f _ | .vote f _ => useA f
  | .cvt f x =>
    let wide := typeBits (x.sub.toNat % 32) = 64
    (useSrc wide f.a ++ (if typeBits x.ty.toNat < 32 then useSrc wide f.b else []) ++ (if 32 ≤ x.sub.toNat then [f.d.toNat] else []),
      dstRegs f.n f.d.toNat (if typeBits x.ty.toNat = 64 then 2 else 1))
  | .zpk f _ | .mxpk f _ => useA f
  | .zupk f _ | .mxupk f _ => useAB f
  | .plop _ _ => ([], [])
  | .shfl f x => (useSrc (x.ty = 6) f.a ++ useSrc false f.b, dstRegs f.n f.d.toNat (if x.ty = 6 then 2 else 1))
  | .matchW f x => (useSrc (x.ty = 6) f.a, dstRegs f.n f.d.toNat 1)
  | .movi f => ([], dstRegs f.n f.d.toNat 1)
  | .moviH f => ([f.d.toNat], dstRegs f.n f.d.toNat 1)
  | .sadd f | .ssub f | .smul f | .sand f | .sor f | .sxor f | .sshl f | .sshr f | .ssetEq f | .ssetNe f | .ssetLt f | .ssetGe f
  | .ssetLtu f | .ssetGeu f => (useSrc false f.a ++ useSrc false f.b, dstRegs f.n (64 + f.d.toNat) 1)
  | .smov f => (useSrc false f.a, dstRegs f.n (64 + f.d.toNat) 1)
  | .smovi f => ([], dstRegs f.n (64 + f.d.toNat) 1)
  | .smoviH f => ([64 + f.d.toNat], dstRegs f.n (64 + f.d.toNat) 1)
  | .saddImm f | .sandImm f | .sshlImm f | .sshrImm f => (useSrc false f.a, dstRegs f.n (64 + f.d.toNat) 1)
  | .ld f => (useSrc (f.space = 0) f.addr, run f.data.toNat (ldRegs f.szop.toNat))
  | .ldt f => (useSrc (f.space = 0) f.addr, run f.data.toNat (ldtRegs f.szop.toNat))
  | .st f => (useSrc (f.space = 0) f.addr ++ stRegs f.data.toNat (ldRegs f.szop.toNat), [])
  | .stt f => (useSrc (f.space = 0) f.addr ++ run f.data.toNat (ldtRegs f.szop.toNat), [])
  | .atom f => (useSrc (f.space = 0) f.addr ++ run f.data.toNat (atomRegs f.szop.toNat), run f.data.toNat (atomRegs f.szop.toNat))
  | .cas f => (useSrc (f.space = 0) f.addr ++ run f.data.toNat (if f.szop = 5 then 4 else 2),
      run f.data.toNat (if f.szop = 5 then 2 else 1))
  | .post f => (useSrc (f.space = 0) f.addr ++ stRegs f.data.toNat (if f.szop = 9 || f.szop = 10 then 2 else 1), [])
  | .migrate f | .migrateOne f => (useSrc (f.space = 0) f.addr, [])
  | .home f => (useSrc (f.space = 0) f.addr, [f.data.toNat])
  | .mvacc f _ => (run f.a.toNat (256 / width), [])
  | .maccv f _ => ([], run f.d.toNat (256 / width))
  | .mma f x => (run f.a.toNat (512 / width) ++ run f.b.toNat (512 / width) ++ useSrc false x.sc ++
      (if x.sub.toNat % 4 = 2 then [64 + x.sub.toNat / 4] else []), [])
  | .mzero f | .mscl f => (useSrc false f.a, [])
  | .brx a | .callr a | .loop a _ => (useSrc false a, [])
  | .jmpt a b => (useSrc false a ++ useSrc false b, [])
  | .bar d a _ o => if o = 0 then ([], []) else (useSrc false a, [d.toNat])
  | .arrive a _ o => (if o = 0 then [] else useSrc false a, [])
  | .await d _ o => ([], if o then [d.toNat] else [])
  | .gets d i => ([], run d.toNat (if i = 5 || i = 7 || i = 20 then 2 else 1))
  | .sets i b => (useSrc (decide (i = 5) || decide (i = 7) || decide (i = 20)) b, [])
  | .step d a b | .resume d a b => (useSrc true a ++ useSrc false b, [64 + d.toNat])
  | .joink d a => (useSrc true a, run (64 + d.toNat) 2)
  | .rdctx d a b | .wrctx d a b => (useSrc true a ++ useSrc true b, [64 + d.toNat])
  | _ => ([], [])

/-- Does the word write registers with a long-latency result (06 R122)? -/
def isLongLatency : Instr → Bool
  | .ld _ | .ldt _ | .atom _ | .cas _ | .maccv .. | .rdctx .. | .joink .. => true
  | _ => false

/-- Bits [24:19], [17:11] and [10:4] of a word: DST, SA, SB. -/
def fieldD : Nat := 0x1F80000
def fieldA : Nat := 0x3F800
def fieldB : Nat := 0x7F0

/-- The word without the bits its form must leave zero, so that its registers are seen whatever else it breaks (06 R119, R134). -/
def cleanWord (w : Word) : Word :=
  let keep (m : Nat) : Word := w &&& BitVec.ofNat 32 (0xFE00000F + m)
  match w.toNat / 2 ^ 25, subop w with
  | 0x77, 0 | 0x77, 1 => keep fieldA
  | 0x77, 3 => keep (fieldA + fieldB)
  | 0x77, _ => keep 0
  | 0x78, _ => match bits w.toNat 19 6 with
    | 0 => keep (fieldD + fieldA + 0xF0)
    | 1 => keep (fieldD + 0xFFF0)
    | _ => keep fieldD
  | 0x79, 0 => keep (fieldD + fieldA + fieldB)
  | 0x79, 1 => keep (fieldA + fieldB)
  | 0x79, 2 => keep (fieldD + 0x790)
  | 0x79, 3 => keep 0x780
  | 0x79, 4 => keep (fieldD + fieldA)
  | 0x7A, 0 | 0x7A, 4 | 0x7A, 6 => keep fieldB
  | 0x7A, 2 => keep (fieldD + fieldA)
  | 0x7A, 3 => keep (fieldA + fieldB)
  | 0x7A, _ => keep 0
  | 0x7B, _ => keep (fieldD + fieldA + fieldB)
  | 0x55, _ => w &&& ~~~0xF
  | _, _ => w

/-- The instruction whose opcode, subop and operands a word has, its unused and reserved bits aside. -/
def looseInstr (w x : Word) : Option Instr :=
  match decRaw (cleanWord w) (x &&& ~~~0xF) with
  | .ok i => some i
  | .error _ => none

/-- Walk the words of a clause of class `cls` (06 R119): `longs` are registers written by earlier long-latency words. -/
def clauseWords (cls width : Nat) : Nat → List Nat → List Word → Bool
  | 0, _, _ => true
  | _ + 1, _, [] => true
  | n + 1, longs, w :: rest =>
    if w.toNat / 2 ^ 26 = 0b111110 then false
    else match wordClass w with
      | none => clauseWords cls width n longs rest
      | some k =>
        if k ≠ 0 && k ≠ cls then false
        else if hasSecond w && rest.isEmpty then false
        else if wordTerminal w && !rest.isEmpty then false
        else
          let after := if hasSecond w then rest.drop 1 else rest
          match looseInstr w (rest.headD 0) with
          | none => clauseWords cls width n longs after
          | some i =>
            let u := regUse width i
            if (u.1 ++ u.2).any fun r => longs.contains r then false
            else clauseWords cls width n (if isLongLatency i then longs ++ u.2 else longs) after

/-- N of a header (06 Table 6-6). -/
def hdrN (h : Word) : Nat := bits h.toNat 22 4

/-- Is a clause of the right form: header and the words that follow it (06 R119)? -/
def clauseOk (width : Nat) (h : Word) (ws : List Word) : Bool :=
  isHeader h && hdrN h ≠ 0 && clauseWords (bits h.toNat 19 3) width 16 [] ws

/-! ## Fetch -/

/-- Are the wait slots of a mask all zero? -/
def Ctx.slotsZero (c : Ctx) (m : BitVec 8) : Bool := (List.range 8).all fun k => !m.getLsbD k || mget c.wslot k 0 = 0

/-- May a group's words move at all: not parked, not waiting for windows, and not stopped but for a step of this path. -/
def Ctx.awake (c : Ctx) (e : Nat) : Bool :=
  c.parked.isNone && c.grow = 0 && c.lineWait.isEmpty &&
    match c.stop, c.step with
    | none, _ => c.place = .active
    | some _, some t => t.entry = e && (!t.issued || t.clause) && (c.place = .active || c.place = .pending)
    | some _, none => false

/-- Does a departure, a split or a visit chain hold the path where it stands? The path of a chain issues its word at each stop, once
the results of the stop before are written (07 R151); the others run to their boundary. -/
def State.departing (s : State) (cid : Nat) (c : Ctx) (e : Nat) : Bool :=
  (c.leaving.isSome && (!(c.path e).started || c.leaving = some e)) ||
    match c.chain with
    | [] => false
    | h :: _ => if e = c.chainEntry then (s.accs.any fun a => a.ctx = cid) || h.1 ≠ gsOf c.gc || (h.2.isSome && h.2 ≠ some c.gc)
      else !(c.path e).started

/-- Can the next clause, or the rest of the clause, of a path issue (14 R322): its waits are satisfied? A header that does not translate
can: it parks. -/
def State.pathCanRun (s : State) (cid : Nat) (c : Ctx) (e : Nat) : Bool :=
  c.runnable e && !s.frozen c && !s.departing cid c e && !s.skidSpent cid e &&
    match (c.path e).clause with
    | some k => c.slotsZero k.wait
    | none => match s.codeWord c (c.path e).pc with
      | (_, .ok h) => c.slotsZero (h.extractLsb' 11 8)
      | (_, .error _) => true

/-- The stall reason of a wait on slots (16 Table 16-6): wait-engine where a command of the group counts in one of them, else wait-memory. -/
def State.slotReason (s : State) (cid : Nat) (m : BitVec 8) : StallCode :=
  let counts (k : Cmd) : Bool := match k.kind with
    | .mma _ ps | .mloop _ _ _ ps => ps.any fun p => p.ctx = cid && m.getLsbD p.slot
    | _ => k.waiters.contains cid && (k.slot.any fun n => m.getLsbD n)
  if s.cmds.any fun k => !k.kind.isCtxCopy && counts k then 11 else 2

/-- CLAUSE_FETCH (06 R119): probe the clause's words, check its form, then hold it in the path's buffer; a clause of class 2-4 on
another core than the birth core sends the group there (07 R142), and unsatisfied waits take it out of the active set once no other path of it
can run. The flags of engine words whose slots it waited on land (02 Table 2-7). In a step only the stepped path fetches (13 R306). -/
def execClauseFetch (cid entry : Nat) (s : State) : Out :=
  match s.ctx? cid with
  | none => .next s
  | some c =>
    let p := c.path entry
    let ready := c.runnable entry && !s.frozen c && p.clause.isNone && c.parked.isNone && c.depart.isNone && c.split.isEmpty && c.grow = 0 &&
      (c.stop.isNone || (c.step.map (·.entry)) = some entry) && (c.place = .active || c.place = .pending) && !(c.visits.any fun v => v.entry = entry)
    if !ready then .next s else
    match s.codeWord c p.pc with
    | (s, .error m) => .next (s.park cid entry ⟨m.1, 0, m.2, 10, 0, false, (c.codeBase + p.pc) % 2 ^ 64, p.pc, p.mask⟩)
    | (s, .ok h) =>
      let bad (s : State) : State := s.takeTrap cid entry p.pc (plainReport 0x03 p.pc p.mask)
      if !isHeader h || hdrN h = 0 then .next (bad s) else
      match s.codeWords c ((List.range (hdrN h)).map fun i => p.pc + 4 * (i + 1)) with
      | (s, .error (_, m)) => .next (s.park cid entry ⟨m.1, 0, m.2, 10, 0, false, (c.codeBase + p.pc) % 2 ^ 64, p.pc, p.mask⟩)
      | (s, .ok ws) =>
        if !clauseOk c.width h ws then .next (bad s) else
        let cls := bits h.toNat 19 3
        let wait := h.extractLsb' 11 8
        if 2 ≤ cls && cls ≤ 4 && c.gc ≠ c.birthGc then
          .next ((s.setCtx cid { c with depart := some ⟨.birth, entry, gsOf c.birthGc, some c.birthGc⟩ }).swapOut cid 3)
        else if !c.slotsZero wait then
          let why := s.slotReason cid wait
          let others := (List.range 8).any fun e => e ≠ entry && s.pathCanRun cid c e
          .next (if others then s.setCtx cid { c with stall := why } else s.swapOut cid why)
        else
          let k : Clause := ⟨p.pc, cls, bits h.toNat 8 3, wait, h.extractLsb' 0 8, ws, []⟩
          let due (f : Nat × Mask × BitVec 7) : Bool := wait.getLsbD f.1
          let c' : Ctx := { c.setPath entry { p with clause := some k, pc := p.pc + 4, latches := [] } with
                stall := 15
                slotFlags := c.slotFlags.filter fun f => !due f }
          let s := s.setCtx cid c'
          let land (s : State) (f : Nat × Mask × BitVec 7) : State := (lanesOf (f.2.1 &&& c.lanes)).foldl (fun s l => s.raiseFlags cid entry l c.reg0 f.2.2) s
          .next ((c.slotFlags.filter due).foldl land s)

/-! ## Issue -/

/-- Does the path stand at a boundary, or wait at the migrating word that ends its clause (06 R125)? -/
def Path.atEdge (p : Path) : Bool :=
  !p.started || match p.clause with
    | some k => (match k.words with
      | [w] => wordClass w = some 1 && wordTerminal w
      | _ => false)
    | none => true

/-- What the path holds next: the instruction its words decode to, or none where they are no instruction (0x01). -/
def Path.nextInstr (p : Path) : Option Instr :=
  match p.clause with
  | some k =>
    match k.words with
    | [] => none
    | w :: rest => match decode2 w (rest.headD 0) with
      | .ok i => some i
      | .error _ => none
  | none => none

/-- Does the path stand at an ELECT while another path holds the leader (13 R290)? -/
def Ctx.electWaits (c : Ctx) (e : Nat) : Bool := c.leader.isSome && c.leaderPath ≠ e && (c.path e).nextInstr = some .elect

/-- Is an access or post of the group that a precise firing held, and its resume set free, still to perform (16 R355)? -/
def State.owesHeld (s : State) (cid : Nat) (c : Ctx) : Bool :=
  (s.accs.any fun a => a.ctx = cid && a.due) || s.chan.any fun m => m.due && match m.body with
    | .post p => p.team = c.team && p.gidx = c.gidx && p.part = c.part
    | _ => false

/-- Is a path eligible: can its next word issue (14 R324)? -/
def State.eligible (s : State) (cid : Nat) (c : Ctx) (e : Nat) : Bool :=
  c.runnable e && c.awake e && !s.frozen c && !s.departing cid c e && !s.skidSpent cid e && !c.electWaits e && !s.owesHeld cid c &&
    match (c.path e).clause with
    | some k => !k.words.isEmpty && c.slotsZero k.wait
    | none => false

/-- Is a pending group eligible (14 R322): neither stopped nor parked, nor waiting for windows or lines, and with a path that can run? -/
def State.canRun (s : State) (cid : Nat) (c : Ctx) : Bool :=
  c.place = .pending && c.parked.isNone && c.stop.isNone && c.grow = 0 && c.lineWait.isEmpty && (List.range 8).any (s.pathCanRun cid c)

/-- Eligible paths of a group. -/
def State.eligibles (s : State) (cid : Nat) (c : Ctx) : List Nat := (List.range 8).filter fun e => s.eligible cid c e

/-- Number of set bits of a mask. -/
def maskCount (m : Mask) : Nat := (lanesOf m).length

/-- The stall reason a group shows (16 Table 16-6): what stops it as it stands, or else what it came to wait for last. Results are ready when the
next word issues, so that no path waits for an operand (timing). -/
def Ctx.stallNow (c : Ctx) : StallCode :=
  let live := c.validPaths
  let free := live.filter c.runnable
  let waiting (e : Nat) : Bool := (c.path e).hold || (c.path e).wait ≠ .none
  if c.stop.isSome || (!live.isEmpty && live.all fun e => (c.path e).stopped) then 9
  else if c.parked.isSome then 2
  else if !c.lineWait.isEmpty then 1
  else if c.grow ≠ 0 then 7
  else if c.leaving.isSome || !c.chain.isEmpty then 3
  else if free.any c.electWaits then 5
  else if free.isEmpty then
    if live.any fun e => (c.path e).wait = .matrix then 6
    else if c.inHandler && live.any (fun e => !(c.path e).handler && !waiting e) && !(live.any fun e => (c.path e).handler) then 14
    else if live.any waiting then 5
    else c.stall
  else if c.place = .active && free.all fun e => (c.path e).clause.isNone then 10
  else c.stall

/-- Pick the least by a rank; the earlier of equals. -/
def leastBy {α : Type} (le : α → α → Bool) : List α → Option α
  | [] => none
  | a :: rest =>
    match leastBy le rest with
    | none => some a
    | some b => if le a b then some a else some b

/-- Compare lists of numbers in order. -/
def lexLe : List Nat → List Nat → Bool
  | [], _ => true
  | _ :: _, [] => false
  | a :: as, b :: bs => if a = b then lexLe as bs else decide (a < b)

/-- Put an element in its place in a list sorted by a rank. -/
def insertBy {α : Type} (rank : α → List Nat) (a : α) : List α → List α
  | [] => [a]
  | b :: rest => if lexLe (rank a) (rank b) then a :: b :: rest else b :: insertBy rank a rest

/-- Sort by a rank, least first; equals keep their order. -/
def sortBy {α : Type} (rank : α → List Nat) : List α → List α
  | [] => []
  | a :: rest => insertBy rank a (sortBy rank rest)

/-- Is the path promoted on its core (14 R324)? -/
def State.isPromoted (s : State) (gc cid e : Nat) : Bool := (s.core gc).promoted.contains (cid * 8 + e)

/-- Rank of a path within its group: promoted first, most lanes, lower entry. -/
def State.pathRank (s : State) (gc cid : Nat) (c : Ctx) (e : Nat) : List Nat :=
  [b2n !(s.isPromoted gc cid e), 64 - maskCount (c.path e).mask, e]

/-- Rank of a group: one with a promoted eligible path first, then the oldest last issue, then the earliest in the active set. -/
def State.groupRank (s : State) (gc cid : Nat) (c : Ctx) : List Nat :=
  [b2n !((s.eligibles cid c).any fun e => s.isPromoted gc cid e), c.lastIssue, c.activeAt, cid]

/-- Groups of a core with an eligible path. -/
def State.ready (s : State) (gc : Nat) : List (Nat × Ctx) := (s.residents gc).filter fun kc => !(s.eligibles kc.1 kc.2).isEmpty

/-- The best path of a group. -/
def State.bestPath (s : State) (gc cid : Nat) (c : Ctx) (es : List Nat) : Option Nat :=
  leastBy (fun a b => lexLe (s.pathRank gc cid c a) (s.pathRank gc cid c b)) es

/-- The eligible paths of a core, in the order in which they take issue position 0 (14 R324): context and path. -/
def State.ranked (s : State) (gc : Nat) : List (Nat × Nat) :=
  (sortBy (fun kc => s.groupRank gc kc.1 kc.2) (s.ready gc)).flatMap fun kc =>
    (sortBy (s.pathRank gc kc.1 kc.2) (s.eligibles kc.1 kc.2)).map fun e => (kc.1, e)

/-- The word of issue position 0: context and path. -/
def State.choose (s : State) (gc : Nat) : Option (Nat × Nat) := (s.ranked gc).head?

/-- Class of the word a path issues next. -/
def Path.nextClass (p : Path) : Nat := ((p.clause.bind fun k => k.words.head?).bind wordClass).getD 0

/-- Two words that never share a cycle (14 R326). -/
def classClash (a b : Nat) : Bool := (a = b && (a = 1 || a = 6 || a = 7)) || (2 ≤ a && a ≤ 4 && 2 ≤ b && b ≤ 4)

/-- Put the chosen word under the cursor: scalars of the cycle's start are kept for the word of position 1 (10 R210). -/
def State.aim (s : State) (cid e : Nat) (second : Bool) : State :=
  match s.ctx? cid with
  | none => s
  | some c =>
    let keep := second && decide (s.cursor.ctx = cid)
    { s.setCtx cid (if keep then c else { c with sPrev := c.sregs }) with
          cursor := ⟨cid, e, second, if second then s.cursor.cls else (c.path e).nextClass, none⟩ }

/-- A header that issues its first word is traced (16 Table 16-5). -/
def State.traceHeader (s : State) (cid e : Nat) : State :=
  match (s.ctx? cid).bind fun c => (c.path e).clause.filter fun _ => !(c.path e).started with
  | some k => s.trace cid 5 (k.base + e * 2 ^ 32)
  | none => s

/-- The execute class at a word (16 R345): a precise firing stops the issuer before the word, which is not shown again when it issues. -/
def State.watchExecute (s : State) (cid e : Nat) : State × Bool :=
  match s.ctx? cid with
  | none => (s, false)
  | some c =>
    if (s.core c.gc).preds.isEmpty || (c.seen.any fun x => x.1 = e && x.2.1 = (c.path e).pc) then (s, false) else
    match s.probeCode c (c.path e).pc with
    | (s, .error _) => (s, false)
    | (s, .ok r) =>
      let lanes := c.pathLanes e
      let (s, fs) := s.watchCore c.gc true ⟨6, refPa r, 4, c.pslot, some (lowLane lanes, c.gidx, c.reg0), 0⟩ (fun _ _ => 0)
      match s.fire fs (gsOf c.gc) (.path cid e) c.pslot (refPa r) lanes with
      | (s, some ev) => ((s.updCtx cid fun c => { c with seen := some (e, (c.path e).pc, false) }).stopIssuer ev (.path cid e), true)
      | (s, none) => (s, false)

/-- The targets that the lanes of a branching word take (06 R121), where its operands can be read and its table fetched. -/
def Env.branchTargets (e : Env) (i : Instr) : State × List (Nat × Nat × Bool) :=
  let ls := lanesOf e.lanes
  match i with
  | .brx a | .callr a =>
    (e.s, if (e.srcDefects .i32 a.toNat).isEmpty then ls.map fun l => (l, e.read .i32 a.toNat l, false) else [])
  | .ret | .tret => (e.s, (ls.filter fun l => e.c.depth l ≠ 0).map e.c.retDest)
  | .jmpt a b =>
    if !(e.srcDefects .i32 a.toNat ++ e.scalarDefects .i32 b.toNat).isEmpty then (e.s, []) else
    let tab := e.read .i32 b.toNat 0
    match e.s.codeWords e.c [tab, tab + 4] with
    | (s, .ok [nw, jw]) =>
      let n := nw.toNat
      if n = 0 || 256 < n then (s, []) else
      let idx (l : Nat) : Nat := e.read .i32 a.toNat l
      let ins := ls.filter fun l => decide (idx l < n)
      match s.codeWords e.c (ins.map fun l => tab + 8 + 4 * idx l) with
      | (s, .ok ts) =>
        (s, (ins.zip ts).map (fun lt => (lt.1, lt.2.toNat, false)) ++ (ls.filter fun l => !decide (idx l < n)).map fun l => (l, jw.toNat, true))
      | (s, .error _) => (s, [])
    | (s, _) => (s, [])
  | _ => (e.s, [])

/-- The fault of a word that is no instruction (06 R134): 0x01, precisely; a branching word whose lanes take a target that is no header
raises 0x03 before it (06 Table 6-17). A target that does not translate is none (log 74, DESIGN CHOICE). -/
def execIllegal (s : State) : Out :=
  withIssuer s fun e =>
    match (e.p.clause.bind fun k => k.words.head?).bind fun w => looseInstr w 0 with
    | none => e.fault 0x01 e.lanes
    | some i =>
      let (s, ts) := e.branchTargets i
      match s.checkTargets e.c e.p.pc (e.spread ts) with
      | (s, some (.notHeader ls)) => ({ e with s := s } : Env).fault 0x03 ls
      | (s, _) => ({ e with s := s } : Env).fault 0x01 e.lanes

/-- Has a step of the context come to its end: its word issued, and in clause mode the path at a boundary (13 R306)? -/
def Ctx.stepOver (c : Ctx) (t : Stepping) : Bool := t.issued && (!t.clause || !(c.path t.entry).started)

/-- Is something of a stepped group still to perform: an access, a move, a kept POST, an arrival (13 R306, 20 R401)? -/
def State.stepping (s : State) (cid : Nat) (c : Ctx) : Bool :=
  c.depart.isSome || !c.split.isEmpty || !c.chain.isEmpty || !c.visits.isEmpty || (s.accs.any fun a => a.ctx = cid) ||
    s.bars.any fun b => b.team = c.team && b.gidx = c.gidx && b.lanes &&& c.lanes ≠ 0

/-- After a stepped word or clause has performed in full the group stops again with code 0x81, at the boundary its loop rounds leave it at, its
record rewritten in REASON, SKID, PC and CYCLE (13 R306; 20 R401, R402); where the word fired a predicate the stop is that one (16
R359). -/
def State.endStep (s : State) (cid : Nat) : State :=
  match s.ctx? cid with
  | none => s
  | some c =>
    match c.step, c.stop with
    | some t, some st =>
      if !c.stepOver t || s.stepping cid c then s else
      match s.stops.find? fun m => m.matching && (m.target = .group cid || m.target = .path cid t.entry) with
      | some m => s.takeStop m
      | none =>
        let c := c.rounds 3
        let r := { c.stopRec.getD (groupRec s c t.entry 0x81) with
          reason := 0x81
          skid := 0
          pc := c.stopPc t.entry
          cycle := s.now c.gc
          gs := gsOf c.gc
          core := coreNo c.gc }
        let d := { c with step := none, stop := some { st with code := 0x81 }, stopRec := some r, stall := 9
                          place := if c.place = .active then .pending else c.place }
        (((s.setCtx cid d).putRec (gsOf c.gc) c.placeIdx r (some cid)).stallOut cid c.place 9).trace cid 10 0x81
    | _, _ => s

/-- Did the word leave its path where it was: a word held at issue (06 R122, 09 R192, R203)? -/
def Path.sameSpot (p q : Path) : Bool := p.v = q.v && p.pc = q.pc && p.clause.isSome && q.clause.isSome

/-- Has the word of a chain performed at a stop already (07 R151)? -/
def Ctx.chainBegun (c : Ctx) : Bool := c.chainDone ≠ 0 || !c.chainSec.isEmpty

/-- Did the word of path `e` issue: it left its spot, or performed at the first stop of a chain (07 R151)? -/
def wordIssued (c d : Ctx) (e : Nat) : Bool := !c.chainBegun && (!(c.path e).sameSpot (d.path e) || d.chainBegun)

/-- What goes with every word that issued, `p` being its path before and `before` the first handle given out since: promotion ends, skid is
counted, a step may end. -/
def State.issued (s : State) (gc cid e before : Nat) (p : Path) : State :=
  if (((s.ctx? cid).map fun c => p.sameSpot (c.path e)).getD false) then s else
  let s := (s.updCore gc fun k => { k with promoted := k.promoted.filter (· ≠ cid * 8 + e) }).countSkid cid e before
  let s := s.updCtx cid fun c => { c with
    stall := if c.place = .active then 15 else c.stall
    seen := none
    atWord := if c.atWord = some e then none else c.atWord
    step := match c.step with
      | some t => if t.entry = e then some { t with issued := true } else c.step
      | none => none }
  s.endStep cid

end Sys2Proof.Machine
end

