-- ==== Sys2Proof/Machine/Memory.lean ====
section
/-! DEFINITION. The memory words at issue (09 R178-R190): operand checks, orders (08 R163-R165), probe, homes, and the access records or
posts they send. What performs later is Machine/Perform.lean. -/

namespace Sys2Proof.Machine

/-! ## Operands -/

/-- Position of the address operand (03 R44, 09 R178). -/
def addrPos (sp : Nat) : Pos := if sp = 0 then .i64 else .i32

/-- Defects of the address operand: in the global space a constant or special is no 64-bit operand (09 R178). -/
def Env.addrDefects (e : Env) (f : FmtM) : List Nat :=
  if f.space = 0 && decide (104 ≤ f.addr.toNat) then [2] else e.srcDefects (addrPos f.space.toNat) f.addr.toNat

/-- A lane's address. -/
def Env.addr (e : Env) (f : FmtM) (l : Nat) : Nat := e.read (addrPos f.space.toNat) f.addr.toNat l

/-- Defects of a run of `n` registers from `k` that must be aligned to `n` (06 R108, 09 Table 9-6). -/
def Env.runDefects (e : Env) (k n align : Nat) : List Nat :=
  (if k % align ≠ 0 || 64 < k + n then [2] else []) ++ (if e.c.unalloc (k + n - 1) then [4] else [])

/-- Source code of the data of an ST or POST: DATA 56-63 name the latches (06 R129). -/
def dataCode (d : Nat) : Nat := if d < 56 then d else d + 40

/-- Position of a data source of `n` bytes. -/
def dataPos (n : Nat) : Pos := if n = 8 then .i64 else .i32

/-- Defects of the data of an ST or POST of `n` bytes. -/
def Env.dataDefects (e : Env) (d n : Nat) : List Nat :=
  if n = 16 then (if d < 56 then e.runDefects d 4 4 else [2]) else e.srcDefects (dataPos n) (dataCode d)

/-- A run of registers of a lane as one number, lowest register first. -/
def Ctx.runVal (c : Ctx) (k l : Nat) : Nat → Nat
  | 0 => 0
  | n + 1 => (c.v k l).toNat + 2 ^ 32 * c.runVal (k + 1) l n

/-- The data of an ST or POST in a lane: its low `n` bytes. -/
def Env.dataVal (e : Env) (d n l : Nat) : Nat :=
  if n = 16 then e.c.runVal d l 4 else e.read (dataPos n) (dataCode d) l % 2 ^ (8 * n)

/-! ## Homes -/

/-- Order of homes (07 R150): package and stack, then core. -/
def homeKey (h : Nat × Option Nat) : Nat := h.1 * 32 + (match h.2 with
  | some gc => coreNo gc + 1
  | none => 0)

/-- Insert a home in ascending order, once. -/
def insertHome (h : Nat × Option Nat) : List (Nat × Option Nat) → List (Nat × Option Nat)
  | [] => [h]
  | k :: ks => if homeKey h = homeKey k then k :: ks else if homeKey h < homeKey k then h :: k :: ks else k :: insertHome h ks

/-- The home of an access. -/
def Home.spot (h : Home) : Nat × Option Nat := (h.gs, h.core)

/-- Does the group stand at a home: its stack, and for the team space its core (03 R45)? -/
def Ctx.atHome (c : Ctx) (h : Nat × Option Nat) : Bool :=
  h.1 = gsOf c.gc && match h.2 with
    | some gc => gc = c.gc
    | none => true

/-- What a word asks of memory. -/
structure MemWord where
  want : Want
  kind : AccKind
  cls : Nat
  sz : Nat
  /-- Sectors per lane: 1, or those of an LDT or STT run. -/
  sectors : Nat
  /-- First data register a lane's sector fills or is taken from. -/
  reg : Nat
  long : Bool
  dst : List Nat
  migrates : Bool
  /-- Data and compare value of a lane. -/
  data : Nat → Nat
  cmp : Nat → Nat

/-- Pseudo-lanes of a probe: every sector of every lane still to do, lanes ascending (09 R190); `done` counts those that earlier stops of a
chain performed. Where a run's sectors fail with different codes the lowest failing sector's code is the lane's, and a lane fails with
every code of its sectors (log 75, DESIGN CHOICE: 03 R60 ranks lanes only). -/
def laneSectors (ls : List (Nat × Nat)) (k : Nat) (done : Map Nat) : List (Nat × Nat) :=
  ls.flatMap fun la => ((List.range k).drop (mget done la.1 0)).map fun i => (la.1, la.2 + 32 * i)

/-- Homes of sectors in ascending order, each once (07 R150); a lane's home is that of its first sector still to do. -/
def sectorHomes (hs : List (Nat × Home)) : List (Nat × Option Nat) :=
  hs.foldl (fun l lh => insertHome (((hs.find? fun x => x.1 = lh.1).map (·.2.spot)).getD lh.2.spot) l) []

/-- The sectors a stop at home `h` performs, each lane's up to the first that is homed elsewhere, and those it leaves for later stops
(09 R180, R190; log 76, DEDUCED). -/
def stopSectors (h : Nat × Option Nat) (hs : List (Nat × Home)) : List (Nat × Home) × List (Nat × Home) :=
  hs.foldl (fun (acc : List (Nat × Home) × List (Nat × Home)) lh =>
    if homeKey lh.2.spot = homeKey h && !(acc.2.any fun x => x.1 = lh.1) then (acc.1 ++ [lh], acc.2) else (acc.1, acc.2 ++ [lh])) ([], [])

/-- Runs of sectors of one lane that stand one behind the other: the lane, the first's reference, how many, and where in the lane's part
of `hs` the run begins. -/
def sectorRuns (hs : List (Nat × Home)) : List (Nat × Nat × Nat × Nat) :=
  let step (acc : List (Nat × Nat × Nat × Nat)) (lh : Nat × Home) : List (Nat × Nat × Nat × Nat) :=
    match acc with
    | (l, r, k, o) :: rest =>
      if l = lh.1 && lh.2.ref = r + 32 * k then (l, r, k + 1, o) :: rest
      else (lh.1, lh.2.ref, 1, if l = lh.1 then o + k else 0) :: acc
    | [] => [(lh.1, lh.2.ref, 1, 0)]
  (hs.foldl step []).reverse

/-- Lines of a home that are absent (03 R64). -/
def State.absentLines (s : State) (hs : List (Nat × Home)) (n : Nat) : List Nat :=
  (hs.flatMap fun lh => match locKind lh.2.gs (paLoc (refPa lh.2.ref)) with
    | .scratch .. => (List.range ((refPa lh.2.ref + n - 1) / 128 - refPa lh.2.ref / 128 + 1)).map (· + refPa lh.2.ref / 128)
    | _ => []).filter fun k => mget s.absent k false

/-- Is an access the 16-byte store to a notify slot's DOOR, a doorbell, which performs as a release (04 R83)? -/
def isDoor (r n : Nat) : Bool :=
  let loc := paLoc (refPa r)
  n = 16 && decide (0x24010000000 ≤ loc) && decide (loc < 0x24010000000 + 16 * 65536) && loc % 1024 = 0

/-- The access records of the sectors homed here, the lanes' first `done` having performed before. -/
def MemWord.laneAccs (w : MemWord) (va : Nat → Nat) (done : Map Nat) (hs : List (Nat × Home)) : List LaneAcc :=
  let step (acc : List LaneAcc × Nat × Nat) (lh : Nat × Home) : List LaneAcc × Nat × Nat :=
    let i := if lh.1 = acc.2.1 then acc.2.2 else mget done lh.1 0
    (acc.1 ++ [⟨lh.1, lh.2.ref, w.want.n, w.reg + 8 * i, w.data lh.1 / 2 ^ (256 * i) % 2 ^ (8 * w.want.n), w.cmp lh.1,
      if va lh.1 = 0 then 0 else va lh.1 + 32 * i, lh.2.leaf, false⟩], lh.1, i + 1)
  (hs.foldl step ([], 64, 0)).1

/-- A lane's address for a run that stops have begun: as it was read at the first of them (09 R190; 01 R11). -/
def Env.runAddr (e : Env) (f : FmtM) (l : Nat) : Nat := if mget e.c.chainSec l 0 = 0 then e.addr f l else mget e.c.chainAddr l 0

/-- Did a precise core firing keep the path's word from issuing after its lanes were shown: they are not shown again (16 R351)? -/
def Env.lanesSeen (e : Env) : Bool := e.c.seen = some (e.e, e.p.pc, true)

/-- Show the lanes of a word, each once and in ascending order, to the core's predicates: before it issues to the precise ones, a run over pages
that do not follow each other as one access for each. A precise firing keeps it from issuing (16 R345, R351, R355). -/
def Env.watchLanes (e : Env) (s : State) (w : MemWord) (hs : List (Nat × Home)) (pre : Bool) : State × Bool :=
  if (s.core e.c.gc).preds.isEmpty || (pre && e.lanesSeen) then (s, false) else
  (sectorRuns hs).foldl (fun (s, stop) (l, ref, k, o) =>
    let i := o + mget e.c.chainSec l 0
    let ev : WEvent := ⟨w.cls, refPa ref, w.want.n * k, e.c.pslot, some (l, e.c.gidx, e.c.reg0), 0⟩
    let fld (lo k : Nat) : Nat := w.data l / 2 ^ (256 * i) / 2 ^ (8 * (lo - refPa ref)) % 2 ^ (8 * k)
    let (s, fs) := s.watchCore e.c.gc pre ev fld
    match s.fire fs (gsOf e.c.gc) (.path e.cid e.e) e.c.pslot (refPa ref) (laneBit l) with
    | (s, some id) =>
      if pre then ((s.updCtx e.cid fun c => { c with seen := some (e.e, e.p.pc, true) }).stopIssuer id (.path e.cid e.e), true) else (s, stop)
    | (s, none) => (s, stop)) (s, false)

/-- Note registers with a long-latency write of the clause (06 R122), by the access or command `handle`. -/
def Path.addLong (p : Path) (rs : List Nat) (handle : Nat) : Path :=
  match p.clause with
  | some k => { p with clause := some { k with longDst := k.longDst ++ rs.map fun r => (r, handle) } }
  | none => p

/-- The word issues for the sectors homed here: the access record, its slot count, and the path's step where nothing is left for another
stop of a chain (07 R151). -/
def Env.send (e : Env) (s : State) (f : FmtM) (w : MemWord) (hs left : List (Nat × Home)) : State :=
  match s.ctx? e.cid with
  | none => s
  | some c =>
    let slot := ((c.path e.e).clause.map (·.set)).getD 0
    let final := left.isEmpty
    let whole : Mask := maskOf ((hs.map (·.1)).filter fun l => !(left.any fun x => x.1 = l))
    let part := ((hs.map (·.1)).filter fun l => left.any fun x => x.1 = l).foldl (fun m l => mset m l (mget m l 0 + 1) 0) c.chainSec
    let acq := f.order = 1 || f.order = 3
    let (id, s) := s.fresh
    let a : Access := ⟨id, e.cid, e.e, w.kind, w.sz, w.laneAccs (fun l => if f.space = 0 then e.runAddr f l + 1 else 0) c.chainSec hs,
      if final && w.long then some slot else none, acq, none, false, c.reg0⟩
    let c : Ctx := if w.long && !c.chainBegun then { c with wslot := mset c.wslot slot (mget c.wslot slot 0 + 1) 0 } else c
    let c := { c with
      chain := sectorHomes left
      chainEntry := e.e
      chainDone := if final then 0 else c.chainDone ||| whole
      chainSec := if final then [] else part
      chainAddr := if final then [] else part.map fun (p : Nat × Nat) => (p.1, e.runAddr f p.1)
      seen := none
      chainAcq := acq && !final }
    let c : Ctx := if final then
        (c.setPath e.e ((c.path e.e).addLong w.dst id)).advance e.e 1 e.now none
      else { c with stall := 3 }
    let s := { s.setCtx e.cid c with accs := s.accs ++ [a] }
    if w.kind = .load then s else (e.watchLanes s w hs false).1

/-- The word leaves for its homes: one, a split, or the next stop of its chain (07 R144, R150, R151). -/
def Env.leaveFor (e : Env) (s : State) (act : Mask) (homes : List (Nat × Option Nat)) (at_ : List (Nat × (Nat × Option Nat))) : State :=
  let lanesAt (h : Nat × Option Nat) : Mask := maskOf ((at_.filter fun a => homeKey a.2 = homeKey h).map (·.1)) &&& act
  let c : Ctx := match homes with
    | [h] => { e.c with depart := some ⟨.access, e.e, h.1, h.2⟩ }
    | _ => { e.c with split := homes.map fun (h : Nat × Option Nat) => ⟨e.e, h.1, h.2, lanesAt h⟩ }
  (s.setCtx e.cid { c with stall := 3 }).swapOut e.cid 3

/-- The context with the chain of its own word aside: an order does not wait for the word's own earlier stops. -/
def Ctx.ownChain (c : Ctx) : Ctx := { c with chain := [] }

/-- Probe a memory word and issue it, or send the group to its homes (09 R180). A doorbell is a release (04 R83): it waits before the context
leaves, and takes a lost post (05 Table 5-4). -/
def Env.access (e : Env) (f : FmtM) (w : MemWord) : State :=
  let act := e.lanes &&& ~~~e.c.chainDone
  let ls := (lanesOf act).map fun l => (l, e.runAddr f l)
  match e.s.probeLanes e.c w.want f.space.toNat (laneSectors ls w.sectors e.c.chainSec) with
  | (s, hs, []) =>
    let homes := sectorHomes hs
    let e := { e with s := s }
    let chained := !e.c.chain.isEmpty
    let door := w.kind = .store && hs.any fun lh => isDoor lh.2.ref w.want.n
    if door && !s.released e.cid e.c.ownChain then s.setCtx e.cid { e.c with stall := 2 } else
    match homes with
    | [] => e.finish e.c 1
    | h :: rest =>
      if !e.c.atHome h || (!rest.isEmpty && !chained) then
        if chained then s.setCtx e.cid { e.c with chain := homes, chainEntry := e.e, stall := 3 }
        else if w.kind = .store && w.sz ≠ 16 && decide (56 ≤ f.data.toNat) then e.fault 0x05 e.lanes
        else e.leaveFor s act homes (hs.map fun lh => (lh.1, ((hs.find? fun x => x.1 = lh.1).map (·.2.spot)).getD lh.2.spot))
      else
        let (here, left) := stopSectors h hs
        match s.absentLines here w.want.n with
        | [] =>
          match e.watchLanes s w here true with
          | (s, true) => s
          | (s, false) =>
            let t := e.send s f w here left
            if door then t.updCtx e.cid Ctx.takeLost else t
        | ab => (s.setCtx e.cid { e.c with lineWait := ab }).swapOut e.cid 1
  | (s, _, ms) =>
    let ms := ms.map fun m => (m.1, ((ls.find? fun la => la.1 = m.1).map (·.2)).getD m.2.1, m.2.2)
    let r := missReport w.want.acls e.p.pc ms
    if r.code = 7 then s.takeTrap e.cid e.e e.p.nextHeader r else s.park e.cid e.e r

/-- Does ORDER hold a release? -/
def isRelease (o : BitVec 2) : Bool := o = 2 || o = 3

/-- Conditions that hold a memory word at issue: a pending acquire (08 R165), a release's wait (08 R164), a full slot (06 R122), the
clause's POSTs still to visit (07 R155), or a departure of another path. The later stops of a chain are one word with its first (07 R151). -/
def Env.ordered (e : Env) (f : FmtM) (long migrates : Bool) (body : State) : State :=
  let slot := (e.p.clause.map (·.set)).getD 0
  let own := !e.c.chain.isEmpty && e.c.chainEntry = e.e
  if !own && e.s.acquiring e.cid then e.hold 2
  else if isRelease f.order && !e.s.released e.cid (if own then e.c.ownChain else e.c) then e.hold 2
  else if long && !(own && e.c.chainBegun) && decide (255 ≤ mget e.c.wslot slot 0) then e.hold 13
  else if migrates && f.space ≠ 2 && ((e.c.visits.any fun v => v.entry = e.e) || e.c.leaving.isSome) then e.hold 3
  else if isRelease f.order then
    body.updCtx e.cid fun c => if e.p.sameSpot (c.path e.e) then c else c.takeLost
  else body

/-- A memory word with an access: checks, orders, probe. -/
def Env.memWord (e : Env) (f : FmtM) (ds regs : List Nat) (w : MemWord) : State :=
  let sp := f.space.toNat
  e.checked e.lanes (e.addrDefects f ++ ds) (srcRegs (addrPos sp) f.addr.toNat ++ regs) (e.ordered f w.long w.migrates (e.access f w))

/-! ## The words -/

/-- Bytes of an LD or ST size (09 Table 9-2). -/
def ldBytes (szop : Nat) : Nat :=
  match szop with
  | 0 | 1 => 1
  | 2 | 3 => 2
  | 4 => 4
  | 5 => 8
  | _ => 16

/-- Does aperture 3 accept a size (09 Table 9-3)? -/
def regSize (n : Nat) : Bool := n = 4 || n = 8 || n = 16

/-- LD (09 R183). -/
def execLd (f : FmtM) (s : State) : Out :=
  withIssuer s fun e =>
    let sz := f.szop.toNat
    let n := ldBytes sz
    let k := ldRegs sz
    let d := f.data.toNat
    e.memWord f (e.runDefects d k k) [] ⟨⟨1, n, true, regSize n, false⟩, .load, 0, sz, 1, d, true, run d k, true, fun _ => 0, fun _ => 0⟩

/-- ST (09 R183). -/
def execSt (f : FmtM) (s : State) : Out :=
  withIssuer s fun e =>
    let sz := f.szop.toNat
    let n := ldBytes sz
    let d := f.data.toNat
    e.memWord f (e.dataDefects d n) (stRegs d (ldRegs sz))
      ⟨⟨2, n, true, regSize n, false⟩, .store, 1, sz, 1, d, false, [], true, e.dataVal d n, fun _ => 0⟩

/-- ATOM (09 R184). -/
def execAtom (f : FmtM) (s : State) : Out :=
  withIssuer s fun e =>
    let sz := f.szop.toNat
    let k := atomRegs sz
    let d := f.data.toNat
    e.memWord f (e.runDefects d k k) (run d k)
      ⟨⟨3, 4 * k, false, false, false⟩, .atom, 2, sz, 1, d, true, run d k, true, fun l => e.c.runVal d l k, fun _ => 0⟩

/-- CAS (09 R185). -/
def execCas (f : FmtM) (s : State) : Out :=
  withIssuer s fun e =>
    let k := if f.szop = 5 then 2 else 1
    let d := f.data.toNat
    e.memWord f (e.runDefects d (2 * k) (2 * k)) (run d (2 * k))
      ⟨⟨3, 4 * k, false, false, false⟩, .cas, 2, f.szop.toNat, 1, d, true, run d k, true, fun l => e.c.runVal (d + k) l k, fun l => e.c.runVal d l k⟩

/-- LDT (09 R190). -/
def execLdt (f : FmtM) (s : State) : Out :=
  withIssuer s fun e =>
    let k := ldtRegs f.szop.toNat
    let d := f.data.toNat
    e.memWord f (e.runDefects d k 8) []
      ⟨⟨1, 32, true, false, false⟩, .load, 0, 16, 2 ^ f.szop.toNat, d, true, run d k, true, fun _ => 0, fun _ => 0⟩

/-- STT (09 R190). -/
def execStt (f : FmtM) (s : State) : Out :=
  withIssuer s fun e =>
    let k := ldtRegs f.szop.toNat
    let d := f.data.toNat
    e.memWord f (e.runDefects d k 8) (run d k)
      ⟨⟨2, 32, true, false, false⟩, .store, 1, 16, 2 ^ f.szop.toNat, d, false, [], true, fun l => e.c.runVal d l k, fun _ => 0⟩

/-- Bytes of a POST operation (09 Table 9-5). -/
def postBytes (op : Nat) : Nat :=
  match op with
  | 9 | 10 => 8
  | 11 => 2
  | 12 => 1
  | _ => 4

/-- Is a POST operation a store form (09 Table 9-3)? -/
def postStores (op : Nat) : Bool := op = 0 || op = 9 || op = 11 || op = 12

/-- POST (09 R186, R187; 07 R153, R155): each lane's operation is sent to its home in ascending lane order and counted in ANCHOR; under
VISIT it is kept for the end of the clause. -/
def execPost (f : FmtM) (s : State) : Out :=
  withIssuer s fun e =>
    let op := f.szop.toNat
    let n := postBytes op
    let d := f.data.toNat
    let want : Want := ⟨4, n, postStores op, false, !e.c.visit⟩
    let ls := (lanesOf e.lanes).map fun l => (l, e.addr f l)
    let w : MemWord := ⟨want, .store, 3, op, 1, d, false, [], false, e.dataVal d n, fun _ => 0⟩
    let regs := srcRegs (addrPos f.space.toNat) f.addr.toNat ++ stRegs d (if n = 8 then 2 else 1)
    e.checked e.lanes (e.addrDefects f ++ e.dataDefects d n) regs
      (e.ordered f false false
        (if e.c.visit then
          let v : VisitPost := ⟨e.e, e.p.pc, f, ls.map fun la => (la.1, la.2, e.dataVal d n la.1), none, false⟩
          e.finish { e.c with visits := e.c.visits ++ [v] } 1
        else match e.s.probeLanes e.c want f.space.toNat ls with
          | (s, hs, []) =>
            if !(hs.all fun lh => s.canSend (gsOf e.c.gc) lh.2.gs (planeOf (gsOf e.c.gc))) then e.hold 15 else
            match e.watchLanes s w hs true with
            | (s, true) => s
            | (s, false) =>
              match s.ctx? e.cid with
              | none => s
              | some c =>
                let src := gsOf c.gc
                let s := hs.foldl (fun s lh =>
                  let (id, s) := s.fresh
                  let p : PostMsg := ⟨c.team, c.gidx, c.part, c.splitGen, c.launch, c.pslot, c.reg0, lh.1, op, lh.2.ref, e.dataVal d n lh.1,
                    if f.space = 1 then e.addr f lh.1 + 1 else 0, if f.space = 0 then e.addr f lh.1 + 1 else 0, lh.2.leaf⟩
                  if s.reaches src lh.2.gs then
                    ({ s with chan := s.chan ++ [⟨id, src, lh.2.gs, .post p, none, false, false, false⟩] } : State).sendFlit src lh.2.gs (planeOf src) 1 id
                  else
                    ({ s with acks := s.acks ++ [⟨id, src, c.team, c.gidx, c.part, c.splitGen, src, true, false⟩] } : State).updPkg (pkgOf src)
                      fun k => { k with lostp := k.lostp + 1 }) s
                s.setCtx e.cid ({ c with anchor := c.anchor + hs.length }.advance e.e 1 e.now none)
          | (s, _, ms) =>
            let r := missReport 4 e.p.pc ms
            if r.code = 7 then s.takeTrap e.cid e.e e.p.nextHeader r else s.park e.cid e.e r))

/-- MIGRATE: probe checks 2 and 3 alone, then to the homes without an access (09 R188). `one` moves the whole group to the home of the
lowest active lane. -/
def Env.migrate (e : Env) (f : FmtM) (one : Bool) : State :=
  let sp := f.space.toNat
  e.checked e.lanes (e.addrDefects f) (srcRegs (addrPos sp) f.addr.toNat)
    (if sp = 2 then e.ordered f false false (e.finish e.c 1)
    else e.ordered f false true
      (let act := e.lanes &&& ~~~e.c.chainDone
      let ls := (lanesOf act).map fun l => (l, e.addr f l)
      match e.s.probeLanes e.c ⟨0, 0, true, true, false⟩ sp ls with
      | (s, hs, []) =>
        let at_ := hs.map fun lh => (lh.1, lh.2.spot)
        let all := at_.foldl (fun l a => insertHome a.2 l) []
        let homes := if one then (at_.head?.map fun a => [a.2]).getD [] else all
        let e := { e with s := s }
        let chained := !e.c.chain.isEmpty
        match homes with
        | [] => e.finish e.c 1
        | h :: rest =>
          if e.c.atHome h && rest.isEmpty then e.finish { e.c with chain := [], chainDone := 0, chainSec := [], chainAddr := [], chainAcq := false } 1
          else if chained then
            let done : Mask := maskOf ((at_.filter fun a => homeKey a.2 = homeKey h).map (·.1))
            let c : Ctx := if e.c.atHome h then
                { e.c with
                  chain := rest
                  chainDone := e.c.chainDone ||| done }
              else { e.c with chain := homes }
            s.setCtx e.cid { c with chainEntry := e.e, stall := 3 }
          else e.leaveFor s act homes at_
      | (s, _, ms) => s.park e.cid e.e (missReport 0 e.p.pc ms)))

/-- MIGRATE (09 R188, SZOP 0). -/
def execMigrate (f : FmtM) (s : State) : Out := withIssuer s fun e => e.migrate f false

/-- MIGRATE.ONE (09 R188, SZOP 1). -/
def execMigrateOne (f : FmtM) (s : State) : Out := withIssuer s fun e => e.migrate f true

/-- The home word (09 Table 9-6a). -/
def homeWord (r : Except Miss Home) : Nat :=
  match r with
  | .error (code, _) => 2 ^ 31 + code * 2 ^ 16
  | .ok h => h.aper * 2 ^ 26 + pkgOf h.gs * 2 ^ 10 + (match h.core with
      | some gc => coreNo gc
      | none => 31) * 2 ^ 5 + h.gs % 16

/-- Home words of lanes in ascending order. -/
def State.homeLanes (s : State) (c : Ctx) (sp : Nat) : List (Nat × Nat) → State × List (Nat × Nat)
  | [] => (s, [])
  | (l, a) :: rest =>
    let (s, r) := s.probe c ⟨0, 0, true, true, false⟩ sp a
    let (s, ws) := s.homeLanes c sp rest
    (s, (l, homeWord r) :: ws)

/-- HOME (09 R189): never migrates, never faults on translation. -/
def execHome (f : FmtM) (s : State) : Out :=
  withIssuer s fun e =>
    let sp := f.space.toNat
    let d := f.data.toNat
    e.checked e.lanes (e.addrDefects f ++ e.dstDefects false d) (srcRegs (addrPos sp) f.addr.toNat)
      (e.ordered f false false
        (let (s, ws) := e.s.homeLanes e.c sp ((lanesOf e.lanes).map fun l => (l, e.addr f l))
        match s.ctx? e.cid with
        | none => s
        | some c => s.setCtx e.cid ((c.writeV false d ws).advance e.e 1 e.now none)))

end Sys2Proof.Machine
end

