-- ==== Sys2Proof/Machine/Home.lean ====
section
/-! DEFINITION. Performing at a home (08 R157-R159, 03 R62): one access of plain memory with its watch and its poison, posts and their
acknowledgements (07 R153, R154; 09 R186), and waking at a line (03 R64). -/

namespace Sys2Proof.Machine

/-- What a home does for an access (08 Table 8-1). -/
inductive HomeOp where
  | read
  | write (v : Nat)
  | atom (op v : Nat)
  | cas (cmp new : Nat)
  deriving DecidableEq, Repr

/-- How an access ended: held by a precise firing, a fatal code, or the value read with the flags raised. -/
inductive Done where
  | held (ev : Nat)
  | fatal (code : Nat)
  | done (old : Nat) (fl : Flags)
  deriving DecidableEq, Repr

/-- The cell operation itself, one step of the bank (03 R62). -/
def State.bankDo (s : State) (ref n : Nat) (op : HomeOp) : State × Done :=
  let s := s.touchRow ref
  match op with
  | .write v => (s.refStore ref (bytesOf n v), .done 0 0)
  | _ =>
    match s.decodeRead ref n with
    | (s, 0) =>
      let old := s.refNum ref n
      match op with
      | .atom o v =>
        let (x, fl) := atomOp o old v
        (s.refStore ref (bytesOf n x), .done old fl)
      | .cas c v => (if old = c then s.refStore ref (bytesOf n v) else s, .done old 0)
      | _ => (s, .done old 0)
    | (s, code) => (s, .fatal code)

/-- Perform one access at its home: a precise home-side firing holds it unperformed; the other predicates see it afterwards. One that was held,
`shown`, performs at its issuer's resume and is not shown to the precise ones again (16 R345, R348, R351, R355). -/
def State.perform (s : State) (i : Issuer) (shown : Bool) (w : WEvent) (ref n : Nat) (op : HomeOp) : State × Done :=
  match if shown then (s, none) else s.watchAt i true w ref with
  | (s, some ev) => (s, .held ev)
  | (s, none) =>
    match s.bankDo ref n op with
    | (s, .done old fl) => ((s.watchAt i false { w with flags := fl } ref).1, .done old fl)
    | r => r

/-- Flits of a message (05 R94, R103). -/
def MsgBody.flits : MsgBody → Nat
  | .context _ n => n
  | .dump _ n => n
  | _ => 1

/-- Does a copy use every plane (05 R102)? -/
def CmdKind.striped : CmdKind → Bool
  | .copy k => !k.ord && k.stripe
  | _ => false

/-- The command of a tile message. -/
def MsgBody.cmd? : MsgBody → Option Nat
  | .tileRead k _ | .tileWrite k _ => some k
  | _ => none

/-- Is a message a tile of a striped copy, which leaves its stack's order (05 R92, R93)? -/
def State.stripedMsg (s : State) (m : Msg) : Bool :=
  match m.body.cmd?.bind s.cmd? with
  | some c => c.kind.striped
  | none => false

/-- Do two accesses meet in a byte? -/
def overlaps (r n r' n' : Nat) : Bool := decide (refCell r < refCell r' + n') && decide (refCell r' < refCell r + n)

/-- Is a post one of this context's? -/
def PostMsg.ofCtx (p : PostMsg) (c : Ctx) : Bool := p.team = c.team && p.gidx = c.gidx && p.part = c.part && p.splitGen = c.splitGen

/-- The context a post or an acknowledgement belongs to: its part, or the group the join folded it into (07 R153). -/
def State.ownerOf (s : State) (team gidx part splitGen : Nat) : Option (Nat × Ctx) :=
  let mine := s.ctxs.filter fun kc => kc.2.team = team && kc.2.gidx = gidx && kc.2.alive
  match mine.find? fun kc => kc.2.part = part && kc.2.splitGen = splitGen with
  | some kc => some kc
  | none => mine.find? fun kc => !kc.2.splitPart

/-- A fatal fault of traffic whose group is named by handle (15 R328): its context if it lives, else the launch and the line, with a record of its
own in the fault log (15 R344). -/
def State.fatalOwner (s : State) (owner : Option (Nat × Ctx)) (lk pslot gs code : Nat) : State :=
  match owner with
  | some (cid, c) => s.fatalGroup cid c.firstPath (plainReport code (c.stopPc c.firstPath) (c.path c.firstPath).mask) false
  | none =>
    let (ev, s) := s.fresh
    let at_ := (s.stk gs).flogAddr gs
    let r := { unitRec s gs 0 code with launch := ((s.launch? lk).map (·.id)).getD 0 }
    ((s.flog gs r).report lk code at_).raiseLine gs pslot code ev []

/-- Operation of a POST at its home (09 Table 9-5): each reads the location first, a store form too (09 R404), and so is an exchange. -/
def postOp (op v : Nat) : HomeOp := .atom (postAtom op) v

/-! ## Team space: the cells, or the image of a saved team (15 R342) -/

/-- Physical address of a team offset. -/
def Team.pa (t : Team) (off : Nat) : Nat :=
  let (gc, o) := t.spot off
  scratchPa gc o

/-- Key of the first byte of a team's allocation in a core's scratchpad, for scoreboard ranges. -/
def Team.base (t : Team) : Nat := t.firstLine * 128

/-- A scoreboard range of a team interval. -/
def Team.range (t : Team) (lo hi : Nat) : Range := ⟨0, t.base + lo, t.base + hi⟩

/-- Physical address of a team offset as it stands: the cell, or the line in the image of a team that is away. -/
def State.teamPa (s : State) (t : Team) (off : Nat) : Nat :=
  match s.imageOf t with
  | some i => s.imgPa i (i.sec 5 + t.bitmapLen + off)
  | none => t.pa off

/-- One byte of a team's space. -/
def State.teamByte (s : State) (t : Team) (off : Nat) : Byte := s.byte (s.teamPa t off)

/-- Bytes of a team's space. -/
def State.teamBytes (s : State) (t : Team) (off n : Nat) : List Byte := (List.range n).map fun k => s.teamByte t (off + k)

/-- Is a byte of a team's space in a poisoned sector? -/
def State.teamPoison (s : State) (t : Team) (off : Nat) : Bool :=
  mget s.poison (s.teamPa t off / 32) false

/-- Write bytes of a team's space; whole sectors come clean. -/
def State.setTeamBytes (s : State) (t : Team) (off : Nat) (bs : List Byte) : State :=
  s.refStore (s.teamPa t off) bs

/-- Mark the sector of a team offset poisoned. -/
def State.poisonTeam (s : State) (t : Team) (off : Nat) : State :=
  s.markPoison (s.teamPa t off)

/-! ## Posts -/

/-- The saved team a post to team space belongs to, with the post's offset. -/
def State.postImage (s : State) (p : PostMsg) : Option (Team × Nat) :=
  match s.team? p.team with
  | some t => if p.teamOff ≠ 0 && t.saved.isSome then some (t, p.teamOff - 1) else none
  | none => none

/-- Is the line of a post absent, in the cells or in the image of its saved team (03 R64)? -/
def State.postAbsent (s : State) (p : PostMsg) (n : Nat) : Bool :=
  match (s.postImage p).bind fun tp => (s.imageOf tp.1).map fun i => (tp.1, i) with
  | some (t, i) => s.imgAbsent i t (lineOf p.pa)
  | none => s.refAbsent p.pa n

/-- Perform a post: at its home, or in the image of its saved team. -/
def State.postDo (s : State) (i : Issuer) (shown : Bool) (p : PostMsg) (n : Nat) : State × Done :=
  match s.postImage p with
  | none => s.perform i shown ⟨3, 0, n, p.pslot, some (p.lane, p.gidx, p.region), 0⟩ p.pa n (postOp p.op p.data)
  | some (t, off) =>
    if s.teamPoison t off then (s, .fatal 0x40) else
    let old := ofBytes (s.teamBytes t off n)
    (s.setTeamBytes t off (bytesOf n (atomOp (postAtom p.op) old p.data).1), .done old 0)

/-- Is an earlier access of the post's own group or part to its location still to perform (08 R158)? -/
def State.postBehind (s : State) (id : Nat) (p : PostMsg) : Bool :=
  s.accs.any fun a => a.id < id && (((s.ctx? a.ctx).map fun c => p.ofCtx c).getD false) &&
    a.lanes.any fun l => overlaps l.pa l.n p.pa (postBytes p.op)

/-! ## The order of a stack pair (05 R90, R93; 08 R162) -/

/-- Has a message come to its home and wait there: held, its line absent, its bank taken, or behind an access? Tiles and dumps wait by
sectors of their own. -/
def State.waitsHome (s : State) (m : Msg) : Bool :=
  s.handed m.src m.dst m.id m.body.flits && (m.held.isSome || match m.body with
    | .post p => s.postAbsent p (postBytes p.op) || s.refBusy p.pa || s.postBehind m.id p
    | .context .. => false
    | _ => true)

/-- The oldest message of a channel, tiles of striped copies aside. -/
def State.chanHead (s : State) (src dst : Nat) : Option Msg := s.chan.find? fun x => x.src = src && x.dst = dst && !s.stripedMsg x

/-- Is a message the oldest of its channel, barrier arrivals of its stack pair among them, and handed over whole, so that it may perform (08
R162; 05 R90, R92, R93)? -/
def State.headOf (s : State) (m : Msg) : Bool :=
  ((s.chanHead m.src m.dst).map (·.id)) = some m.id && s.handed m.src m.dst m.id m.body.flits &&
    !(s.bars.any fun b => b.src = m.src && s.barDst b = m.dst && decide (b.id < m.id))

/-- Is a barrier arrival the oldest of its stack pair, and handed over? One behind a message that waits at its home has come with it. -/
def State.barDue (s : State) (b : BarMsg) : Bool :=
  let dst := s.barDst b
  ((s.bars.find? fun x => x.src = b.src && s.barDst x = dst).map (·.id)) = some b.id && s.handed b.src dst b.id 1 &&
    match s.chanHead b.src dst with
    | some m => decide (b.id < m.id) || s.waitsHome m
    | none => true

/-- Can a barrier release be taken: its context stands where it goes, or must be told elsewhere, and is not stopped? -/
def State.relOpen (s : State) (r : RelMsg) : Bool :=
  ((s.ctx? r.ctx).map fun c => c.stop.isNone && (c.place = .active || c.place = .pending)).getD false

/-- Is a reply from `src` to `dst` the oldest of its kind on that way, and handed over: replies, acknowledgements and releases of one stack to
another arrive in the order they were sent (05 R90, R93)? A post's acknowledgement that was counted lost never travels. -/
def State.replyDue (s : State) (src dst id : Nat) : Bool :=
  let earlier := (s.acks.any fun a => a.src = src && a.dest = dst && !a.lost && !a.dropped && decide (a.id < id)) ||
    (s.landAcks.any fun a => a.src = src && gsOf a.srcGc = dst && decide (a.id < id)) ||
    s.rels.any fun r => r.src = src && r.dst = dst && decide (r.id < id) && s.relOpen r
  !earlier && s.handed src dst id 1

/-- A post leaves its channel and is acknowledged to the stack that issued it (07 R153), on the plane of its home (05 R92); one counted lost
at its source is owed nothing. -/
def State.answerPost (s : State) (m : Msg) (p : PostMsg) (lost : Bool) : State :=
  let s := ({ s with chan := s.chan.filter fun x => x.id ≠ m.id } : State).consume m.src m.dst m.id
  if m.lost then s else
  let (i, s) := s.fresh
  let s : State := { s with acks := s.acks ++ [⟨i, m.dst, p.team, p.gidx, p.part, p.splitGen, m.src, lost, false⟩] }
  s.sendFlit m.dst m.src (planeOf m.dst) 3 i

/-- POST_PERFORM (09 R186; 08 R162): the oldest message of its channel performs, unless its line is absent, its bank is taken, or an
earlier access of the group to the location is still to perform. -/
def execPostPerform (msg : Nat) (s : State) : Out :=
  match s.chan.find? fun m => m.id = msg with
  | none => .next s
  | some m =>
    match m.body with
    | .post p =>
      let n := postBytes p.op
      if !s.headOf m || m.held.isSome || s.postAbsent p n || s.refBusy p.pa || s.postBehind m.id p then .next s else
      let owner := s.ownerOf p.team p.gidx p.part p.splitGen
      let i : Issuer := match owner with
        | some (cid, c) => .path cid ((c.validPaths.find? fun e => (c.path e).mask.getLsbD p.lane).getD c.firstPath)
        | none => .nobody
      if isHostRef p.pa && !s.hostUp m.dst then .next ((s.answerPost m p true).loseWrite m.dst)
      else
      match s.postDo i m.shown p n with
      | (s, .held ev) => .next { s with chan := s.chan.map fun x => if x.id = msg then { x with held := some ev, shown := true } else x }
      | (s, .fatal code) => .next ((s.answerPost m p false).fatalOwner owner p.launch p.pslot m.dst code)
      | (s, .done _ _) => .next (s.answerPost m p false)
    | _ => .next s

/-- An acknowledgement reaches its group: ANCHOR falls; a lost one is remembered for the next release (05 Table 5-4). -/
def Ctx.acked (c : Ctx) (lost : Bool) : Ctx := { c with anchor := c.anchor - 1, lost := c.lost || lost }

/-- Is a context on a stack, in a core or in its landing area? -/
def Ctx.standsOn (c : Ctx) (gs : Nat) : Bool := gsOf c.gc = gs && (c.place = .active || c.place = .pending || c.place = .landed || c.place = .saved)

/-- An acknowledgement for context `c` passes through the forwarding entry of its part on a stack, or where that has none through that of the
group its part was folded into, which counts it (07 R154): the next stack. -/
def State.passFwd (s : State) (a : Ack) (c : Ctx) (gs : Nat) : Option (State × Nat) :=
  let of_ (part gen : Nat) : Option Fwd := (s.stk gs).fwd.find? fun f => f.team = a.team && f.gidx = a.gidx && f.part = part && f.splitGen = gen
  ((of_ a.part a.splitGen).or (of_ c.part c.splitGen)).map fun f =>
    (s.updStk gs fun k => { k with fwd := (k.fwd.map fun g => if g = f then { g with k := g.k - 1 } else g).filter fun g => g.k ≠ 0 }, f.next)

/-- A lost post's acknowledgement will not pass the entries of its way: they count it now. -/
def State.passAll (s : State) (a : Ack) (c : Ctx) : Nat → Nat → State
  | 0, _ => s
  | n + 1, gs =>
    match s.passFwd a c gs with
    | some (s, next) => s.passAll a c n next
    | none => s

/-- A posted operation counted as lost (05 Table 5-4). -/
def State.countLost (s : State) (pkg : Nat) : State := s.updPkg pkg fun k => { k with lostp := k.lostp + 1 }

/-- An acknowledgement whose way is lost counts as a lost post, which finds its group wherever that is (07 R154). -/
def State.loseWay (s : State) (a : Ack) : State :=
  ({ s with acks := s.acks.map fun x => if x.id = a.id then { x with lost := true, dropped := false } else x } : State).countLost (pkgOf a.dest)

/-- A dump whose peer is lost stays in the local ring, and PEER clears (16 R371). -/
def State.loseDump (s : State) (id : Nat) : State :=
  match s.dumps.find? fun d => d.id = id with
  | some d => ({ s with dumps := s.dumps.filter fun x => x.id ≠ id } : State).updStk d.gs fun k => { k with dmpPeer := false }
  | none => s

/-- POST_ACK (07 R153, R154): it finds its group on the stack, or follows the forwarding entry as a message of its own; while the group's
context is on its way there it waits. One whose way leads through a package that is lost, or was reset, counts as a lost post; a lost one
finds its group wherever it is (05 Table 5-4). -/
def execPostAck (ack : Nat) (s : State) : Out :=
  match s.acks.find? fun a => a.id = ack with
  | none => .next s
  | some a =>
    let rest (s : State) : State := { s with acks := s.acks.filter fun x => x.id ≠ ack }
    if !a.lost && (a.dropped || !s.replyDue a.src a.dest ack) then .next s else
    let rest (s : State) : State := (rest s).consume a.src a.dest ack
    match s.ownerOf a.team a.gidx a.part a.splitGen with
    | none => .next (rest s)
    | some (cid, c) =>
      if c.standsOn a.dest then .next (((rest s).setCtx cid (c.acked a.lost)).imgCtxNum cid 0x1CC 4 (c.anchor - 1))
      else if a.lost then .next ((((rest s).passAll a c 256 a.dest).setCtx cid (c.acked true)).imgCtxNum cid 0x1CC 4 (c.anchor - 1))
      else
        match (rest s).passFwd a c a.dest with
        | none => .next (if c.place = .moving then s else s.loseWay a)
        | some (t, next) =>
          if !s.reaches a.dest next then .next (s.loseWay a) else
          let (i, s) := t.fresh
          let s : State := { s with acks := s.acks ++ [{ a with id := i, src := a.dest, dest := next, dropped := false }] }
          .next (s.sendFlit a.dest next (planeOf a.dest) 3 i)

/-! ## Named barriers (13 R291, R292) -/

/-- BARRIER_ARRIVAL (13 R291): the arrival is recorded at the base core, in its order among the traffic of its stack pair (05 R90, R93); the last
one releases the generation. -/
def execBarrierArrival (msg : Nat) (s : State) : Out :=
  match s.bars.find? fun b => b.id = msg with
  | none => .next s
  | some b =>
    let dst := s.barDst b
    if !s.barDue b then .next s else
    let s := ({ s with bars := s.bars.filter fun x => x.id ≠ msg } : State).consume b.src dst msg
    match s.team? b.team with
    | none => .next s
    | some t =>
      let r := mget t.bars b.nb BarRec.empty
      let r := { r with arrived := mset r.arrived b.gidx (mget r.arrived b.gidx 0 ||| b.lanes) 0 }
      let r := match b.value with
        | none => r
        | some v => { r with
            op := b.op
            clash := r.clash || (r.op ≠ 0 && r.op ≠ b.op)
            vals := insertVal b.gidx v r.vals
            flags := r.flags ||| b.flags }
      .next (((s.setTeam b.team { t with bars := mput t.bars b.nb r }).releaseBar b.team b.nb).mirrorBar b.team b.nb)

/-- A waiting path receives the release of its generation, the payload and its flags (13 R292). -/
def State.takeRelease (s : State) (cid entry gen : Nat) (c : Ctx) (r : BarRec) (dst : Option Nat) (lanes : Mask) : State :=
  let (v, fl) := mget r.results gen (0, 0)
  let ls := lanesOf (lanes &&& c.lanes)
  let c := match dst with
    | some d => (c.writeV false d (ls.map fun l => (l, v.toNat))).orFlags (ls.map fun l => (l, fl))
    | none => c
  let c := (c.setPath entry { c.path entry with wait := .none }).settle
  let s := s.setCtx cid { c with stall := 15 }
  if dst.isSome then s.watchAll cid entry (ls.map fun l => (l, fl)) else s

/-- BARRIER_RELEASE (13 R292, R295): the release of its generation has come to the context's stack, and a waiting path takes it; the context's
other paths then take it too. One that finds the context gone follows it. -/
def execBarrierRelease (cid entry : Nat) (s : State) : Out :=
  match s.ctx? cid with
  | none => .next s
  | some c =>
    let p := c.path entry
    match p.wait, s.team? c.team with
    | .barrier nb gen dst lanes, some t =>
      let r := mget t.bars nb BarRec.empty
      if r.gen ≤ gen || c.stop.isSome || p.stopped || !(c.place = .active || c.place = .pending) then .next s else
      match s.rels.find? fun x => x.ctx = cid && x.nb = nb && x.gen = gen with
      | none => .next (s.takeRelease cid entry gen c r dst lanes)
      | some x =>
        if !s.replyDue x.src x.dst x.id then .next s else
        let s := ({ s with rels := s.rels.filter fun y => y.id ≠ x.id } : State).consume x.src x.dst x.id
        let here := gsOf c.gc
        if here = x.dst then .next (s.takeRelease cid entry gen c r dst lanes)
        else
          let (i, s) := s.fresh
          .next (({ s with rels := s.rels ++ [{ x with id := i, src := x.dst, dst := here }] } : State).sendFlit x.dst here (planeOf x.dst) 3 i)
    | _, _ => .next s

/-- WAIT_LINE_WAKE (03 R64): every line the instruction touches is present. -/
def execWaitLineWake (cid : Nat) (s : State) : Out :=
  match s.ctx? cid with
  | none => .next s
  | some c =>
    if c.lineWait.isEmpty || c.lineWait.any (fun k => mget s.absent k false) then .next s
    else .next (s.setCtx cid { c with lineWait := [], stall := 15 })

end Sys2Proof.Machine
end

