-- ==== Sys2Proof/Machine/Engine.lean ====
section
/-! DEFINITION. What every engine command shares (09 R191-R193): issue, the scoreboard, parked elements and their reports (15 R333-R335),
completion for wait slots and batches, presence of scratchpad lines (03 R63), and the spaces an engine reads and writes. -/

namespace Sys2Proof.Machine

/-! ## Issue -/

/-- The team of the issuer. -/
def Env.team (e : Env) : Option Team := e.s.team? e.c.team

/-- The issuing lane of an engine command (09 R191). -/
def Env.issuingLane (e : Env) : Nat := lowLane e.lanes

/-- An odd scalar register where a pair is named (09 R196). -/
def pairDefect (k : BitVec 5) : List Nat := if k.toNat % 2 = 1 then [2] else []

/-- Value of a scalar register field. -/
def Env.sval (e : Env) (k : BitVec 5) : Nat := (e.sreg k.toNat).toNat

/-- A base: the pair for the global space, the low register elsewhere (09 R196). -/
def Env.base (e : Env) (space : Nat) (k : BitVec 5) : Nat := if space = 0 then e.spair k.toNat else e.sval k

/-- Scoreboard entries a command takes: one, or one for each group of a quad collective that has not exited (11 R263). -/
def CmdKind.size : CmdKind → Nat
  | .mma _ ps => (ps.filter (·.live)).length
  | .mloop _ _ _ ps => (ps.filter (·.live)).length
  | _ => 1

/-- Entries of a core's scoreboard in use. -/
def State.entries (s : State) (gc : Nat) : Nat := ((s.cmds.filter fun c => c.gc = gc && c.entry).map (·.kind.size)).foldl (· + ·) 0

/-- SET slot of the clause. -/
def Path.setSlot (p : Path) : Nat := (p.clause.map (·.set)).getD 0

/-- Does a reference name a scratchpad? -/
def isScratchRef (r : Nat) : Bool :=
  match locKind (paGs (refPa r)) (paLoc (refPa r)) with
  | .scratch .. => true
  | _ => false

/-- Is a post one of a context's, those of the parts folded into it among them (07 R153)? -/
def PostMsg.ofGroup (p : PostMsg) (c : Ctx) : Bool := if c.splitPart then p.ofCtx c else p.team = c.team && p.gidx = c.gidx

/-- Is an access or a post of the group to a scratchpad still to perform (08 R175)? -/
def State.scratchPending (s : State) (cid : Nat) : Bool :=
  (s.accs.any fun a => a.ctx = cid && a.lanes.any fun l => isScratchRef l.pa) ||
    s.chan.any fun m => match m.body with
      | .post p => isScratchRef p.pa && ((s.ctx? cid).map fun c => p.ofGroup c).getD false
      | _ => false

/-- Conditions that hold an engine command at issue: a pending acquire, the group's own scratchpad accesses (08 R175), a full slot
(06 R122), a full scoreboard (09 R192). -/
def Env.engine (e : Env) (long : Bool) (body : State) : State :=
  if e.s.acquiring e.cid || e.s.scratchPending e.cid then e.hold 2
  else if long && decide (255 ≤ mget e.c.wslot e.p.setSlot 0) then e.hold 13
  else if 64 ≤ e.s.entries e.c.gc then e.hold 11
  else body

/-- A context counts one more result in a slot. -/
def Ctx.countSlot (c : Ctx) (k : Nat) : Ctx := { c with wslot := mset c.wslot k (mget c.wslot k 0 + 1) 0 }

/-- A result is complete: its slot falls by one, its flags wait for the group's wait on the slot (02 Table 2-7), each part of a split group
taking those of its own lanes. -/
def Ctx.completeSlot (c : Ctx) (k : Nat) (lanes : Mask) (fl : Flags) : Ctx :=
  let mine := lanes &&& c.lanes
  { c with
    wslot := mset c.wslot k (mget c.wslot k 0 - 1) 0
    slotFlags := if fl = 0 || mine = 0 then c.slotFlags else c.slotFlags ++ [(k, mine, fl)] }

/-- Does a command take a capture entry at issue (11 R262)? -/
def CmdKind.captures : CmdKind → Bool
  | .mst .. => true
  | _ => false

/-- The stop a command is born with: the halt line has reached its engine (15 R336). -/
def State.bornStop (s : State) (gc lk : Nat) (k : CmdKind) : Option Stop :=
  if k.isCtxCopy || s.isAgent lk then none else mfind (s.core gc).lineStop ((k.unit gc).number * 16 + s.slotOf lk)

/-- The command a word issues. -/
def Env.command (e : Env) (id : Nat) (long : Bool) (kind : CmdKind) (reads writes : List Range) : Cmd where
  id := id
  gc := e.c.gc
  team := e.c.team
  gidx := e.c.gidx
  ctx := e.cid
  lane := e.issuingLane
  pc := e.p.pc
  slot := if long then some e.p.setSlot else none
  kind := kind
  entry := true
  started := false
  reads := reads
  writes := writes
  sectors := []
  flags := 0
  capture := kind.captures
  saved := false
  stop := e.s.bornStop e.c.gc e.c.launch kind
  region := e.c.reg0
  also := []
  readyAt := none
  seen := none

/-- A command born stopped stops its engine for its partition, whose record names it unless another one's stands (15 R336). -/
def State.recordBorn (s : State) (c : Cmd) : State :=
  let first := !(s.cmds.any fun d => d.gc = c.gc && decide (d.id ≠ c.id) && d.kind.unit d.gc = c.kind.unit c.gc && d.stop.isSome)
  match c.stop with
  | some t => if first then s.putRec (gsOf c.gc) (engineRec (c.kind.unit c.gc).number c.gc) (cmdRec s c t.code) none else s
  | none => s

/-- A command joins its core's commands. -/
def State.addCmd (s : State) (c : Cmd) : State := ({ s with cmds := s.cmds ++ [c] } : State).recordBorn c

/-- A command issues from a word: it joins the core's commands. -/
def Env.sendCmd (e : Env) (s : State) (long : Bool) (kind : CmdKind) (reads writes : List Range) : State :=
  let (id, s) := s.fresh
  s.addCmd (e.command id long kind reads writes)

/-- An engine word that sends one command and steps on. -/
def Env.sendAndGo (e : Env) (long : Bool) (nw : Nat) (kind : CmdKind) (reads writes : List Range) : State :=
  let s := e.sendCmd e.s long kind reads writes
  let c := if long then e.c.countSlot e.p.setSlot else e.c
  s.setCtx e.cid (c.advance e.e nw e.now none)

/-! ## The scoreboard (09 R192) -/

/-- Do two ranges meet? -/
def Range.meets (a b : Range) : Bool := a.region = b.region && decide (a.lo < b.hi) && decide (b.lo < a.hi)

/-- Must a command wait for an older one? -/
def Cmd.blocks (old new : Cmd) : Bool :=
  old.writes.any (fun r => new.reads.any r.meets || new.writes.any r.meets) || new.writes.any fun x => old.reads.any x.meets

/-- Does the scoreboard let a command start? -/
def State.mayStart (s : State) (c : Cmd) : Bool :=
  (s.cmds.takeWhile fun o => o.id ≠ c.id).all fun o => o.gc ≠ c.gc || !o.entry || !o.blocks c

/-- Is a command's engine running: neither stopped, nor with its work spent that a stop at it allows (15 R336, Table 15-4; 16 R356)? -/
def State.runs (s : State) (c : Cmd) : Bool :=
  c.stop.isNone && (mfind (s.core c.gc).engStop (c.kind.unit c.gc).number).isNone &&
    !(!c.kind.isCtxCopy && s.unitSpent (c.kind.unit c.gc) (s.cmdLaunch c))

/-- Launch of a command's team. -/
def State.launchOf (s : State) (c : Cmd) : Option Launch := s.launch? (s.cmdLaunch c)

/-- The asker of a command's accesses. -/
def State.askerOf (s : State) (c : Cmd) : Asker :=
  ⟨gsOf c.gc, some c.gc, s.slotOf (s.cmdLaunch c), ((s.launchOf c).map (·.user)).getD true⟩

/-! ## Presence (03 R63) -/

/-- Key of the line that holds a team offset. -/
def Team.lineKey (t : Team) (off : Nat) : Nat := lineOf (t.pa off)

/-- The scratchpad line a global address maps to as translations stand, for a command; nothing is changed by the look (03 R48). -/
def State.mappedLine (s : State) (c : Cmd) (va : Nat) : Option Nat :=
  match (s.probeVa (s.askerOf c) ⟨6, 1, true, false, false⟩ va).2 with
  | .ok (r, _) => if isScratchRef r then some (lineOf (refPa r)) else none
  | .error _ => none

/-- The scratchpad line of a destination address of a copy: in the team space, or mapped in the global one. -/
def State.copyLine (s : State) (c : Cmd) (k : CopyOp) (addr : Nat) : Option Nat :=
  if k.form = .cpys then none else
  match k.dstSp with
  | 0 => s.mappedLine c addr
  | 1 => (s.team? c.team).map fun t => t.lineKey addr
  | _ => none

/-- Has a sector been written: done, or performed in another package with the acknowledgement on its way (05 R103)? -/
def Sector.written (x : Sector) : Bool := x.st = .done || (x.reply.isSome && x.pieces.isEmpty)

/-- Lines a copy has still to write: all of them before it starts, those of its unwritten sectors after (03 R63). -/
def State.cmdOwes (s : State) (c : Cmd) : List Nat :=
  match c.kind with
  | .copy k => if !c.started then k.lines else ((c.sectors.filter fun x => !x.written).filterMap fun x => s.copyLine c k x.dst).eraseDups
  | _ => []

/-- Where the presence bits of a command's lines stand: in the image of its saved team, or beside the cells (15 R342). -/
def State.linesAt (s : State) (c : Cmd) : Option (Team × SaveImg) :=
  match c.kind with
  | .copy k => if k.dstSp = 1 then (s.team? c.team).bind fun t => (s.imageOf t).map fun i => (t, i) else none
  | _ => none

/-- Set the presence bits of lines of a command where they stand. -/
def State.setLines (s : State) (c : Cmd) (absent : Bool) (ls : List Nat) : State :=
  match s.linesAt c with
  | some (t, i) => ls.foldl (fun s l => s.setImgAbsent i t l absent) s
  | none => { s with absent := ls.foldl (fun m l => mset m l absent false) s.absent }

/-- Clear the presence bits of lines. -/
def State.clearLines (s : State) (c : Cmd) (ls : List Nat) : State := s.setLines c true ls

/-- Lines become present where no issued copy owes them (03 R63). -/
def State.showLines (s : State) (c : Cmd) (ls : List Nat) : State :=
  let owed := (s.cmds.filter fun d => ((s.linesAt d).map (·.2.id)) = ((s.linesAt c).map (·.2.id))).flatMap s.cmdOwes
  s.setLines c false (ls.filter fun l => !owed.contains l)

/-! ## Completion -/

/-- Batch counters of a lane (09 R195). -/
def Batch.empty : Batch := ⟨0, 0, 0, []⟩

/-- DONE rises over every batch that has performed. -/
def Batch.raise (b : Batch) : Nat → Batch
  | 0 => b
  | n + 1 => if decide (b.done < b.last) && mget b.pend (b.done + 1) 0 = 0 then Batch.raise { b with done := b.done + 1 } n else b

/-- Key of a lane's batches. -/
def batchKey (gidx lane : Nat) : Nat := gidx * 64 + lane

/-- A copy has performed for its batch. -/
def State.batchDone (s : State) (c : Cmd) : State :=
  match c.kind with
  | .copy k => s.updTeam c.team fun t =>
      let key := batchKey c.gidx c.lane
      let b := mget t.batches key Batch.empty
      let n := k.batch.getD 0
      let b := { b with pend := mset b.pend n (mget b.pend n 0 - 1) 0 }
      { t with batches := mput t.batches key (b.raise 64) }
  | _ => s

/-- DONE of a lane's batches as the image of a saved team holds it (15 R342). -/
def State.mirrorDone (s : State) (c : Cmd) : State :=
  match s.team? c.team with
  | none => s
  | some t =>
    match s.imageOf t with
    | some i => s.refStore (s.imgPa i (i.sec 2 + 1024 * c.gidx + 16 * c.lane + 8)) (bytesOf 4 (mget t.batches (batchKey c.gidx c.lane) Batch.empty).done)
    | none => s

/-- Lanes that receive a command's flags (02 Table 2-7). -/
def CmdKind.flagLanes : CmdKind → Nat → Mask
  | .tile (.mscl _ _ lanes), _ => lanes
  | _, lane => laneBit lane

/-- A team whose groups have all ended and whose commands are complete ends (13 R288, 14 R318): its lines and slots are free, reports still on
their way find nobody (15 R334); its launch counts it. -/
def State.endTeam (s : State) (tk : Nat) : State :=
  match s.team? tk with
  | none => s
  | some t =>
    if !t.left.isEmpty || s.cmds.any (fun c => c.team = tk) then s else
    let s := (s.reports.filter fun r => r.team = tk).foldl (fun s r => (s.unreceived t r).killSiblings t.launch tk) s
    let lines := t.cores.flatMap fun gc => (List.range t.linesPer).map fun i => lineOf (scratchPa gc ((t.firstLine + i) * 128))
    let s : State := { s with
          teams := mdel s.teams tk
          reports := s.reports.filter fun r => r.team ≠ tk
          absent := if t.saved.isSome then s.absent else lines.foldl (fun m l => mset m l false false) s.absent }
    s.updLaunch t.launch Launch.endOne

/-- A count of a wait slot as the image of a saved context holds it (15 R342). -/
def State.mirrorSlot (s : State) (cid k : Nat) : State :=
  s.imgCtxNum cid (0x198 + k) 1 (((s.ctx? cid).map fun c => mget c.wslot k 0).getD 0)

/-- A command is complete for a context that shares it: its slot falls (15 R335, 07 R150). -/
def State.slotDone (s : State) (c : Cmd) (cid : Nat) : State :=
  match c.kind, c.slot with
  | .mma _ ps, _ | .mloop _ _ _ ps, _ =>
    match ps.find? fun p => p.live && (p.ctx = cid || (s.ctx? cid).map (·.gidx) = some p.gidx) with
    | some p => (s.updCtx cid fun x => x.completeSlot p.slot p.lanes p.flags).mirrorSlot cid p.slot
    | none => s
  | k, some n => (s.updCtx cid fun x => x.completeSlot n (k.flagLanes c.lane) c.flags).mirrorSlot cid n
  | _, none => s

/-- A command is complete or refused: its entry is freed, its slot falls (every group's, for a quad collective), its batch counts it,
its lines show. -/
def State.endCmd (s : State) (c : Cmd) : State :=
  let lines := s.cmdOwes c ++ match c.kind with
    | .copy k => k.lines
    | _ => []
  let s := ((s.delCmd c.id).batchDone c).mirrorDone c
  let s := c.waiters.foldl (fun s k => s.slotDone c k) s
  (s.showLines c lines).endTeam c.team

/-! ## Parked elements and reports (15 R333-R335) -/

/-- Elements a command has in the replay queue: those parked, and those that a REPLAY set free until they perform or are discarded (15 R333). -/
def Cmd.parkedCount (c : Cmd) : Nat :=
  (c.sectors.filter (·.queued)).length +
    match c.kind with
    | .vrrun _ _ _ _ _ rows stopAt =>
      (rows.filter (·.queued)).length + if stopAt.any (fun a => !(rows.any fun r => r.queued && r.off = a.1)) then 1 else 0
    | _ => 0

/-- Is the replay queue of a core full (15 R333)? Elements of a command held in an image take no entry. -/
def State.queueFull (s : State) (gc : Nat) : Bool :=
  decide (256 ≤ ((s.cmds.filter fun c => c.gc = gc && !c.saved).map Cmd.parkedCount).foldl (· + ·) 0)

/-- What an engine did once a stop has come to it, or since it stopped, counts in SKID (15 Table 15-4). -/
def State.skidEngine (s : State) (c : Cmd) (n : Nat) : State :=
  let u := c.kind.unit c.gc
  let s := (List.range n).foldl (fun s _ => s.countUnit u (s.cmdLaunch c)) s
  if c.stop.isNone then s else
  match mfind (s.stk (gsOf c.gc)).recs (engineRec u.number c.gc) with
  | some r => s.putRec (gsOf c.gc) (engineRec u.number c.gc) { r with skid := r.skid + n } none
  | none => s

/-- A fault met by an engine that is stopping or stopped goes to the fault log, and where the record is written, to its CAUSE (15 R337). -/
def State.faultStopped (s : State) (c : Cmd) (r : Report) : State :=
  let u := c.kind.unit c.gc
  let gs := gsOf c.gc
  let due := s.stops.any fun m => m.target = u && m.ofPart && s.inPart (s.cmdLaunch c) m.pslot
  if c.stop.isNone && !due then s else
  let s := s.flog gs (reportRec s r c.gc)
  match mfind (s.stk gs).recs (engineRec u.number c.gc) with
  | some x => if c.stop.isNone then s else
    s.putRec gs (engineRec u.number c.gc) { x with
      cause := r.code
      addr := r.addr
      lanes := BitVec.ofNat 64 (r.detail % 2 ^ 32 * 2 ^ 32 + r.lane) } none
  | none => s

/-- A first element parks with a report of its own; later ones join the report of their command and group until a REPLAY probes them.
Answers the report. -/
def State.reportElem (s : State) (c : Cmd) (gidx code cause level acls qpos addr detail : Nat) : Nat × State :=
  match s.reports.find? fun r => r.cmd = c.id && r.gidx = gidx with
  | some r => (r.id, s)
  | none =>
    let (i, s) := s.fresh
    let r : Report := {
      id := i
      cmd := c.id
      team := c.team
      gidx := gidx
      code := code
      cause := cause
      level := level
      acls := acls
      qpos := qpos
      addr := addr
      pc := c.pc
      detail := detail
      lane := c.lane
      receiver := none
      sentTo := none
      msg := 0
      after := 0 }
    (i, ({ s with reports := s.reports ++ [r] } : State).faultStopped c r)

/-- A refused command (09 R201, 11 R256, R262, 12 R272): one report, no element; then it is complete. -/
def State.refuseCmd (s : State) (c : Cmd) (code cause level acls addr detail : Nat) : State :=
  let (_, s) := s.reportElem c c.gidx code cause level acls 0 addr detail
  s.endCmd c

/-- Drop the sectors that are done, unless a request of the command under way names one by its place. -/
def Cmd.tidy (c : Cmd) : Cmd := if c.sectors.any (fun x => x.st = .sent) then c else { c with sectors := c.sectors.filter fun x => x.st ≠ .done }

/-- The mark of a parser that may read on from the offset where it stopped, whose entry of the replay queue it still holds (15 R333). -/
def freed : Nat := 0

/-- Set the elements of a report free to be probed again (13 R301); each holds its entry of the queue until it performs (15 R333). The sectors
of a stream are read again, and replies to earlier requests are of no use (12 R277). -/
def Cmd.unpark (c : Cmd) (rid : Nat) : Cmd :=
  let free (x : Sector) : Sector := match x.st with
    | .parked _ r => if r = rid then { x with st := if x.data.isEmpty then .waiting else .read } else x
    | _ => x
  let kind := match c.kind with
    | .vrrun sp b len nx cfg rows stopAt =>
      CmdKind.vrrun sp b len nx cfg (rows.map fun r => if (r.parked.map (·.2)) = some rid then { r with parked := none } else r)
        (match stopAt with
          | some (a, r) => some (a, if r = rid then freed else r)
          | none => none)
    | k => k
  let stale := match c.kind with
    | .vrrun .. => true
    | _ => false
  { c with
    sectors := if stale then c.sectors.map (fun x => { x with st := .done, data := [], reply := none, probed := none, held := none, shown := 0 }) else c.sectors.map free
    kind := kind }

/-- Did the group of a context receive a report, whichever part of it did? -/
def State.receivedBy (s : State) (cid : Nat) (r : Report) : Bool :=
  match r.receiver with
  | none => false
  | some k => k = cid || match s.ctx? k, s.ctx? cid with
    | some x, some y => x.groupKey = y.groupKey
    | _, _ => false

/-- REPLAY's work: every element of the reports a group received is probed again; the reports are over (15 R335). -/
def State.replay (s : State) (cid : Nat) : State :=
  let mine := (s.reports.filter (s.receivedBy cid)).map (·.id)
  { s with
    cmds := s.cmds.map fun c => mine.foldl Cmd.unpark c
    reports := s.reports.filter fun r => !mine.contains r.id }

/-- The capture entry of an MST is free once no sector is left in it: each has performed, parked with its data, or was discarded (11 R262). -/
def Cmd.freeCapture (c : Cmd) : Cmd :=
  if c.kind.captures && !c.sectors.isEmpty && !(c.sectors.any fun x => x.st = .read || (x.st = .sent && x.reply.isNone)) then
    { c with capture := false }
  else c

/-- What is left of a command whose parked elements of a report are discarded; none where nothing of it is left to do. -/
def Cmd.discard (c : Cmd) (rid : Nat) : Option Cmd :=
  let mine (x : Sector) : Bool := match x.st with
    | .parked _ r => r = rid
    | _ => false
  let lost := c.sectors.any mine
  let c := { c with sectors := c.sectors.map fun x => if mine x then { x with st := .done, queued := false } else x }
  match c.kind with
  | .mloop .. => if lost then none else some c
  | .vrrun sp b len nx cfg rows stopAt =>
    let rows := rows.filter fun r => (r.parked.map (·.2)) ≠ some rid
    let ended := (stopAt.map (·.2)) = some rid
    let nx := if ended then b + len else nx
    let stopAt := if ended then none else stopAt
    if rows.isEmpty && stopAt.isNone && b + len ≤ nx then none
    else some { c with kind := .vrrun sp b len nx cfg rows stopAt }
  | _ => if c.sectors.all (fun x => x.st = .done) && !c.sectors.isEmpty then none else some c.freeCapture

/-- Discard the elements of a report (15 R335): no write performs, commands with nothing left complete, lines show, STATUS takes the
code where it was 0. -/
def State.discardReport (s : State) (r : Report) : State :=
  let s := match s.team? r.team with
    | some t => s.discardStatus t.launch r
    | none => s
  let s := { s with reports := s.reports.filter fun x => x.id ≠ r.id }
  match s.cmd? r.cmd with
  | none => s
  | some c =>
    match c.discard r.id with
    | some d => (s.setCmd d).showLines c (s.cmdOwes c)
    | none => s.endCmd c

/-! ## Elements: probes and watches -/

/-- Probe a global address for an element. -/
def State.elemProbe (s : State) (c : Cmd) (acls n va : Nat) : State × Except Miss Nat :=
  match s.probeVa (s.askerOf c) ⟨acls, n, true, false, false⟩ va with
  | (s, .error m) => (s, .error m)
  | (s, .ok (r, _)) => (s, .ok r)

/-- The watched event of an element, with the region at its command's issue (16 R350). -/
def State.elemEvent (s : State) (c : Cmd) (cls ref n : Nat) : WEvent :=
  ⟨cls, refPa ref, n, s.slotOf (s.cmdLaunch c), some (c.lane, c.gidx, c.region), 0⟩

/-- The aligned 32-byte sector of a reference: what an engine's element covers (16 R345). -/
def sectorRef (ref : Nat) : Nat := ref - ref % 32

/-- Show an element to the predicates of its core at its probe: the event number of a precise firing, which holds it (16 R345, R355). -/
def State.elemCore (s : State) (c : Cmd) (cls ref n : Nat) : State × Option Nat :=
  let w := s.elemEvent c cls ref n
  let (s, fs) := s.watchCore c.gc true w (fun _ _ => 0)
  s.fire fs (gsOf c.gc) (.engine c.id) w.pslot (refPa ref) (laneBit c.lane)

/-- Show an element to the home-side predicates before it performs. -/
def State.elemHome (s : State) (c : Cmd) (cls ref n : Nat) : State × Option Nat := s.watchAt (.engine c.id) true (s.elemEvent c cls ref n) ref

/-- Show an element to the home-side predicates after it performed. -/
def State.elemPost (s : State) (c : Cmd) (cls ref n : Nat) : State := (s.watchAt (.engine c.id) false (s.elemEvent c cls ref n) ref).1

/-- Make looks one after another, `k` made before; the first precise firing ends it: its event number and the looks made. -/
def State.seeAll {α : Type} (s : State) (see : State → α → State × Option Nat) (k : Nat) : List α → State × Option (Nat × Nat)
  | [] => (s, none)
  | r :: rs =>
    match see s r with
    | (s, some ev) => (s, some (ev, k + 1))
    | (s, none) => s.seeAll see (k + 1) rs

/-- An element of a command as its predicates see it, of which one group of a collective stands for the command: the command, and a reference. -/
abbrev Look := Cmd × Nat

/-- The core's looks at elements, of which `made` are made already (16 R351). -/
def State.coreLooks (s : State) (cls n made : Nat) (xs : List Look) : State × Option (Nat × Nat) :=
  s.seeAll (fun s x => s.elemCore x.1 cls x.2 n) made (xs.drop made)

/-- The looks at the homes, which follow those of the core. -/
def State.homeLooks (s : State) (cls n made : Nat) (xs : List Look) : State × Option (Nat × Nat) :=
  let k := max made xs.length
  s.seeAll (fun s x => s.elemHome x.1 cls x.2 n) k (xs.drop (k - xs.length))

/-- Show elements to both banks of predicates before they perform; looks that an earlier firing interrupted are not made again (16 R351). -/
def State.elemPre (s : State) (cls n made : Nat) (xs : List Look) : State × Option (Nat × Nat) :=
  match s.coreLooks cls n made xs with
  | (s, some x) => (s, some x)
  | (s, none) => s.homeLooks cls n made xs

/-- References of one command as looks. -/
def Cmd.looks (c : Cmd) (rs : List Nat) : List Look := rs.map fun r => (c, r)

/-- Show elements to the home-side predicates after they performed. -/
def State.elemsPost (s : State) (cls n : Nat) (xs : List Look) : State := xs.foldl (fun s x => s.elemPost x.1 cls x.2 n) s

/-- Looks made of an operation of a command that a firing held. -/
def Cmd.made (c : Cmd) (op : Nat) : Nat :=
  match c.seen with
  | some (o, k) => if o = op then k else 0
  | none => 0

/-- The command with an operation over whose looks are made. -/
def Cmd.past (c : Cmd) (op : Nat) : Cmd := if (c.seen.map (·.1)) = some op then { c with seen := none } else c

/-- A precise firing holds a command at an operation (16 R355). -/
def State.holdCmd (s : State) (c : Cmd) (op ev made : Nat) : State := s.setCmd { c with stop := some ⟨ev, 0x80⟩, seen := some (op, made) }

/-- The sectors of the team space an interval list meets, as references. -/
def Team.sectorRefs (t : Team) (spans : List (Nat × Nat)) : List Nat :=
  (spans.flatMap fun r => if r.2 = 0 then [] else
    (List.range ((r.1 + r.2 - 1) / 32 - r.1 / 32 + 1)).map fun i => t.pa ((r.1 / 32 + i) * 32)).eraseDups

/-- Operation `op` of a command shows its reads before it performs; a precise firing holds the command (16 R355). -/
def State.lookFirst (s : State) (c : Cmd) (cls op : Nat) (xs : List Look) : State × Bool :=
  match s.elemPre cls 32 (c.made op) xs with
  | (s, some (ev, k)) => (s.holdCmd c op ev k, true)
  | (s, none) => (s, false)

/-- What an engine reads of the team space as its predicates see it, sector by sector (16 R345); an image is seen by none. -/
def Cmd.teamLooks (c : Cmd) (t : Team) (spans : List (Nat × Nat)) : List Look := if t.saved.isSome then [] else c.looks (t.sectorRefs spans)

/-- Operation `op` of an engine reads intervals of the team space. -/
def State.engineRead (s : State) (c : Cmd) (t : Team) (cls op : Nat) (spans : List (Nat × Nat)) : State × Bool :=
  s.lookFirst c cls op (c.teamLooks t spans)

/-- The same read to the predicates that see it afterwards. -/
def State.engineReadDone (s : State) (c : Cmd) (t : Team) (cls : Nat) (spans : List (Nat × Nat)) : State :=
  s.elemsPost cls 32 (c.teamLooks t spans)

/-- Has a stop come to a unit that concerns a launch's work (15 Table 15-4)? -/
def State.stopping (s : State) (u : UnitId) (lk : Nat) : Bool := s.stops.any fun m => m.reached && m.target = u && s.stopsWork m lk

/-- A read of the team space by an engine word at its issue, as the predicates of the core and of the homes see it (16 R345); a precise firing
keeps the word from issuing, and it is not shown again (16 R351, R355). -/
def Env.issueReads (e : Env) (cls : Nat) (spans : List (Nat × Nat)) (body : State → State) : State :=
  match e.team with
  | none => body e.s
  | some t =>
    let rs := if t.saved.isSome || e.lanesSeen then [] else t.sectorRefs spans
    let i : Issuer := .path e.cid e.e
    let w (r : Nat) : WEvent := ⟨cls, refPa r, 32, e.c.pslot, some (e.issuingLane, e.c.gidx, e.c.reg0), 0⟩
    let core (s : State) (r : Nat) : State × Option Nat :=
      let (s, fs) := s.watchCore e.c.gc true (w r) (fun _ _ => 0)
      s.fire fs (gsOf e.c.gc) i e.c.pslot (refPa r) (laneBit e.issuingLane)
    let stop (s : State) (ev : Nat) : State := (s.updCtx e.cid fun c => { c with seen := some (e.e, e.p.pc, true) }).stopIssuer ev i
    match e.s.seeAll core 0 rs with
    | (s, some x) => stop s x.1
    | (s, none) =>
      match s.seeAll (fun s r => s.watchAt i true (w r) r) 0 rs with
      | (s, some x) => stop s x.1
      | (s, none) => rs.foldl (fun s r => (s.watchAt i false (w r) r).1) (body s)

/-- A fatal fault an engine met (15 R328): its group's, or its launch's where the group is gone. -/
def State.fatalCmd (s : State) (c : Cmd) (code : Nat) : State :=
  let owner := (s.ctx? c.ctx).map fun x => (c.ctx, x)
  s.fatalOwner owner (s.cmdLaunch c) (s.slotOf (s.cmdLaunch c)) (gsOf c.gc) code

/-- The piece of memory a reading element takes: bytes, and whether they are poison (09 R202, R404); the decoder marks an uncorrectable
column as it finds it. -/
def State.readPiece (s : State) (ref n : Nat) : State × List Byte × Bool :=
  let (s, code) := s.decodeRead ref n
  (s.touchRow ref, s.refBytes ref n, code ≠ 0)

end Sys2Proof.Machine
end

