-- ==== Sys2Proof/Machine/Copy.lean ====
section
/-! DEFINITION. The copy engine (09 R194-R204): its words, the start checks, sectors read and written, tiles across packages (05 R103). -/

namespace Sys2Proof.Machine

/-! ## Descriptors and runs (09 R197-R200) -/

/-- Word `i` of a tensor descriptor. -/
def dword (d : List Word) (i : Nat) : Nat := (d.getD i 0).toNat

/-- ESZ, NDIM, extents and strides of a descriptor (09 Table 9-8). -/
def descEsz (d : List Word) : Nat := bits (dword d 0) 4 3
def descDims (d : List Word) : Nat := bits (dword d 0) 0 4
def descExt (d : List Word) (k : Nat) : Nat := dword d (1 + k)
def descSstr (d : List Word) (k : Nat) : Int := if k = 0 then 1 else sint 32 (dword d (9 + k))
def descDstr (d : List Word) (k : Nat) : Nat := if k = 0 then 1 else dword d (17 + k)

/-- Bytes a descriptor moves. -/
def descTotal (d : List Word) : Nat := ((List.range (descDims d)).map (descExt d)).foldl (· * ·) (2 ^ descEsz d)

/-- Is a descriptor well formed (09 R197)? -/
def descOk (d : List Word) : Bool :=
  let n := descDims d
  d.length = 32 && dword d 0 / 128 = 0 && decide (descEsz d ≤ 4) && decide (1 ≤ n) && decide (n ≤ 9) &&
    ((List.range 9).all fun k => if k < n then descExt d k ≠ 0 else descExt d k = 0) &&
    ((List.range 9).all fun k => k = 0 || (if k < n then decide (descExt d (k - 1) * descDstr d (k - 1) ≤ descDstr d k) else descDstr d k = 0)) &&
    ((List.range 6).all fun k => dword d (26 + k) = 0) && decide (descTotal d ≤ 2 ^ 40)

/-- Element offsets of the rows of a descriptor, dimension `k` down to 1, in lexicographic order: source and destination. -/
def descRows (d : List Word) : Nat → List (Int × Nat)
  | 0 => [(0, 0)]
  | k + 1 =>
    if descDims d ≤ k + 1 then descRows d k
    else (List.range (descExt d (k + 1))).flatMap fun i => (descRows d k).map fun (r : Int × Nat) =>
      let t : Nat := r.2 + i * descDstr d (k + 1)
      (r.1 + (i : Int) * descSstr d (k + 1), t)

/-- A contiguous run: source address, destination address, bytes. -/
abbrev Run := Int × Nat × Nat

/-- Indices of a list of GATH or SCAT, as its bytes stand. -/
def State.indices (s : State) (t : Team) (c : CopyOp) : List Nat :=
  let k := if c.idx16 then 2 else 4
  (List.range c.rows).map fun i => ofBytes (s.teamBytes t (c.list + k * i) k)

/-- The runs of a copy in ascending destination order; FILL has its destination alone. -/
def CopyOp.runs (c : CopyOp) (idx : List Nat) : List Run :=
  match c.form with
  | .cpy =>
    let e : Nat := 2 ^ descEsz c.desc
    let n : Nat := descExt c.desc 0 * e
    (descRows c.desc 8).map fun (r : Int × Nat) =>
      let d : Nat := c.dst + r.2 * e
      ((c.src : Int) + r.1 * (e : Int), d, n)
  | .cpyi | .fill => [(c.src, c.dst, c.bytes)]
  | .cpys => (List.range c.rows).map fun r => ((c.src + r * c.pitch : Nat), c.dst + r * c.bytes, c.bytes)
  | .gath => ((List.range idx.length).zip idx).map fun ri => ((c.src + ri.2 * c.bytes : Nat), c.dst + ri.1 * c.bytes, c.bytes)
  | .scat => ((List.range idx.length).zip idx).map fun ri => ((c.src + ri.1 * c.bytes : Nat), c.dst + ri.2 * c.bytes, c.bytes)

/-- Bounding range of the sources and of the destinations of runs. -/
def srcHull (rs : List Run) : Int × Int :=
  match rs with
  | [] => (0, 0)
  | r :: rest => rest.foldl (fun h x => (min h.1 x.1, max h.2 (x.1 + x.2.2))) (r.1, r.1 + r.2.2)
def dstHull (rs : List Run) : Nat × Nat :=
  match rs with
  | [] => (0, 0)
  | r :: rest => rest.foldl (fun h x => (min h.1 x.2.1, max h.2 (x.2.1 + x.2.2))) (r.2.1, r.2.1 + r.2.2)

/-- Has the copy a source in memory? -/
def CopyOp.reads (c : CopyOp) : Bool := c.form ≠ .fill

/-- Has the copy an index list? -/
def CopyOp.listed (c : CopyOp) : Bool := c.form = .gath || c.form = .scat

/-- Can the index list be read? -/
def CopyOp.listOk (c : CopyOp) (t : Team) : Bool :=
  let n := if c.idx16 then 2 else 4
  c.listed && c.list % n = 0 && decide (c.rows ≤ 65536) && decide (c.list + n * c.rows ≤ t.scratch)

/-- Size of a local space a team sees: its scratchpad, the stack range, scale memory. -/
def localSize (t : Team) (space : Nat) : Nat :=
  match space with
  | 1 => t.scratch
  | 2 => 0x1C00000
  | _ => 0x8000

/-- The start checks of a copy (09 R201): the cause and address of a refusal. `d` is the raw space word of FILL. -/
def copyRefusal (t : Team) (c : CopyOp) (idx : List Nat) : Option (Nat × Nat) :=
  let spaces := c.srcSp < 3 && (c.dstSp < 3 || (c.form = .cpys && c.dstSp = 4))
  let nearOk := !c.listed || (if c.form = .gath then 1 ≤ c.dstSp else 1 ≤ c.srcSp)
  let form := match c.form with
    | .cpy => descOk c.desc || (c.list % 128 ≠ 0 || t.scratch < c.list + 128)
    | .cpyi => c.bytes % 4 = 0 && 4 ≤ c.bytes
    | .cpys => 1 ≤ c.bytes && c.bytes ≤ 32768
    | .gath | .scat => c.bytes % 4 = 0 && 4 ≤ c.bytes && c.bytes ≤ 2 ^ 20 && 1 ≤ c.rows && c.rows ≤ 65536
    | .fill => c.bytes % 4 = 0 && c.pitch / 4 = 0
  let listSize := if c.idx16 then 2 else 4
  let ascending := c.form ≠ .scat || ((idx.zip (idx.drop 1)).all fun p => decide (p.1 < p.2))
  let align := match c.form with
    | .cpy => c.list % 128 = 0 && c.src % 2 ^ descEsz c.desc = 0 && c.dst % 2 ^ descEsz c.desc = 0
    | .cpyi => c.src % 4 = 0 && c.dst % 4 = 0
    | .fill => c.dst % 4 = 0
    | .cpys => true
    | .gath | .scat => c.list % listSize = 0
  let rs := c.runs idx
  let sh := srcHull rs
  let dh := dstHull rs
  let inSrc := !c.reads || c.srcSp = 0 || (decide (0 ≤ sh.1) && decide (sh.2 ≤ localSize t c.srcSp))
  let inDst := c.dstSp = 0 || decide (dh.2 ≤ localSize t c.dstSp)
  let inList := !c.listed || decide (c.list + listSize * c.rows ≤ t.scratch)
  let inDesc := c.form ≠ .cpy || decide (c.list + 128 ≤ t.scratch)
  let clash := c.reads && c.srcSp ≠ 0 && c.srcSp = c.dstSp && decide (sh.1 < dh.2) && decide ((dh.1 : Int) < sh.2) &&
    !(sh.1 = dh.1 && sh.2 = dh.2)
  if !spaces || !nearOk || !form then some (0x02, c.dst)
  else if !align then some (0x07, c.dst)
  else if !inDesc || !inList then some (0x20, c.list)
  else if !ascending then some (0x02, c.list)
  else if !inSrc then some (0x20, c.src)
  else if !inDst then some (0x20, c.dst)
  else if clash then some (0x02, c.dst)
  else none

/-- Cut a run at the sectors of its destination: sector, offset in it, source, bytes; the fuel bounds the pieces. -/
def splitRun : Nat → Nat → Nat → Nat → List (Nat × Nat × Nat × Nat)
  | 0, _, _, _ => []
  | f + 1, dst, src, n =>
    if n = 0 then [] else
    let k := min n (32 - dst % 32)
    (dst / 32 * 32, dst % 32, src, k) :: splitRun f (dst + k) ((src + k) % 2 ^ 64) (n - k)

/-- A sector with nothing read. -/
def emptySector (dst : Nat) (ps : List (Nat × Nat × Nat)) : Sector where
  dst := dst
  pieces := ps
  st := .waiting
  data := []
  bits := []
  poison := false
  reply := none
  probed := none
  refs := []
  held := none
  shown := 0
  queued := false

/-- Gather pieces of one sector that stand beside one another. -/
def gatherSectors : List (Nat × Nat × Nat × Nat) → List Sector
  | [] => []
  | (d, o, a, n) :: rest =>
    match gatherSectors rest with
    | x :: xs => if x.dst = d then { x with pieces := (o, a, n) :: x.pieces } :: xs else emptySector d [(o, a, n)] :: x :: xs
    | [] => [emptySector d [(o, a, n)]]

/-- The sectors of a copy's runs. -/
def sectorsOfRuns (rs : List Run) : List Sector :=
  gatherSectors (rs.flatMap fun r => splitRun (r.2.2 / 32 + 2) r.2.1 (wrap 64 r.1) r.2.2)

/-- FILL's bytes stand in its sectors at once. -/
def fillSector (pattern : Word) (x : Sector) : Sector :=
  let bytes := x.pieces.flatMap fun p => (List.range p.2.2).map fun i =>
    (p.1 + i, BitVec.ofNat 8 (bits pattern.toNat (8 * ((x.dst + p.1 + i) % 4)) 8))
  { x with
    pieces := []
    st := .read
    data := bytes }

/-- Destination intervals a copy will write, as far as its operands and, for SCAT, its list as it stands give them (09 R197-R200). -/
def CopyOp.spans (c : CopyOp) (idx : List Nat) : List (Nat × Nat) :=
  match c.form with
  | .cpy => if descOk c.desc then (c.runs []).map (·.2) else []
  | .cpyi | .fill => [(c.dst, c.bytes)]
  | .cpys => []
  | .gath => [(c.dst, c.rows * c.bytes)]
  | .scat => (c.runs idx).map (·.2)

/-- Addresses of the aligned lines an interval meets. -/
def lineAddrs (a n : Nat) : List Nat := if n = 0 then [] else (List.range ((a + n - 1) / 128 - a / 128 + 1)).map fun i => (a / 128 + i) * 128

/-- Scratchpad lines that destination intervals of a command meet: within the team's allocation, or as the global space maps them (03 R48,
R63). -/
def State.linesOfSpans (s : State) (c : Cmd) (k : CopyOp) (t : Team) (rs : List (Nat × Nat)) : List Nat :=
  let clip (r : Nat × Nat) : Nat := if k.dstSp = 1 then min r.2 (t.scratch - r.1) else r.2
  if k.dstSp = 2 then [] else
  ((rs.flatMap fun r => lineAddrs r.1 (clip r)).filterMap fun a => s.copyLine c k a).eraseDups

/-- A range of the team space, cut at its end. -/
def Team.clip (t : Team) (lo hi : Nat) : Range := t.range (min lo t.scratch) (min hi t.scratch)

/-- Ranges a copy holds from its issue (09 R192): an index list not read yet leaves the side it indexes open to the end of the allocation
(log 82, DESIGN CHOICE). -/
def CopyOp.ranges (c : CopyOp) (t : Team) : List Range × List Range :=
  let rs := if c.form ≠ .cpy || descOk c.desc then c.runs [] else []
  let sh := srcHull rs
  let dh := dstHull rs
  let src := match c.form with
    | .fill | .cpys => []
    | .gath => [t.clip c.src t.scratch]
    | .scat => [t.clip c.src (c.src + c.rows * c.bytes)]
    | _ => [t.clip sh.1.toNat sh.2.toNat]
  let dst := match c.form with
    | .gath => t.clip c.dst (c.dst + c.rows * c.bytes)
    | .scat => t.clip c.dst t.scratch
    | _ => t.clip dh.1 dh.2
  let list := if c.listed then [t.clip c.list (c.list + (if c.idx16 then 2 else 4) * c.rows)] else []
  ((if c.srcSp = 1 then src else []) ++ list,
    if c.form = .cpys then [⟨2, c.dst, c.dst + c.rows * c.bytes⟩] else if c.dstSp = 1 then [dst] else [])

/-- Ranges a copy holds once it has started: its index list is read. -/
def CopyOp.rangesOf (c : CopyOp) (t : Team) (rs : List Run) : List Range × List Range :=
  let sh := srcHull rs
  let dh := dstHull rs
  (if c.reads && c.form ≠ .cpys && c.srcSp = 1 then [t.clip sh.1.toNat sh.2.toNat] else [],
    if c.form = .cpys then [⟨2, dh.1, dh.2⟩] else if c.dstSp = 1 then [t.clip dh.1 dh.2] else [])

/-! ## The words -/

/-- A copy with nothing set. -/
def blankCopy (f : CopyForm) : CopyOp := ⟨f, 0, 0, 0, 0, 0, 0, 0, 0, false, false, 0, [], none, [], false⟩

/-- Issue a copy (09 R204): OPEN counts it and its destination lines become absent, before any later word of the group; also those of a copy
that its start will refuse. The lines of a SCAT are those of its list as it stands (log 82, DESIGN CHOICE). -/
def Env.sendCopy (e : Env) (s : State) (nw : Nat) (op : Team → CopyOp) : State :=
  match s.team? e.c.team with
  | none => s
  | some t =>
    let k := { op t with stripe := (s.pkg (pkgOf (gsOf e.c.gc))).stripe }
    let key := batchKey e.c.gidx e.issuingLane
    let b := mget t.batches key Batch.empty
    let b := { b with opn := b.opn + 1, pend := mset b.pend 0 (mget b.pend 0 0 + 1) 0 }
    let c := e.command s.nextId false (.copy k) (k.ranges t).1 (k.ranges t).2
    let lines := s.linesOfSpans c k t (k.spans (if k.listOk t then s.indices t k else []))
    let s := e.sendCmd (s.setTeam e.c.team { t with batches := mput t.batches key b }) false (.copy { k with lines := lines }) c.reads c.writes
    (s.clearLines c lines).setCtx e.cid (e.c.advance e.e nw e.now none)

/-- A copy word: its checks, what holds it, then the copy. -/
def Env.copy (e : Env) (nw : Nat) (ds : List Nat) (op : Team → CopyOp) : State :=
  e.checked e.lanes ds [] (e.engine false (e.sendCopy e.s nw op))

/-- The words of a descriptor in team space, where it can be read. -/
def State.teamWords (s : State) (t : Team) (off n : Nat) : List Word :=
  if t.scratch < off + 4 * n then []
  else (List.range n).map fun i => BitVec.ofNat 32 (ofBytes (s.teamBytes t (off + 4 * i) 4))

/-- The interval a descriptor of `n` bytes at a team offset is read from, where it can be read. -/
def Team.descSpan (t : Team) (off n : Nat) : List (Nat × Nat) := if t.scratch < off + n then [] else [(off, n)]

/-- CPY (09 R197): the descriptor is read whole at issue, which the predicates see (16 R345). -/
def execCpy (f : FmtE) (c : CopyCtl) (s : State) : Out :=
  withIssuer s fun e =>
    let span := (e.team.map fun t => t.descSpan (e.sval f.ea) 128).getD []
    e.checked e.lanes (pairDefect f.eb ++ pairDefect f.ec) []
      (e.engine false
        (e.issueReads 4 span fun s => e.sendCopy s 2 fun t =>
          { blankCopy .cpy with
            srcSp := c.src.toNat
            dstSp := c.dst.toNat
            src := e.base c.src.toNat f.eb
            dst := e.base c.dst.toNat f.ec
            list := e.sval f.ea
            ord := c.ord
            desc := s.teamWords t (e.sval f.ea) 32 }))

/-- CPYI (09 R198). -/
def execCpyi (f : FmtE) (c : CopyCtl) (s : State) : Out :=
  withIssuer s fun e =>
    e.copy 2 (pairDefect f.ea ++ pairDefect f.eb) fun _ =>
      { blankCopy .cpyi with
        srcSp := c.src.toNat
        dstSp := c.dst.toNat
        src := e.base c.src.toNat f.ea
        dst := e.base c.dst.toNat f.eb
        bytes := e.sval f.ec
        ord := c.ord }

/-- CPYS (09 R198): rows packed into scale memory. -/
def execCpys (f : FmtE) (s : State) : Out :=
  withIssuer s fun e =>
    e.copy 1 (pairDefect f.ea) fun _ =>
      { blankCopy .cpys with
        dstSp := 4
        src := e.spair f.ea.toNat
        dst := e.sval f.eb
        bytes := e.sval f.ec
        rows := e.sval f.ed
        pitch := e.sval f.ee }

/-- GATH (09 R199). -/
def execGath (f : FmtE) (c : GathCtl) (s : State) : Out :=
  withIssuer s fun e =>
    e.copy 2 (pairDefect f.ea) fun _ =>
      { blankCopy .gath with
        srcSp := c.far.toNat
        dstSp := c.near.toNat
        src := e.base c.far.toNat f.ea
        dst := e.sval f.ed
        list := e.sval f.eb
        bytes := e.sval f.ec
        rows := e.sval f.ee
        idx16 := c.idx16
        ord := c.ord }

/-- SCAT (09 R199). -/
def execScat (f : FmtE) (c : GathCtl) (s : State) : Out :=
  withIssuer s fun e =>
    e.copy 2 (pairDefect f.ed) fun _ =>
      { blankCopy .scat with
        srcSp := c.near.toNat
        dstSp := c.far.toNat
        src := e.sval f.ea
        dst := e.base c.far.toNat f.ed
        list := e.sval f.eb
        bytes := e.sval f.ec
        rows := e.sval f.ee
        idx16 := c.idx16
        ord := c.ord }

/-- FILL (09 R200): its space stands in bits [1:0] of sED. -/
def execFill (f : FmtE) (s : State) : Out :=
  withIssuer s fun e =>
    let sp := e.sval f.ed
    e.copy 1 (pairDefect f.ea) fun _ =>
      { blankCopy .fill with
        dstSp := sp % 4
        dst := e.base (sp % 4) f.ea
        bytes := e.sval f.eb
        pattern := e.sreg f.ec.toNat
        pitch := sp }

/-- Batches of the issuing lane. -/
def Env.batch (e : Env) : Batch := ((e.s.team? e.c.team).map fun t => mget t.batches (batchKey e.c.gidx e.issuingLane) Batch.empty).getD Batch.empty

/-- SEAL (09 R203): the lane's open copies become batch LAST + 1; held while 15 sealed batches are incomplete (09 R195). -/
def execSeal (f : FmtE) (s : State) : Out :=
  withIssuer s fun e =>
    let b := e.batch
    if s.acquiring e.cid then e.hold 2
    else if 15 ≤ b.last - b.done then e.hold 4
    else
      let n := b.last + 1
      let b := { b with opn := 0, last := n, pend := mset (mset b.pend n (mget b.pend 0 0) 0) 0 0 0 }
      let mine (c : Cmd) : Bool := c.team = e.c.team && c.gidx = e.c.gidx && c.lane = e.issuingLane
      let close (c : Cmd) : Cmd := match c.kind with
        | .copy k => if mine c && k.batch.isNone then { c with kind := .copy { k with batch := some n } } else c
        | _ => c
      let s : State := { s with cmds := s.cmds.map close }
      let s := s.updTeam e.c.team fun t => { t with batches := mput t.batches (batchKey e.c.gidx e.issuingLane) (b.raise 64) }
      let c := { e.c with sregs := mset e.c.sregs f.ea.toNat (BitVec.ofNat 32 n) 0 }
      s.setCtx e.cid (c.advance e.e 1 e.now none)

/-- WAITB (09 R203): held until the lane's DONE reaches sEA; 0x02 above LAST. -/
def execWaitb (f : FmtE) (s : State) : Out :=
  withIssuer s fun e =>
    let b := e.batch
    let n := e.sval f.ea
    if b.last < n then e.fault 0x02 e.lanes
    else if s.acquiring e.cid || decide (b.done < n) then e.hold 4
    else e.finish e.c 1

/-! ## Start (09 R192, R201) -/

/-- The interval of a copy's index list, where it can be read. -/
def CopyOp.listSpan (c : CopyOp) (t : Team) : List (Nat × Nat) := if c.listOk t then [(c.list, (if c.idx16 then 2 else 4) * c.rows)] else []

/-- COPY_START (09 R199, R201): the scoreboard allows it; the list is read, which the predicates see (16 R345), the command checked, its sectors
laid out. -/
def execCopyStart (cmd : Nat) (s : State) : Out :=
  match s.cmd? cmd with
  | none => .next s
  | some c =>
    match c.kind, s.team? c.team with
    | .copy k, some t =>
      if c.started || t.saved.isSome || !s.runs c || !s.mayStart c then .next s else
      match s.engineRead c t 4 0 (k.listSpan t) with
      | (s, true) => .next s
      | (s, false) =>
      let idx := if k.listOk t then s.indices t k else []
      let s := s.engineReadDone c t 4 (k.listSpan t)
      match copyRefusal t k idx with
      | some (cause, addr) => .next (s.refuseCmd c 0x60 cause 7 (if k.dstSp = 0 then 6 else 5) addr 0)
      | none =>
        let rs := k.runs idx
        let sectors := sectorsOfRuns rs
        let sectors := if k.form = .fill then sectors.map (fillSector k.pattern) else sectors
        let lines := s.linesOfSpans c k t (rs.map (·.2))
        let c' := { c with
              started := true
              seen := none
              kind := .copy { k with lines := lines }
              sectors := sectors
              reads := (k.rangesOf t rs).1
              writes := (k.rangesOf t rs).2 }
        let s := ((s.setCmd c').clearLines c' lines).showLines c' k.lines
        .next (if sectors.isEmpty then s.endCmd c' else s)
    | _, _ => .next s

/-! ## Sectors (09 R194, R197, R202) -/

/-- Where a piece stands: a reference with its aperture and the size of its leaf in bits, a byte interval of an image of a saved team, or
scale memory. -/
inductive Spot where
  | ref (r aper leaf : Nat)
  | image
  | scale
  deriving DecidableEq, Repr

/-- The place of `n` bytes at an address of a space, for a command; a home out of reach fails with cause 0x42 (05 Table 5-4, 17 R376). -/
def State.spotOf (s : State) (c : Cmd) (t : Team) (acls space addr n : Nat) : State × Except Miss Spot :=
  match space with
  | 0 =>
    match s.probeLeaf (s.askerOf c) ⟨acls, n, true, false, false⟩ addr with
    | (s, .error m) => (s, .error m)
    | (s, .ok (r, ap, leaf)) =>
      let lost := (ap = 1 && !s.reaches (gsOf c.gc) (paGs (refPa r))) || (ap = 2 && !s.hostUp (gsOf c.gc))
      (s, if lost then .error (0x42, 7) else .ok (.ref r ap leaf))
  | 1 => (s, .ok (if t.saved.isSome then .image else .ref (t.pa addr) 0 0))
  | 2 => (s, .ok (.ref (sharedPa (gsOf c.gc) addr) 0 0))
  | _ => (s, .ok .scale)

/-- A part of a sector within one source sector: offset in the sector, source address, bytes. -/
abbrev Part := Nat × Nat × Nat

/-- The parts of a sector's pieces. -/
def Sector.parts (x : Sector) : List Part :=
  x.pieces.flatMap fun p => (splitRun 3 p.2.1 0 p.2.2).map fun q => (p.1 + (q.1 + q.2.1 - p.2.1), q.1 + q.2.1, q.2.2.2)

/-- Probe every part of a sector; the first failure stops it. -/
def State.partSpots (s : State) (c : Cmd) (t : Team) (acls space : Nat) : List Part → State × Except (Nat × Miss) (List (Part × Spot))
  | [] => (s, .ok [])
  | p :: ps =>
    match s.spotOf c t acls space p.2.1 p.2.2 with
    | (s, .error m) => (s, .error (p.2.1, m))
    | (s, .ok x) =>
      match s.partSpots c t acls space ps with
      | (s, .error m) => (s, .error m)
      | (s, .ok xs) => (s, .ok ((p, x) :: xs))

/-- Is a place in another package? -/
def Spot.far : Spot → Bool
  | .ref _ 1 _ => true
  | _ => false

/-- Home of a place. -/
def Spot.home : Spot → Option Nat
  | .ref r _ _ => some (paGs (refPa r))
  | _ => none

/-- The reference of a place, 0 without one. -/
def Spot.refOf : Spot → Nat
  | .ref r _ _ => r
  | _ => 0

/-- Size in bits of the leaf of a place, 0 without one. -/
def Spot.leaf : Spot → Nat
  | .ref _ _ l => l
  | _ => 0

/-- Must a command's request wait: its bank is taken, or an older message from its stack to that other stack is still to perform
(08 R162; log 83, DEDUCED)? -/
def State.spotBusy (s : State) (c : Cmd) : Spot → Bool
  | .ref r _ _ => s.refBusy r || (paGs (refPa r) ≠ gsOf c.gc && s.chan.any fun m => m.src = gsOf c.gc && m.dst = paGs (refPa r))
  | _ => false

/-- Put a sector back in its command. -/
def Cmd.setSector (c : Cmd) (i : Nat) (x : Sector) : Cmd := { c with sectors := c.sectors.set i x }

/-- A sector that parks takes an entry of the replay queue (15 R333). -/
def Sector.park (x : Sector) (cause rid : Nat) : Sector := { x with st := .parked cause rid, queued := true, shown := 0 }

/-- Park sector `i` of a command, unless it finds no entry of the replay queue (09 R202, 15 R333, R334). -/
def State.parkSector (s : State) (c : Cmd) (i : Nat) (x : Sector) (code acls addr : Nat) (m : Miss) : State :=
  if !x.queued && s.queueFull c.gc then s else
  let (r, s) := s.reportElem c c.gidx code m.1 m.2 acls 0 addr 0
  s.setCmd (c.setSector i (x.park m.1 r))

/-- Source sectors of places that predicates see (16 R345). -/
def seenRefs (ps : List (Part × Spot)) : List Nat :=
  (ps.filterMap fun p => match p.2 with
    | .ref r _ _ => some (sectorRef r)
    | _ => none).eraseDups

/-- Read the parts of a sector: the bytes with their offsets, and whether one is poison. -/
def State.readParts (s : State) (c : Cmd) (t : Team) : List (Part × Spot) → State × List (Nat × Byte) × Bool
  | [] => (s, [], false)
  | (p, x) :: ps =>
    let (off, addr, n) := p
    let (s, bs, bad) := match x with
      | .ref r _ _ => s.readPiece r n
      | .image => (s, s.teamBytes t addr n, (sectorsOf addr n).any fun k => s.teamPoison t (32 * k))
      | .scale => (s, (List.range n).map fun k => mget (s.core c.gc).scale (addr + k) 0, false)
    let (s, rest, worse) := s.readParts c t ps
    (s, (bs.zipIdx.map fun b => (off + b.2, b.1)) ++ rest, bad || worse)

/-- Do a copy's source bytes of a sector wait for a lower sector of the same copy (09 R197)? -/
def sourceWaits (k : CopyOp) (lower : List Sector) (x : Sector) : Bool :=
  k.srcSp = k.dstSp && x.pieces.any fun p => lower.any fun y => !y.written && (match y.st with
    | .parked .. => false
    | _ => true) && decide (y.dst < p.2.1 + p.2.2) && decide (p.2.1 < y.dst + 32)

/-- A sector held unperformed by a precise firing, `looks` of its looks made: it stays probed (03 R58, 16 R351, R355). -/
def State.holdSector (s : State) (c : Cmd) (i : Nat) (x : Sector) (leaf ev looks : Nat) : State :=
  let (h, s) := s.fresh
  s.setCmd (c.setSector i { x with
    held := some ev
    shown := looks
    probed := if leaf = 0 then none else some (h, leaf) })

/-- Greatest leaf of places, in bits. -/
def leafOf (ps : List (Part × Spot)) : Nat := (ps.map (·.2.leaf)).foldl max 0

/-- Perform the read of a sector whose parts' places are known. -/
def State.sectorRead (s : State) (c : Cmd) (t : Team) (i : Nat) (x : Sector) (cls : Nat) (ps : List (Part × Spot)) : State :=
  match s.elemPre cls 32 x.shown (c.looks (seenRefs ps)) with
  | (s, some (ev, k)) => s.holdSector c i { x with st := .waiting } (leafOf ps) ev k
  | (s, none) =>
    let (s, data, bad) := s.readParts c t ps
    (s.elemsPost cls 32 (c.looks (seenRefs ps))).setCmd (c.setSector i { x with
      st := .read
      shown := 0
      probed := none
      data := data
      poison := bad })

/-! ## Tiles across packages (05 R102, R103) -/

/-- Plane of a command's tile flit for sector `i`: the pinned one, or in turn, two sectors each, where the plane's channel is up (05 R92,
R102). -/
def State.tilePlane (s : State) (c : Cmd) (i dst : Nat) : Nat :=
  let own := planeOf (gsOf c.gc)
  let turn := (own + i / 2) % 8
  if c.kind.striped && (s.link (pkgOf (gsOf c.gc)) turn (pkgOf dst)).up then turn else own

/-- May a command send a tile flit: room on its channel, and a striped sender at most 64 sectors ahead of the oldest that is not acknowledged
(05 R95, R102)? -/
def State.tileRoom (s : State) (c : Cmd) (i dst : Nat) : Bool :=
  s.canSend (gsOf c.gc) dst (s.tilePlane c i dst) && (!c.kind.striped || match c.sectors.findIdx? (fun x => x.st = .sent) with
    | some k => decide (i < k + 64)
    | none => true)

/-- Sectors sent in one tile flit, with the references their probes found. -/
def Cmd.sendSectors (c : Cmd) (h : Nat) (write : Bool) (xs : List (Nat × Sector × List (Part × Spot))) : Cmd :=
  xs.foldl (fun c y => c.setSector y.1 { y.2.1 with
    st := .sent
    pieces := if write then [] else y.2.1.pieces
    probed := if leafOf y.2.2 = 0 then none else some (h, leafOf y.2.2)
    refs := y.2.2.map (·.2.refOf) }) c

/-- Send a tile flit for sectors of a command to a home in another package (05 R103). -/
def State.sendTile (s : State) (c : Cmd) (dst : Nat) (write : Bool) (xs : List (Nat × Sector × List (Part × Spot))) : State :=
  match xs with
  | [] => s
  | x :: _ =>
    let is := xs.map (·.1)
    let (id, s) := s.fresh
    let body : MsgBody := if write then .tileWrite c.id is else .tileRead c.id is
    let s : State := { s with chan := s.chan ++ [⟨id, gsOf c.gc, dst, body, none, false, false, false⟩] }
    (s.setCmd (c.sendSectors id write xs)).sendFlit (gsOf c.gc) dst (s.tilePlane c x.1 dst) (if write then 4 else 2) id

/-- Probe sectors until one fails. -/
def State.probeRun (s : State) (probe : State → Sector → State × Except (Nat × Miss) (List (Part × Spot))) :
    List (Nat × Sector) → State × List (Nat × Sector × List (Part × Spot))
  | [] => (s, [])
  | (i, x) :: rest =>
    match probe s x with
    | (s, .error _) => (s, [])
    | (s, .ok ps) =>
      let (s, more) := s.probeRun probe rest
      (s, (i, x, ps) :: more)

/-- Lowest address and end of a list of parts. -/
def partHull (ps : List (Part × Spot)) : Nat × Nat :=
  ps.foldl (fun h p => (min h.1 p.1.2.1, max h.2 (p.1.2.1 + p.1.2.2))) (2 ^ 64, 0)

/-- The first sectors of a run that stand at one far home, within 128 bytes of source (05 R103). -/
def farRun (home lo : Nat) : List (Nat × Sector × List (Part × Spot)) → List (Nat × Sector × List (Part × Spot))
  | [] => []
  | y :: ys =>
    let h := partHull y.2.2
    if (y.2.2.all fun p => p.2.far && p.2.home = some home) && decide (lo ≤ h.1) && decide (h.2 ≤ lo + 128) then y :: farRun home lo ys else []

/-- Show sectors to the core's predicates at their probe; one a precise firing holds, and those after it, are not sent. -/
def State.seeRun (s : State) (c : Cmd) (cls : Nat) : List (Nat × Sector × List (Part × Spot)) → State × List (Nat × Sector × List (Part × Spot))
  | [] => (s, [])
  | y :: ys =>
    match s.coreLooks cls 32 y.2.1.shown (c.looks (seenRefs y.2.2)) with
    | (s, some (ev, k)) => (s.holdSector ((s.cmd? c.id).getD c) y.1 y.2.1 (leafOf y.2.2) ev k, [])
    | (s, none) =>
      let (s, more) := s.seeRun c cls ys
      (s, y :: more)

/-- Ask a far home for sector `i` of a command and those after it that one request takes: 128 bytes, or a pair where the copy is striped
(05 R102, R103). -/
def State.askTile (s : State) (c : Cmd) (i home cls : Nat) (probe : State → Sector → State × Except (Nat × Miss) (List (Part × Spot)))
    (ready : Nat → Sector → Bool) : State :=
  let most := if c.kind.striped then 2 - i % 2 else 4
  let cand := ((c.sectors.zipIdx.drop i).take most).map fun (x, k) => (k, x)
  let cand := cand.takeWhile fun y => y.2.st = .waiting && y.2.held.isNone && ready y.1 y.2
  let (s, ys) := s.probeRun probe cand
  let near := farRun home (((ys.head?).map fun y => (partHull y.2.2).1).getD 0) ys
  let ys := if near.isEmpty then ys.take 1 else near
  let (s, ys) := s.seeRun c cls ys
  s.sendTile ((s.cmd? c.id).getD c) home false ys

/-- COPY_SECTOR_ISSUE (09 R194, R202): the lowest sector not yet read is probed and read, or sent for in another package. -/
def execCopySectorIssue (cmd : Nat) (s : State) : Out :=
  match s.cmd? cmd with
  | none => .next s
  | some c =>
    match c.kind, s.team? c.team, c.sectors.findIdx? fun x => x.st = .waiting && x.held.isNone with
    | .copy k, some t, some i =>
      match c.sectors[i]? with
      | none => .next s
      | some x =>
        let ready (n : Nat) (y : Sector) : Bool := !sourceWaits k (c.sectors.take n) y
        if !s.runs c || !ready i x then .next s else
        match s.partSpots c t 5 k.srcSp x.parts with
        | (s, .error (addr, m)) => .next (s.parkSector c i x 0x60 5 addr m)
        | (s, .ok ps) =>
          match ps.find? fun p => p.2.far with
          | some p =>
            let home := (p.2.home).getD 0
            if !s.tileRoom c i home then .next s
            else if ps.all fun p => p.2.far && p.2.home = some home then
              .next (s.askTile c i home 4 (fun s y => s.partSpots c t 5 k.srcSp y.parts) ready)
            else
              match s.seeRun c 4 [(i, x, ps)] with
              | (s, ys) => .next (s.sendTile ((s.cmd? c.id).getD c) home false ys)
          | none => .next (if ps.any (fun p => s.spotBusy c p.2) then s else s.sectorRead c t i x 4 ps)
    | _, _, _ => .next s

/-- First byte and length a sector covers: its data, or before it is read its pieces. -/
def Sector.cover (x : Sector) : Nat × Nat :=
  let is := if x.data.isEmpty then x.pieces.map fun p => (p.1, p.1 + p.2.2) else x.data.map fun d => (d.1, d.1 + 1)
  let lo := (is.map (·.1)).foldl min 32
  let hi := (is.map (·.2)).foldl max 0
  (lo, hi - lo)

/-- Write a sector's bytes at a reference to its first byte: whole, or byte-masked (09 R173, R197, R404). -/
def State.writeMasked (s : State) (ref0 : Nat) (data : List (Nat × Byte)) (poison : Bool) : State :=
  let s := s.touchRow ref0
  let s := if data.length = 32 then s.refStore ref0 ((List.range 32).map fun o => ((data.find? fun d => d.1 = o).map (·.2)).getD 0)
    else data.foldl (fun s d => s.refStore (ref0 + d.1) [d.2]) s
  if poison then s.markPoison ref0 else s

/-- Write a sector at its place, or the event number of a precise firing with the looks made (16 R355). -/
def State.sectorWrite (s : State) (c : Cmd) (t : Team) (x : Sector) (cls : Nat) (p : Spot) : State × Option (Nat × Nat) :=
  match p with
  | .ref r _ _ =>
    let xs := c.looks [sectorRef r]
    match s.elemPre cls 32 x.shown xs with
    | (s, some f) => (s, some f)
    | (s, none) => (((s.writeMasked (r - x.cover.1) x.data x.poison).elemsPost cls 32 xs), none)
  | .image =>
    let s := if x.data.length = 32 then s.setTeamBytes t x.dst ((List.range 32).map fun o => ((x.data.find? fun d => d.1 = o).map (·.2)).getD 0)
      else x.data.foldl (fun s d => s.setTeamBytes t (x.dst + d.1) [d.2]) s
    (if x.poison then s.poisonTeam t x.dst else s, none)
  | .scale => match s.imageOf t, t.slotCores.findIdx? (· = c.gc) with
    | some i, some k => (x.data.foldl (fun s d => s.refStore (s.imgPa i (i.sec 7 + k * 0x8000 + x.dst + d.1)) [d.2]) s, none)
    | _, _ => (s.updCore c.gc fun k => { k with scale := x.data.foldl (fun m d => mset m (x.dst + d.1) d.2 0) k.scale }, none)

/-- Sector `i` of a command has performed: its line may show, and with the last one the command is complete. -/
def State.sectorDone (s : State) (c : Cmd) (i : Nat) (x : Sector) : State :=
  let owed := s.cmdOwes c
  let c := c.setSector i { x with
    st := .done
    data := []
    pieces := []
    reply := none
    probed := none
    shown := 0
    queued := false
    refs := [] }
  let s := (s.setCmd c).showLines c owed
  if c.sectors.all (fun y => y.st = .done) then s.endCmd c else s

/-- Home of a sector's destination, as its translation stands. -/
def State.sectorHome (s : State) (c : Cmd) (t : Team) (space : Nat) (x : Sector) : Option Nat :=
  match (s.spotOf c t 6 space (x.dst + x.cover.1) 1).2 with
  | .ok p => p.home
  | .error _ => none

/-- May a sector become visible, or leave for its home: after every lower one where order is asked, else after the lower ones of its home,
parked ones aside; one on its way to the same home goes before it (08 R172, 09 R194, R202)? -/
def State.sectorTurn (s : State) (c : Cmd) (t : Team) (space : Nat) (ord : Bool) (i : Nat) (home : Option Nat) : Bool :=
  (c.sectors.take i).all fun y => y.written ||
    (y.st = .sent && y.pieces.isEmpty && s.sectorHome c t space y = home) || (!ord && ((match y.st with
      | .parked .. => true
      | _ => false) || s.sectorHome c t space y ≠ home))

/-- May a command still write what has left its source: a halt drops nothing in flight (15 R337)? -/
def State.lands (s : State) (c : Cmd) (k : CopyOp) : Bool := s.runs c || ((c.stop.map (·.code)) = some 0xA0 && k.form ≠ .fill)

/-- The sector that fills a tile-write flit with sector `i` (05 R103): the next, where it may go to the same home now. -/
def State.partner (s : State) (c : Cmd) (t : Team) (acls space i : Nat) (home : Option Nat) : State × List (Nat × Sector × List (Part × Spot)) :=
  match if c.kind.striped && i % 2 = 1 then none else c.sectors[i + 1]? with
  | none => (s, [])
  | some y =>
    if y.st ≠ .read || y.held.isSome || y.dst ≠ ((c.sectors[i]?).map (·.dst)).getD 0 + 32 then (s, []) else
    let (lo, n) := y.cover
    match s.spotOf c t acls space (y.dst + lo) n with
    | (s, .ok p) => (s, if p.far && p.home = home then [(i + 1, y, [((lo, y.dst + lo, n), p)])] else [])
    | (s, .error _) => (s, [])

/-- COPY_SECTOR_LAND (09 R194, R202): a sector that has been read is written at its destination home, or sent to another package. -/
def execCopySectorLand (cmd sector : Nat) (s : State) : Out :=
  match s.cmd? cmd with
  | none => .next s
  | some c =>
    match c.kind, s.team? c.team, c.sectors[sector]? with
    | .copy k, some t, some x =>
      if x.st ≠ .read || x.held.isSome || !s.lands c k then .next s else
      let (lo, n) := x.cover
      match s.spotOf c t 6 k.dstSp (x.dst + lo) n with
      | (s, .error m) => .next (s.parkSector c sector x 0x60 6 (x.dst + lo) m)
      | (s, .ok p) =>
        if !s.sectorTurn c t k.dstSp k.ord sector p.home then .next s
        else if p.far then
          let home := (p.home).getD 0
          if !s.tileRoom c sector home then .next s else
          let (s, more) := s.partner c t 6 k.dstSp sector p.home
          let (s, ys) := s.seeRun c 4 ((sector, x, [((lo, x.dst + lo, n), p)]) :: more)
          .next ((s.sendTile ((s.cmd? c.id).getD c) home true ys).skidEngine c ys.length)
        else if s.spotBusy c p then .next s
        else
          match s.sectorWrite c t x 4 p with
          | (s, some (ev, k)) => .next (s.holdSector c sector x p.leaf ev k)
          | (s, none) => .next ((s.sectorDone c sector x).skidEngine c 1)
    | _, _, _ => .next s

end Sys2Proof.Machine
end

