-- ==== Sys2Proof/Machine/KStep.lean ====
section
/-! DEFINITION. The arithmetic of the matrix unit: format words (11 R242, R243), operand images (11 R240), the K-step with its semirings
(11 R245, R246), and the epilogue conversion (11 R260, R261). -/

namespace Sys2Proof.Machine

/-! ## Formats (11 Table 11-1) and the format word (11 Table 11-2) -/

/-- Element type of an operand format, by the codes of 06 Table 6-11. -/
def opType (f : Nat) : Nat :=
  match f with
  | 0 => 9
  | 1 => 10
  | 2 => 11
  | 3 => 12
  | 4 => 4
  | 5 => 5
  | 6 => 14
  | 7 => 15
  | 8 => 16
  | 9 => 13
  | _ => 11

/-- K per step; 0 for a reserved format. -/
def opK (f : Nat) : Nat :=
  match f with
  | 0 | 1 => 64
  | 6 | 9 => 256
  | 2 | 3 | 4 | 5 | 7 | 8 | 10 => 128
  | _ => 0

/-- Elements of a block: 16 for ZB, 32 for MX, 0 where the format has no scale. -/
def opBlock (f : Nat) : Nat := if f = 6 || f = 7 || f = 8 then 16 else if f = 9 || f = 10 then 32 else 0

def opIsInt (f : Nat) : Bool := f = 4 || f = 5

def opBits (f : Nat) : Nat := elemBits (opType f)

def fwA (w : Nat) : Nat := bits w 0 4
def fwB (w : Nat) : Nat := bits w 4 4
def fwAccf (w : Nat) : Nat := bits w 8 2
def fwSmode (w : Nat) : Nat := bits w 10 2
def fwSemi (w : Nat) : Nat := bits w 12 3
def fwRnd (w : Nat) : Nat := bits w 15 3
def fwSat (w : Nat) : Bool := nbit w 18
def fwTa (w : Nat) : Bool := nbit w 19
def fwTb (w : Nat) : Bool := nbit w 20
def fwSbase (w : Nat) : Nat := bits w 21 11
def fwK (w : Nat) : Nat := opK (fwA w)

/-- Is a format word valid but for RND (11 R243)? -/
def fwOk (w : Nat) : Bool :=
  let a := fwA w
  let b := fwB w
  let int := opIsInt a
  let semi := fwSemi w
  opK a ≠ 0 && opK a = opK b && opIsInt b = int && fwAccf w = b2n int &&
    fwSmode w = b2n (opBlock a ≠ 0 || opBlock b ≠ 0) &&
    (semi = 0 || (1 ≤ semi && semi ≤ 4 && !int) || (5 ≤ semi && semi ≤ 6 && int)) && !(fwSat w && int) &&
    (!fwTa w || a ≤ 5) && (!fwTb w || b ≤ 5) && (if fwSmode w = 1 then fwSbase w ≤ 1792 else fwSbase w = 0)

/-- The fault of a format word (11 R243). -/
def fwDefect (w : Nat) : List Nat := if 5 ≤ fwRnd w then [1] else if fwOk w then [] else [2]

/-- May the accumulate mode go with the format word (11 Table 11-3)? -/
def fadeDefect (w md : Nat) : List Nat := if md = 2 && (fwSemi w ≠ 0 || fwAccf w ≠ 0) then [2] else []

/-- The identity of a semiring (11 Table 11-4). -/
def semiIdentity (w : Nat) : Nat :=
  match fwSemi w with
  | 1 | 4 => 0x7F800000
  | 2 | 3 => 0xFF800000
  | _ => 0

/-! ## Operand images (11 R240) -/

/-- `n` codes of `b` bits packed in bytes. -/
def slotCodes (b n : Nat) (bs : List Byte) : List Nat :=
  let x := ofBytes bs
  (List.range n).map fun i => bits x (b * i) b

/-- Codes of row `r` of the A of an image. -/
def aCodes (w : Nat) (img : List Byte) (r : Nat) : List Nat :=
  let b := opBits (fwA w)
  let e := b / 8
  if fwTa w then (List.range (fwK w)).map fun k => ofBytes ((img.drop ((16 * k + r) * e)).take e)
  else slotCodes b (fwK w) ((img.drop (128 * r)).take 128)

/-- Codes of column `c` of a quarter of B. -/
def bCodes (w : Nat) (img : List Byte) (c : Nat) : List Nat :=
  let b := opBits (fwB w)
  let e := b / 8
  if fwTb w then (List.range (fwK w / 4)).map fun k => ofBytes ((img.drop ((64 * k + c) * e)).take e)
  else slotCodes b (fwK w / 4) ((img.drop (32 * c)).take 32)

/-- Values of the codes along K of an operand of format `f`, block `j` scaled by `sc j` (02 R21, R22). -/
def opVals (f : Nat) (sc : Nat → Nat) (codes : List Nat) : List FVal :=
  let t := opType f
  codes.zipIdx.map fun (c, i) =>
    match opBlock f with
    | 16 => zbValue t (c * 2 ^ ((zbM t + 1) * (i % 16))) (i % 16) (sc (i / 16))
    | 32 => mxValue t c (sc (i / 32))
    | _ => if opIsInt f then intVal (intOf t c) else fDecode t c

/-- Bytes of a scale. -/
def scaleBytes (f : Nat) : Nat := if opBlock f = 16 then 2 else 1

/-- Place in a scale area of the scale of row `r`, block `j` of the A at quad position `q` (11 R239). -/
def aScaleAt (w q r j : Nat) : Nat := 512 * q + (r * (fwK w / max 1 (opBlock (fwA w))) + j) * scaleBytes (fwA w)

/-- Place of the scale of column `c`, block `j` of B. -/
def bScaleAt (w c j : Nat) : Nat := 2048 + (c * (fwK w / max 1 (opBlock (fwB w))) + j) * scaleBytes (fwB w)

/-! ## The K-step (11 R245, R246) -/

/-- The exact sum of two values as a term: opposed infinities are an invalid product. -/
def fAddX (mode : Nat) (a b : FVal) : FTerm :=
  match fSumX mode [.val a, .val b] with
  | (.nan, fl) => if fl = flInvalid then .bad else .val .nan
  | (v, _) => .val v

/-- The product of a semiring over floating values. -/
def semiMul (w : Nat) (a b : FVal) : FTerm :=
  match fwSemi w with
  | 1 | 2 => fAddX (fwRnd w) a b
  | _ => fMulX a b

/-- The least or greatest of exact values with the incoming one, rounded once (11 R246). -/
def semiBest (w : Nat) (inc : FVal) (ts : List FTerm) : Nat × Flags :=
  let vs := inc :: ts.filterMap fun t => match t with
    | .val v => some v
    | .bad => none
  if vs.any FVal.isNan then (fmtNan 8, flNanIn)
  else if ts.contains .bad then (fmtNan 8, flInvalid)
  else
    let big := fwSemi w = 2 || fwSemi w = 3
    fDeliver 8 (fwRnd w) 0 (fwSat w) (vs.foldl (fun m v => if (if big then fLess m v else fLess v m) then v else m) inc)

/-- An integer operand's value. -/
def intOfVal (v : FVal) : Int := finUnits 0 v

/-- One element of a K-step: mode `md`, fade scalar `sk`, the tile's old code, a row of A and a column of B. -/
def kElem (w md sk old : Nat) (ar bc : List FVal) : Nat × Flags :=
  if fwAccf w = 1 then
    let ps := (ar.zip bc).map fun ab => (intOfVal ab.1, intOfVal ab.2)
    let inc : Int := if md = 0 then 0 else sint 32 old
    let hits := (ps.filter fun p => p.1 ≠ 0 && p.2 ≠ 0).length + (if inc = 0 then 0 else 1)
    match fwSemi w with
    | 5 => (if hits = 0 then 0 else 1, 0)
    | 6 => (hits % 2, 0)
    | _ =>
      let x := (ps.map fun p => p.1 * p.2).foldl (· + ·) inc
      (wrap 32 x, flIf (clampInt 0 x).2 flOver)
  else
    let ts := (ar.zip bc).map fun ab => semiMul w ab.1 ab.2
    let inc : FVal := fDecode 8 (if md = 0 then semiIdentity w else old)
    if fwSemi w = 0 then
      fSum 8 (fwRnd w) 0 (fwSat w) ((if md = 2 then fMulX (fDecode 8 sk) (fDecode 8 old) else .val inc) :: ts)
    else semiBest w inc ts

/-! ## The epilogue (11 R260, R261) -/

/-- An element of a tile before conversion: whether it is still an integer, its bits, its flags. -/
def epiValue (c : MstCtl) (x scale bias : Nat) : Bool × Nat × Flags :=
  let v : FVal := if c.itile then intVal (sint 32 x) else fDecode 8 x
  let y : Bool × Nat × Flags :=
    if c.scale || c.bias then
      let p : FTerm := if c.scale then fMulX v (fDecode 8 scale) else .val v
      let r := fSum 8 0 0 (c.sat && c.ty = 8) [p, .val (fDecode 8 (if c.bias then bias else 0))]
      (false, r.1, r.2)
    else if c.itile && c.act ≠ 0 then
      let r := convert 8 0 x 0 0 false
      (false, r.1, r.2)
    else (c.itile, x, 0)
  match c.act.toNat with
  | 1 =>
    let r := fMinMax 8 true y.2.1 0
    (y.1, r.1, y.2.2 ||| r.2)
  | 2 =>
    let r := special 0x47 y.2.1
    (y.1, r.1, y.2.2 ||| r.2)
  | _ => y

/-- Conversion of an element to a plain type, saturating (02 R40). -/
def epiConvert (c : MstCtl) (int : Bool) (t u : Nat) : Nat × Flags :=
  let ty := c.ty.toNat
  if int then convert ty 0 t c.rnd.toNat u true
  else if ty < 8 || ty = 8 then convert ty 8 t c.rnd.toNat u c.sat
  else match fDecode 8 t with
    | .inf s => (withSign ty s (fmtMax ty), flSat)
    | _ => convert ty 8 t c.rnd.toNat u true

/-- Value of an element for a block. -/
def epiFVal (int : Bool) (t : Nat) : FVal := if int then intVal (sint 32 t) else fDecode 8 t

end Sys2Proof.Machine
end

