-- ==== Sys2Proof/Machine/Matrix.lean ====
section
/-! DEFINITION. The matrix words (11 R236-R259) and the meetings of a quad (11 R248, R250); EXIT stands here because an exit may complete
a meeting. What the words do later is Machine/Tiles.lean. -/

namespace Sys2Proof.Machine

/-! ## Tiles -/

/-- Core and byte address of a tile of a group (11 R238). -/
def Team.tileAt (t : Team) (gidx tile : Nat) : Nat × Nat :=
  let m := t.mslots.getD (gidx / 4) (t.baseGc, 0)
  (m.1, m.2 * 0x20000 + gidx % 4 * 0x8000 + tile * 0x1000)

/-- The 1,024 elements of a tile, row by row. -/
def State.tile (s : State) (gc addr : Nat) : List Word := (List.range 1024).map fun i => mget (s.core gc).tiles (addr + 4 * i) 0

/-- Write elements of a tile: index and value. -/
def State.setTile (s : State) (gc addr : Nat) (vs : List (Nat × Word)) : State :=
  s.updCore gc fun k => { k with tiles := vs.foldl (fun m v => mset m (addr + 4 * v.1) v.2 0) k.tiles }

def State.setMark (s : State) (gc addr : Nat) (b : Bool) : State := s.updCore gc fun k => { k with marks := mset k.marks addr b false }

/-- Scoreboard range of a tile. -/
def tileRange (addr : Nat) : Range := ⟨1, addr, addr + 0x1000⟩

/-- Scoreboard range of a scale area with `more` bytes of increments. -/
def areaRange (w more : Nat) : List Range := if fwSmode w = 1 then [⟨2, 16 * fwSbase w, 16 * fwSbase w + more + 4096⟩] else []

/-! ## Issue -/

/-- A matrix word of a kernel without .quad is illegal (11 R236). -/
def Env.quadDefect (e : Env) : List Nat := if ((e.s.launch? e.c.launch).map (·.desc.quad)).getD false then [] else [1]

/-- Registers of an image (11 R241) and of a tile part (11 R257). -/
def imageRegs (width : Nat) : Nat := 512 / width
def partRegs (width : Nat) : Nat := 256 / width

/-- Defects of a run of `n` registers named by a source code (11 R247). -/
def Env.tileRunDefects (e : Env) (code n : Nat) : List Nat :=
  if 64 ≤ code || code % 4 ≠ 0 then [2] else if 8 * e.c.walloc < code + n then [4] else []

/-- One byte of a register of a lane. -/
def Ctx.regByte (c : Ctx) (r l i : Nat) : Byte := (c.v r l).extractLsb' (8 * i) 8

/-- An image held in registers from `base`; lanes outside `act` read as zero (11 R241, R248). -/
def Env.image (e : Env) (base : Nat) (act : Mask) : List Byte :=
  let per := 2048 / e.c.width
  (List.range 2048).map fun t =>
    if act.getLsbD (t / per) then e.c.regByte (base + t % per / 4) (t / per) (t % 4) else 0

/-- A tile of the issuer: core and address. -/
def Env.tile (e : Env) (k : Nat) : Nat × Nat := (e.team.map fun t => t.tileAt e.c.gidx k).getD (e.c.gc, 0)

/-- Format words of lanes, one of them where they agree. -/
def agreed (ws : List Nat) : Option Nat :=
  match ws with
  | [] => some 0
  | w :: rest => if rest.all (· = w) then some w else none

/-- Check the format words a word of ACTIVE lanes votes with: divergence 0x06, then validity (11 R244, R247). -/
def Env.voted (e : Env) (code : Nat) (act : Mask) (md : Nat) (body : Nat → State) : State :=
  match agreed ((lanesOf act).map fun l => e.read .i32 code l) with
  | none => e.fault 0x06 e.lanes
  | some w =>
    if act = 0 then body w else
    match firstDefect (fwDefect w ++ fadeDefect w md) with
    | some k => e.fault k e.lanes
    | none => body w

/-! ## The meeting (11 R248, R250) -/

/-- What a group brings to a meeting: kind, format word, step count, and its share. -/
structure Bid where
  cid : Nat
  entry : Nat
  loop : Bool
  fmt : Nat
  n : Nat
  part : QuadPart

/-- The bid of the word a path waits at. -/
def Env.bid (e : Env) : Instr → Option Bid
  | .mma f x =>
    let act := e.active f
    let md := x.sub.toNat % 4
    some ⟨e.cid, e.e, false, if act = 0 then 0 else e.read .i32 x.sc.toNat (lowLane act), 0,
      ⟨e.c.gidx % 4, e.c.gidx, e.cid, true, act ≠ 0, act, (e.tile f.d.toNat).2, md, e.sreg (x.sub.toNat / 4), e.p.setSlot,
        e.image f.a.toNat act, e.image f.b.toNat act, 0, 0, 0, [], e.p.pc, lowLane e.lanes, 0⟩⟩
  | .mloop f c =>
    some ⟨e.cid, e.e, true, e.sval f.ee, e.sval f.ed,
      ⟨e.c.gidx % 4, e.c.gidx, e.cid, true, true, laneBit e.issuingLane, (e.tile c.tile.toNat).2, c.md.toNat, e.sreg c.sk.toNat, e.p.setSlot,
        [], [], e.spair f.eb.toNat, e.spair f.ec.toNat, e.sval f.ea, [], e.p.pc, e.issuingLane, 0⟩⟩
  | _ => none

/-- The share of a group that has exited. -/
def gonePart (q gidx : Nat) : QuadPart := ⟨q, gidx, 0, false, false, 0, 0, 0, 0, 0, [], [], 0, 0, 0, [], 0, 0, 0⟩

/-- A context and path as an issuer. -/
def State.envAt (s : State) (cid e : Nat) : Option Env := (s.ctx? cid).map fun c => ⟨s, cid, c, e, c.path e, false⟩

/-- The path of a group that waits at a meeting, where its word may issue. -/
def State.waiting (s : State) (tk g : Nat) : Option Env :=
  (s.ctxs.filterMap fun kc =>
    if kc.2.team = tk && kc.2.gidx = g && (kc.2.place = .active || kc.2.place = .pending) && kc.2.stop.isNone && kc.2.parked.isNone &&
        !kc.2.inHandler then
      (kc.2.validPaths.find? fun e => (kc.2.path e).wait = .matrix).bind fun e => s.envAt kc.1 e
    else none).head?

/-- Does a group's collective wait already? -/
def Ctx.atMeeting (c : Ctx) : Bool := c.validPaths.any fun e => (c.path e).wait = .matrix

/-- 0x06 at a waiting word. -/
def State.clash (s : State) (b : Bid) : State :=
  match (s.updCtx b.cid Ctx.again).envAt b.cid b.entry with
  | some e => e.fault 0x06 e.lanes
  | none => s

/-- Words of a descriptor (11 Table 11-6). -/
def descWord (d : List Word) (i : Nat) : Nat := (d.getD i 0).toNat
def descPitch (d : List Word) (half : Nat) : Nat := descWord d half
def descInc (d : List Word) (half : Nat) : Int := sint 64 (descWord d (2 + 2 * half) + descWord d (3 + 2 * half) * 2 ^ 32)
def descSinc (d : List Word) : Nat := descWord d 6
def descSpace (d : List Word) (half : Nat) : Nat := bits (descWord d 7) (2 * half) 2

/-- Is a descriptor well formed (11 R251)? -/
def loopDescOk (d : List Word) : Bool :=
  d.length = 16 && descPitch d 0 % 32 = 0 && descPitch d 1 % 32 = 0 && descInc d 0 % 32 = 0 && descInc d 1 % 32 = 0 &&
    descSinc d % 16 = 0 && descWord d 7 / 16 = 0 && descSpace d 0 ≠ 3 && descSpace d 1 ≠ 3 && (d.drop 8).all (· = 0)

/-- Rows an image half is fetched in: how many, bytes of each, bytes of its slot in the image (11 R240, R252); half 0 is A, 1 is B. -/
def loopRows (w half : Nat) : Nat × Nat × Nat :=
  let e := (if half = 0 then opBits (fwA w) else opBits (fwB w)) / 8
  if half = 0 then (if fwTa w then (fwK w, 16 * e, 16 * e) else (16, fwK w * opBits (fwA w) / 8, 128))
  else if fwTb w then (fwK w / 4, 64 * e, 64 * e) else (64, fwK w / 4 * opBits (fwB w) / 8, 32)

/-- Base of an image half. -/
def QuadPart.base (p : QuadPart) (half : Nat) : Nat :=
  let b := if half = 0 then p.aBase else p.bBase
  if descSpace p.dwords half = 0 then b else b % 2 ^ 32

/-- Scratchpad range of an image half over all steps, where it stands in the team space (11 Table 11-9). -/
def QuadPart.hull (t : Team) (w n : Nat) (p : QuadPart) (half : Nat) : List Range :=
  if descSpace p.dwords half ≠ 1 then [] else
  let (rows, len, _) := loopRows w half
  let last : Int := ((n : Int) - 1) * descInc p.dwords half
  let lo : Int := (p.base half : Int) + min 0 last
  let hi : Int := (p.base half : Int) + max 0 last + (((rows - 1) * descPitch p.dwords half + len : Nat) : Int)
  [t.range lo.toNat hi.toNat]

/-- The command of a meeting. -/
def meetCmd (s : State) (id tk : Nat) (t : Team) (b : Bid) (parts : List QuadPart) : Cmd :=
  let gc := (t.tileAt b.part.gidx 0).1
  let parts := if b.loop then parts.map fun p => { p with dwords := if p.live then s.teamWords t p.desc 16 else [] } else parts
  let ok := parts.all fun p => !p.live || loopDescOk p.dwords
  let more := (parts.map fun p => (b.n - 1) * descSinc p.dwords).foldl max 0
  let reads := if b.loop then (if ok then areaRange b.fmt more ++ parts.flatMap (fun p => if p.live then p.hull t b.fmt b.n 0 ++ p.hull t b.fmt b.n 1 else []) else [])
    else areaRange b.fmt 0
  let writes := (parts.filter (·.live)).map fun p => tileRange p.tile
  let kind : CmdKind := if b.loop then .mloop (BitVec.ofNat 32 b.fmt) b.n 0 parts else .mma (BitVec.ofNat 32 b.fmt) parts
  { id := id
    gc := gc
    team := tk
    gidx := b.part.gidx
    ctx := b.cid
    lane := b.part.lane
    pc := b.part.pc
    slot := none
    kind := kind
    entry := true
    started := false
    reads := reads
    writes := writes
    sectors := []
    flags := 0
    capture := false
    saved := false
    stop := s.bornStop gc t.launch kind
    region := ((s.ctx? b.cid).map (·.reg0)).getD 0
    also := []
    readyAt := none
    seen := none }

/-- A group's word issues at the meeting. -/
def State.meetIssue (s : State) (b : Bid) : State :=
  s.updCtx b.cid fun c =>
    let c := (c.setPath b.entry { c.path b.entry with wait := .none }).countSlot b.part.slot
    { c with coll := c.coll + 1 }.advance b.entry 2 (s.now c.gc) none

/-- May a waiting word issue still: what held its issue may have come back since its path arrived (06 R122, 08 R165, R175)? -/
def State.bidReady (s : State) (b : Bid) : Bool :=
  !s.acquiring b.cid && !s.scratchPending b.cid && match s.ctx? b.cid with
    | some c => decide (mget c.wslot b.part.slot 0 < 255)
    | none => false

/-! ## Whose step is next (11 R237) -/

/-- Live shares of a collective. -/
def Cmd.shares (c : Cmd) : List QuadPart :=
  match c.kind with
  | .mma _ ps | .mloop _ _ _ ps => ps.filter (·.live)
  | _ => []

/-- Matrix slot of a collective: the half of the accumulator storage its tiles stand in. -/
def Cmd.mslot (c : Cmd) : Nat := ((c.shares.head?).map fun p => p.tile / 0x20000).getD 0

/-- Is a share's group, or the whole team, away in an image (11 R265)? -/
def State.cmdAway (s : State) (t : Team) (c : Cmd) : Bool :=
  t.saved.isSome || c.shares.any fun p => ((s.ctx? p.ctx).map fun x => decide (x.place = .saved)).getD false

/-- Has a collective a step that may run now, the arrays apart: an MMA the scoreboard allows, a fetched step of an MLOOP? -/
def State.stepReady (s : State) (c : Cmd) : Bool :=
  match c.kind, s.team? c.team with
  | .mma _ ps, some t => ps.any (·.votes) && !s.cmdAway t c && s.runs c && s.mayStart c
  | .mloop _ _ step _, some t =>
    let mine := c.sectors.filter fun x => x.dst / 8 = step
    c.started && !c.capture && !s.cmdAway t c && s.runs c && mine.all fun x => x.st = .read
  | _, _ => false

/-- Note when a step of a core came to be ready. -/
def State.stampSteps (s : State) (gc : Nat) : State :=
  { s with cmds := s.cmds.map fun c =>
      if c.gc ≠ gc then c else
      match c.kind with
      | .mma .. | .mloop .. => if s.stepReady c then (if c.readyAt.isNone then { c with readyAt := some (s.now gc) } else c) else { c with readyAt := none }
      | _ => c }

/-- Since when a step waits for the arrays: it came to be ready, or a step of its slot took them, whichever was later. -/
def State.waitsFrom (s : State) (c : Cmd) : Nat := max (c.readyAt.getD (s.now c.gc)) (mget (s.core c.gc).servedAt c.mslot 0)

/-- May a collective take the arrays: no step runs in them, and of the ready steps no other has waited longer, so that two slots with steps ready
take them alternately; of two that have waited alike the slot not served last goes first (11 R237)? -/
def State.arrayTurn (s : State) (c : Cmd) : Bool :=
  s.cmds.all fun d => d.gc ≠ c.gc || d.id = c.id || match d.kind with
    | .mloop .. | .mma .. =>
      !(d.capture && !d.kind.captures) && (!s.stepReady d || if d.mslot = c.mslot then
          decide (c.readyAt.getD (s.now c.gc) < d.readyAt.getD (s.now c.gc)) || (c.readyAt.getD (s.now c.gc) = d.readyAt.getD (s.now c.gc) && decide (c.id < d.id))
        else decide (s.waitsFrom c < s.waitsFrom d) || (s.waitsFrom c = s.waitsFrom d && (s.core c.gc).arrayLast ≠ c.mslot + 1))
    | _ => true

/-- The arrays serve a slot. -/
def State.tookArrays (s : State) (c : Cmd) : State :=
  s.updCore c.gc fun k => { k with arrayLast := c.mslot + 1, servedAt := mset k.servedAt c.mslot (s.now c.gc) 0 }

/-- The meeting of quad `j`: with every group waiting or exited, the words disagree and raise 0x06, or issue together; a word that may not
issue any more is issued again. -/
def State.quadMeet (s : State) (tk j : Nat) : State :=
  match s.team? tk with
  | none => s
  | some t =>
    let live := (List.range 4).filter fun q => s.groupLanes tk (4 * j + q) ≠ 0
    let bids := live.filterMap fun q => (s.waiting tk (4 * j + q)).bind fun e => e.p.nextInstr.bind e.bid
    match bids with
    | [] => s
    | b :: _ =>
      if bids.length ≠ live.length then s else
      let late := bids.filter fun x => !s.bidReady x
      if !late.isEmpty then late.foldl (fun s x => s.updCtx x.cid Ctx.again) s else
      let voters := bids.filter (·.part.votes)
      let same := bids.all (fun x => x.loop = b.loop) && (agreed (voters.map (·.fmt))).isSome && (!b.loop || bids.all fun x => x.n = b.n)
      if !same then bids.foldl State.clash s else
      let parts := (List.range 4).map fun q => ((bids.find? fun x => x.part.q = q).map (·.part)).getD (gonePart q (4 * j + q))
      let b := { b with fmt := ((voters.head?).map (·.fmt)).getD b.fmt }
      let (id, s) := s.fresh
      let c := meetCmd s id tk t b parts
      let s := s.addCmd c
      (bids.foldl State.meetIssue s).stampSteps c.gc

/-- A collective arrives: its path waits for the meeting with stall reason wait-matrix (11 R248); held where the quad's entries do not fit. -/
def Env.meet (e : Env) : State :=
  e.engine true
    (if e.c.atMeeting then e.hold 6
    else if 64 < e.s.entries e.c.gc + 4 then e.hold 11
    else
      let c := e.c.setPath e.e { e.p with wait := .matrix, lastIssue := e.now }
      (e.s.setCtx e.cid { c with
        stall := 6
        lastIssue := e.now }).quadMeet e.c.team (e.c.gidx / 4))

/-- MMA (11 R247, R248). -/
def execMma (f : FmtA) (x : FmtX) (s : State) : Out :=
  withIssuer s fun e =>
    let n := imageRegs e.c.width
    let act := e.active f
    let ds := e.quadDefect ++ rangeDefects f.d.toNat 8 ++ e.tileRunDefects f.a.toNat n ++ e.tileRunDefects f.b.toNat n ++ e.srcDefects .i32 x.sc.toNat
    e.checked act ds (run f.a.toNat n ++ run f.b.toNat n ++ srcRegs .i32 x.sc.toNat)
      (e.voted x.sc.toNat act (x.sub.toNat % 4) fun _ => e.meet)

/-- MLOOP (11 R250). -/
def execMloop (f : FmtE) (c : MloopCtl) (s : State) : Out :=
  withIssuer s fun e =>
    let n := e.sval f.ed
    let w := e.sval f.ee
    let count := if n = 0 || 2 ^ 24 < n then [2] else []
    e.checked e.lanes (e.quadDefect ++ pairDefect f.eb ++ pairDefect f.ec ++ count ++ fwDefect w ++ fadeDefect w c.md.toNat) [] e.meet

/-- EXIT (13 R288): the lanes of the path leave LANES; barriers, joins and the quad's meeting are told. -/
def execExit (s : State) : Out :=
  withIssuer s fun e =>
    if e.c.leader.isSome then e.fault 0x01 e.lanes else
    let c := e.c.leaveClause e.e
    let gone := e.p.mask
    let c := { c.setPath e.e freePath with lanes := c.lanes &&& ~~~gone }.fixExt
    let s := (e.s.setCtx e.cid c.settle).releaseBars e.c.team
    if s.groupLanes e.c.team e.c.gidx = 0 then s.quadMeet e.c.team (e.c.gidx / 4) else s

/-! ## Tile words (11 R255-R258) -/

/-- MLD and MLDT: the footprint of the source in the team scratchpad; `t` transposes. -/
def mldFoot (t : Bool) (off pitch ty : Nat) : Nat × Nat :=
  let e := if ty = 0 then 4 else 2
  (off, off + (if t then 63 else 15) * pitch + (if t then 16 else 64) * e)

/-- MLD or MLDT at issue (11 R256). -/
def Env.mld (e : Env) (t : Bool) (f : FmtE) : State :=
  e.checked e.lanes e.quadDefect []
    (match e.team with
      | none => e.s
      | some tm =>
        let k := e.sval f.ea
        let off := e.sval f.eb
        let pitch := e.sval f.ec
        let ty := e.sval f.ed
        let (lo, hi) := mldFoot t off pitch ty
        e.engine true (e.sendAndGo true 1 (.tile (.mld t k off pitch ty)) [tm.range lo hi] (if k < 8 then [tileRange (e.tile k).2] else [])))

def execMld (f : FmtE) (s : State) : Out := withIssuer s fun e => e.mld false f

def execMldt (f : FmtE) (s : State) : Out := withIssuer s fun e => e.mld true f

/-- Where element (row, 16p + j) of a part stands: lane and register of the run (11 R257). -/
def partSpot (width row j : Nat) : Nat × Nat := (row * (width / 16) + j * width / 256, j % partRegs width)

/-- The elements of part `p` in lanes of a mask: index in the tile, lane, register of the run. -/
def partElems (width p : Nat) (act : Mask) : List (Nat × Nat × Nat) :=
  (List.range 256).filterMap fun i =>
    let (l, r) := partSpot width (i / 16) (i % 16)
    if act.getLsbD l then some (i / 16 * 64 + 16 * p + i % 16, l, r) else none

/-- MVACC (11 R257): the elements are read at issue. -/
def execMvacc (f : FmtA) (x : FmtX) (s : State) : Out :=
  withIssuer s fun e =>
    let n := partRegs e.c.width
    let act := e.active f
    let a := f.a.toNat
    let p := x.sub.toNat / 2 % 4
    let vals := (partElems e.c.width p act).map fun i => (i.1, e.c.v (a + i.2.2) i.2.1)
    e.checked act (e.quadDefect ++ rangeDefects f.d.toNat 8 ++ e.tileRunDefects a n) (run a n)
      (e.engine true (e.sendAndGo true 2 (.tile (.mvacc (e.tile f.d.toNat).2 p vals)) [] [tileRange (e.tile f.d.toNat).2]))

/-- MACCV (11 R257): the run is written when the word completes. -/
def execMaccv (f : FmtA) (x : FmtX) (s : State) : Out :=
  withIssuer s fun e =>
    let n := partRegs e.c.width
    let act := e.active f
    let d := f.d.toNat
    let k := (e.tile f.a.toNat).2
    e.checked act (e.quadDefect ++ e.tileRunDefects d n) []
      (e.engine true
        ({ e with c := e.c.setPath e.e (e.p.addLong (run d n) e.s.nextId) }.sendAndGo true 2 (.tile (.maccv k (x.sub.toNat / 2 % 4) d act)) [tileRange k] []))

/-- Rows of a tile whose first lane is in a mask (11 R258). -/
def rowsOf (width : Nat) (act : Mask) : List Nat := (List.range 16).filter fun r => act.getLsbD (r * (width / 16))

/-- MZERO (11 R258). -/
def execMzero (f : FmtA) (s : State) : Out :=
  withIssuer s fun e =>
    let act := e.active f
    let k := (e.tile f.d.toNat).2
    let a := f.a.toNat
    e.checked act (e.quadDefect ++ rangeDefects f.d.toNat 8 ++ e.srcDefects .i32 a) (srcRegs .i32 a)
      (e.voted a act 0 fun w =>
        e.engine true (e.sendAndGo true 1 (.tile (.mzero k (BitVec.ofNat 32 (semiIdentity w)) (rowsOf e.c.width act))) [] [tileRange k]))

/-- MSCL (11 R258): the factors are read at issue. -/
def execMscl (f : FmtA) (s : State) : Out :=
  withIssuer s fun e =>
    let act := e.active f
    let k := (e.tile f.d.toNat).2
    let a := f.a.toNat
    let fs := (rowsOf e.c.width act).map fun r => (r, BitVec.ofNat 32 (e.read .f32 a (r * (e.c.width / 16))))
    e.checked act (e.quadDefect ++ rangeDefects f.d.toNat 8 ++ e.srcDefects .f32 a) (srcRegs .f32 a)
      (e.engine true (e.sendAndGo true 1 (.tile (.mscl k fs act)) [] [tileRange k]))

/-! ## MST at issue (11 R259-R262) -/

/-- Bytes of a stored row: its elements, or the element field of a block row (11 R260, R261). -/
def mstRowBytes (c : MstCtl) : Nat := (if c.trn then 16 else 64) * elemBits c.ty.toNat / 8

/-- Bytes of the scales of a block row. -/
def mstScaleBytes (c : MstCtl) : Nat := if c.ty = 13 || c.ty = 11 then 2 else 8

/-- End of the footprint of the destination, from its base. -/
def mstFoot (c : MstCtl) (pitch : Nat) : Nat := (if c.trn then 63 else 15) * pitch + mstRowBytes c

/-- Capture entries of a core in use. -/
def State.captures (s : State) (gc : Nat) : Nat := (s.cmds.filter fun c => c.gc = gc && c.kind.captures && c.capture && !c.saved).length

/-- MST (11 R259-R263): held while no capture entry is free; a stochastic conversion draws 1,024 elements. -/
def execMst (f : FmtE) (c : MstCtl) (s : State) : Out :=
  withIssuer s fun e =>
    let k := e.sval f.ea
    let dst := e.base c.space.toNat f.eb
    let pitch := e.sval f.ec
    let off := e.sval f.ed
    e.checked e.lanes (e.quadDefect ++ if c.space = 0 then pairDefect f.eb else []) []
      (match e.team with
        | none => e.s
        | some t =>
          if 16 ≤ e.s.captures e.c.gc then e.hold 11 else
          let reads := (if k < 8 then [tileRange (e.tile k).2] else []) ++ if c.bias then [t.range off (off + 256)] else []
          let writes := (if c.space = 1 then [t.range dst (dst + mstFoot c pitch)] else []) ++
            if mstBlock c then [t.range off (off + 16 * mstScaleBytes c)] else []
          let x := if c.rnd = 5 then { e with c := { e.c with scnt := e.c.scnt + 1024 } } else e
          e.engine true (x.sendAndGo true 2 (.mst c k dst pitch off (e.sreg f.ee.toNat) e.c.seed e.c.scnt) reads writes))

end Sys2Proof.Machine
end

