-- ==== Sys2Proof/Machine/Tiles.lean ====
section
/-! DEFINITION. What the matrix unit does after issue (11 R245-R265): steps, operand fetches, tile words, captures and epilogue stores. -/

namespace Sys2Proof.Machine

/-! ## Steps -/

/-- A number of `n` bytes of scale memory. -/
def State.scaleNum (s : State) (gc off n : Nat) : Nat := ofBytes ((List.range n).map fun i => mget (s.core gc).scale (off + i) 0)

/-- One step on the tile of a group: format word, scale area, mode, its A image, the columns of B, and whether it leaves the mark. -/
def State.stepTile (s : State) (gc w area md : Nat) (p : QuadPart) (img : List Byte) (cols : List (List FVal)) (mark : Bool) : State × Flags :=
  let sc (r j : Nat) : Nat := s.scaleNum gc (area + aScaleAt w p.q r j) (scaleBytes (fwA w))
  let rows := (List.range 16).map fun r => opVals (fwA w) (sc r) (aCodes w img r)
  let old := s.tile gc p.tile
  let res := rows.zipIdx.flatMap fun (ar, r) => cols.zipIdx.map fun (bc, c) =>
    kElem w md p.sk.toNat (old.getD (64 * r + c) 0).toNat ar bc
  let s := s.setTile gc p.tile (res.zipIdx.map fun (x, i) => (i, BitVec.ofNat 32 x.1))
  (s.setMark gc p.tile mark, res.foldl (fun f x => f ||| x.2) 0)

/-- Quad position whose quarter of B holds block `j` along K (11 R237, R240). -/
def bQuarter (w j : Nat) : Nat := j * opBlock (fwB w) * 4 / max 1 (fwK w)

/-- The columns of B from the quarters of the four groups (11 R237), each quarter's scales from its own group's area (log 84, DEDUCED). -/
def State.stepCols (s : State) (gc w : Nat) (area : Nat → Nat) (imgs : List (List Byte)) : List (List FVal) :=
  (List.range 64).map fun c =>
    opVals (fwB w) (fun j => s.scaleNum gc (area (bQuarter w j) + bScaleAt w c j) (scaleBytes (fwB w))) (imgs.flatMap fun img => bCodes w img c)

/-- A step of a quad: every live group's tile, in quad order, `area` its scale area; parts with their flags (11 R245). -/
def State.quadStep (s : State) (gc w : Nat) (area : Nat → Nat) (md : QuadPart → Nat) (mark : QuadPart → Bool) (imgs : List (List Byte × List Byte))
    (cols : List (List FVal)) : List QuadPart → State × List QuadPart
  | [] => (s, [])
  | p :: ps =>
    let (s, fl) := if p.live then s.stepTile gc w (area p.q) (md p) p ((imgs.getD p.q ([], [])).1) cols (mark p) else (s, 0)
    let (s, ps) := s.quadStep gc w area md mark imgs cols ps
    (s, { p with flags := p.flags ||| fl } :: ps)

/-- Key of the sectors of a step's image half at a quad position. -/
def loopKey (step q half : Nat) : Nat := (step * 4 + q) * 2 + half

/-- The sectors of a step's image half: each row is cut at the sectors it stands in (11 R252, R253). -/
def QuadPart.sectors (w step : Nat) (p : QuadPart) (half : Nat) : List Sector :=
  let (rows, len, slot) := loopRows w half
  let wide := if descSpace p.dwords half = 0 then 64 else 32
  (List.range rows).flatMap fun r =>
    let a := wrap wide ((p.base half : Int) + (step : Int) * descInc p.dwords half + ((r * descPitch p.dwords half : Nat) : Int))
    (splitRun 6 a 0 len).map fun x => emptySector (loopKey step p.q half) [(r * slot + (x.1 + x.2.1 - a), x.1 + x.2.1, x.2.2.2)]

/-- The sectors of a step of all groups. -/
def stepSectors (w step : Nat) (parts : List QuadPart) : List Sector :=
  parts.flatMap fun p => if p.live then p.sectors w step 0 ++ p.sectors w step 1 else []

/-- The image of a half from the bytes fetched; bytes nothing fetched are zero. -/
def loopImage (xs : List Sector) (step q half : Nat) : List Byte :=
  let m := (xs.filter fun x => x.dst = loopKey step q half).foldl (fun m x => x.data.foldl (fun m d => mset m d.1 d.2 0) m) ([] : Map Byte)
  (List.range 2048).map fun i => mget m i 0

/-- Does a sector belong to a step? -/
def Sector.ofStep (x : Sector) (step : Nat) : Bool := x.dst / 8 = step

/-- A command with the identity of one of its groups (11 R254, 16 R350). -/
def Cmd.as (c : Cmd) (p : QuadPart) : Cmd :=
  { c with
    gidx := p.gidx
    ctx := p.ctx
    lane := p.lane
    pc := p.pc }

/-- Scale area of step `i`. -/
def loopArea (w i : Nat) (p : QuadPart) : Nat := 16 * fwSbase w + i * descSinc p.dwords

/-- The defect of a group's descriptor at the start (11 R251; log 20, DESIGN CHOICE). -/
def loopDefect (t : Team) (w n : Nat) (p : QuadPart) : Option Nat :=
  if p.desc % 64 ≠ 0 then some 0x07
  else if t.scratch < p.desc + 64 then some 0x20
  else if !loopDescOk p.dwords || (fwSmode w = 1 && decide (0x8000 < loopArea w (n - 1) p + 4096)) then some 0x02
  else none

/-- Is a team away in an image (15 R342)? The matrix unit runs nothing of it. -/
def Team.away (t : Team) : Bool := t.saved.isSome

/-- A step of an MLOOP takes the arrays; a poisoned operand is fatal to each group whose operand it is (11 R254, 09 R404). -/
def State.startStep (s : State) (c : Cmd) (parts : List QuadPart) (mine : List Sector) : State :=
  let s := (s.setCmd { c with capture := true, readyAt := none }).tookArrays c
  (parts.filter fun p => mine.any fun x => x.poison && p.q = x.dst / 2 % 4).foldl (fun s p => s.fatalCmd (c.as p) 0x40) s

/-- MLOOP_STEP_START (11 R237, R251, R252): the command starts and reads its descriptors, which the predicates see (16 R345); then a step starts when its operands are here and the
arrays take its slot. -/
def execMloopStepStart (cmd : Nat) (s : State) : Out :=
  match s.cmd? cmd with
  | none => .next s
  | some c =>
    match c.kind, s.team? c.team with
    | .mloop fmt n step parts, some t =>
      let w := fmt.toNat
      if s.cmdAway t c || !s.runs c || c.capture then .next s
      else if !c.started then
        if !s.mayStart c then .next s else
        let looks := parts.flatMap fun p => if p.live then (c.as p).teamLooks t (t.descSpan p.desc 64) else []
        match s.lookFirst c 5 0 looks with
        | (s, true) => .next s
        | (s, false) =>
        let s := s.elemsPost 5 32 looks
        let parts := parts.map fun p => { p with dwords := if p.live then s.teamWords t p.desc 16 else [] }
        let c := { c with kind := .mloop fmt n step parts }
        match parts.find? fun p => p.live && (loopDefect t w n p).isSome with
        | some p => .next (s.refuseCmd (c.as p) 0x61 ((loopDefect t w n p).getD 0x02) 7 7 p.desc 0)
        | none =>
          .next (s.setCmd { c with
            started := true
            seen := none
            sectors := (List.range (min 4 n)).flatMap fun i => stepSectors w i parts })
      else
        let s := s.stampSteps c.gc
        let c := (s.cmd? cmd).getD c
        if !s.stepReady c || !s.arrayTurn c then .next s
        else .next (s.startStep c parts (c.sectors.filter fun x => x.ofStep step))
    | _, _ => .next s

/-- Where a piece of an operand stands, bounds of local spaces included (11 R253). -/
def State.loopSpots (s : State) (c : Cmd) (t : Team) (space : Nat) (x : Sector) : State × Except (Nat × Miss) (List (Part × Spot)) :=
  match x.parts.find? fun p => space ≠ 0 && decide (localSize t space < p.2.1 + p.2.2) with
  | some p => (s, .error (p.2.1, (0x20, 7)))
  | none => s.partSpots c t 7 space x.parts

/-- MLOOP_FETCH_SECTOR (11 R253, R254): the next sector not yet fetched is probed and read, sent for in another package, or parked. -/
def execMloopFetchSector (cmd : Nat) (s : State) : Out :=
  match s.cmd? cmd with
  | none => .next s
  | some c =>
    match c.kind, s.team? c.team, c.sectors.findIdx? fun x => x.st = .waiting && x.held.isNone with
    | .mloop _ _ _ parts, some t, some i =>
      match c.sectors[i]? with
      | none => .next s
      | some x =>
        match parts.find? fun p => p.q = x.dst / 2 % 4 with
        | none => .next s
        | some p =>
          if s.cmdAway t c || !s.runs c then .next s else
          let c := c.as p
          let space := descSpace p.dwords (x.dst % 2)
          match s.loopSpots c t space x with
          | (s, .error (addr, m)) =>
            if !x.queued && s.queueFull c.gc then .next s else
            let (r, s) := s.reportElem c p.gidx 0x61 m.1 m.2 7 p.q addr (x.dst / 8)
            .next (s.setCmd (c.setSector i (x.park m.1 r)))
          | (s, .ok ps) =>
            match ps.find? fun y => y.2.far with
            | some y =>
              let home := (y.2.home).getD 0
              if !s.tileRoom c i home then .next s else
              .next (s.askTile c i home 5 (fun s z => s.loopSpots c t space z) fun _ z => z.dst = x.dst)
            | none => .next (if ps.any (fun y => s.spotBusy c y.2) then s else (s.sectorRead c t i x 5 ps).stampSteps c.gc)
    | _, _, _ => .next s

/-- K_STEP_END (11 R237, R245, R249, R252): the tiles take the step; the last step completes the word for every group. -/
def execKStepEnd (cmd : Nat) (s : State) : Out :=
  let s := match s.cmd? cmd with
    | some c => s.stampSteps c.gc
    | none => s
  match s.cmd? cmd with
  | none => .next s
  | some c =>
    match c.kind, s.team? c.team with
    | .mma fmt parts, some t =>
      if s.cmdAway t c || !s.runs c || !s.mayStart c then .next s
      else if !parts.any (·.votes) then .next (s.endCmd c)
      else if !s.arrayTurn c then .next s
      else
        let w := fmt.toNat
        let area (_ : Nat) : Nat := 16 * fwSbase w
        let imgs := parts.map fun p => (p.a, p.b)
        let (s, parts) := s.quadStep c.gc w area (·.md) (fun p => p.md = 3) imgs (s.stepCols c.gc w area (imgs.map (·.2))) parts
        .next ((((s.tookArrays c).skidEngine c 1).endCmd { c with kind := .mma fmt parts }).stampSteps c.gc)
    | .mloop fmt n step parts, some _ =>
      if !c.capture then .next s else
      let w := fmt.toNat
      let last := step + 1 = n
      let imgs := (List.range 4).map fun q => (loopImage c.sectors step q 0, loopImage c.sectors step q 1)
      let md (p : QuadPart) : Nat := if step = 0 then p.md else 1
      let area (q : Nat) : Nat := ((parts.find? fun p => p.q = q).map (loopArea w step)).getD (16 * fwSbase w)
      let (s, parts) := s.quadStep c.gc w area md (fun p => p.md = 3 && last) imgs (s.stepCols c.gc w area (imgs.map (·.2))) parts
      let c := { c with
        kind := .mloop fmt n (step + 1) parts
        capture := false
        sectors := c.sectors.map (fun x => if x.ofStep step then { x with st := .done, data := [], pieces := [], queued := false } else x) ++
          if step + 4 < n then stepSectors w (step + 4) parts else [] }
      let s := s.skidEngine c 1
      .next ((if last then s.endCmd c else s.setCmd c.tidy).stampSteps c.gc)
    | _, _ => .next s

/-! ## Tile words -/

/-- The defect of an MLD or MLDT at its start (11 R256). -/
def mldDefect (t : Team) (tr : Bool) (tile off pitch ty : Nat) : Option Nat :=
  let e := if ty = 0 then 4 else 2
  let row := (if tr then 16 else 64) * e
  if pitch % 4 ≠ 0 || pitch < row || 3 ≤ ty || 8 ≤ tile then some 0x02
  else if off % e ≠ 0 then some 0x07
  else if t.scratch < (mldFoot tr off pitch ty).2 then some 0x20
  else none

/-- MLD_START (11 R256): checked, or refused with 0x61. -/
def execMldStart (cmd : Nat) (s : State) : Out :=
  match s.cmd? cmd with
  | none => .next s
  | some c =>
    match c.kind, s.team? c.team with
    | .tile (.mld tr tile off pitch ty), some t =>
      if c.started || t.away || !s.runs c || !s.mayStart c then .next s else
      match mldDefect t tr tile off pitch ty with
      | some cause => .next (s.refuseCmd c 0x61 cause 7 7 off 0)
      | none => .next (s.setCmd { c with started := true })
    | _, _ => .next s

/-- A source element widened to FP32, or its bits (11 R256). -/
def mldElem (ty code : Nat) : Nat :=
  match ty with
  | 0 => code
  | 1 => (convert 8 9 code 0 0 false).1
  | _ => (convert 8 10 code 0 0 false).1

/-- The elements an MLD loads, in tile order. -/
def State.mldVals (s : State) (t : Team) (tr : Bool) (off pitch ty : Nat) : List Nat :=
  let e := if ty = 0 then 4 else 2
  (List.range 1024).map fun i =>
    let (row, col) := (i / 64, i % 64)
    mldElem ty (ofBytes (s.teamBytes t (if tr then off + col * pitch + row * e else off + row * pitch + col * e) e))

/-- Is a byte of a team interval poisoned? -/
def State.teamBad (s : State) (t : Team) (lo hi : Nat) : Bool :=
  (List.range ((hi + 31) / 32 - lo / 32)).any fun k => s.teamPoison t ((lo / 32 + k) * 32)

/-- Intervals of the rows an MLD or MLDT reads (11 R256). -/
def mldSpans (tr : Bool) (off pitch ty : Nat) : List (Nat × Nat) :=
  let e := if ty = 0 then 4 else 2
  (List.range (if tr then 64 else 16)).map fun r => (off + r * pitch, (if tr then 16 else 64) * e)

/-- Scale a code by a factor under RN (11 R258). -/
def msclElem (f old : Nat) : Nat × Flags := fSum 8 0 0 false [fMulX (fDecode 8 f) (fDecode 8 old)]

/-- TILE_WORD_COMPLETE (11 R256-R258, R264): the word acts on its tile, or its registers, and its slot falls. -/
def execTileWordComplete (cmd : Nat) (s : State) : Out :=
  match s.cmd? cmd with
  | none => .next s
  | some c =>
    match c.kind, s.team? c.team with
    | .tile op, some t =>
      if t.away || !s.runs c then .next s else
      match op with
      | .mld tr tile off pitch ty =>
        if !c.started then .next s else
        let a := (t.tileAt c.gidx tile).2
        let spans := mldSpans tr off pitch ty
        match s.engineRead c t 5 0 spans with
        | (s, true) => .next s
        | (s, false) =>
        let bad := spans.any fun r => s.teamBad t r.1 (r.1 + r.2)
        let vs := s.mldVals t tr off pitch ty
        let s := s.engineReadDone c t 5 spans
        let s := if bad then s.fatalCmd c 0x40 else s
        .next (((s.setTile c.gc a (vs.zipIdx.map fun (v, i) => (i, BitVec.ofNat 32 v))).setMark c.gc a false).endCmd c)
      | .mvacc a _ vals => if !s.mayStart c then .next s else .next (((s.setTile c.gc a vals).setMark c.gc a false).endCmd c)
      | .maccv a p d lanes =>
        if !s.mayStart c then .next s else
        let vs := s.tile c.gc a
        let take (s : State) (k : Nat) : State := s.updCtx k fun x =>
          (partElems x.width p (lanes &&& x.lanes)).foldl (fun x i => x.setV (d + i.2.2) i.2.1 (vs.getD i.1 0).toNat) x
        .next ((c.waiters.foldl take s).endCmd c)
      | .mzero a w rows =>
        if !s.mayStart c then .next s else
        let vs := rows.flatMap fun r => (List.range 64).map fun k => (64 * r + k, w)
        .next (((s.setTile c.gc a vs).setMark c.gc a false).endCmd c)
      | .mscl a fs _ =>
        if !s.mayStart c then .next s else
        let old := s.tile c.gc a
        let res := fs.flatMap fun f => (List.range 64).map fun k => (64 * f.1 + k, msclElem f.2.toNat (old.getD (64 * f.1 + k) 0).toNat)
        let fl := res.foldl (fun m x => m ||| x.2.2) (0 : Flags)
        .next ((s.setTile c.gc a (res.map fun x => (x.1, BitVec.ofNat 32 x.2.1))).endCmd { c with flags := fl })
    | _, _ => .next s

/-! ## MST -/

/-- The defect of an MST at its start (11 R259, R261, R262). -/
def mstDefect (s : State) (t : Team) (gc gidx : Nat) (k : MstCtl) (tile dst pitch off : Nat) : Option Nat :=
  let ty := k.ty.toNat
  let blk := mstBlock k
  let size := if blk then 1 else elemBits ty / 8
  if 16 < ty || ty = 6 || ty = 7 || 2 < k.act.toNat || k.space = 3 || (k.mx && ty ≠ 11) || (k.sat && ty ≠ 8) || (blk && (k.trn || k.bias)) ||
      8 ≤ tile || (k.mreq && !mget (s.core gc).marks (t.tileAt gidx tile).2 false) || pitch % 4 ≠ 0 || pitch < mstRowBytes k then some 0x02
  else if dst % size ≠ 0 || (k.bias && off % 4 ≠ 0) || (blk && !k.mx && ty ≠ 13 && off % 2 ≠ 0) then some 0x07
  else if (k.space ≠ 0 && decide (localSize t k.space.toNat < dst + mstFoot k pitch)) || (k.bias && decide (t.scratch < off + 256)) ||
      (blk && decide (t.scratch < off + 16 * mstScaleBytes k)) then some 0x20
  else none

/-- MST_START (11 R262): checked, or refused with 0x62; a refusal frees the entry and the capture entry at once. -/
def execMstStart (cmd : Nat) (s : State) : Out :=
  match s.cmd? cmd with
  | none => .next s
  | some c =>
    match c.kind, s.team? c.team with
    | .mst k tile dst pitch off .., some t =>
      if c.started || t.away || !s.runs c || !s.mayStart c then .next s else
      match mstDefect s t c.gc c.gidx k tile dst pitch off with
      | some cause => .next (s.refuseCmd c 0x62 cause 7 8 dst 0)
      | none => .next (s.setCmd { c with started := true })
    | _, _ => .next s

/-- Destination bytes of a converted tile, address and byte; scale output stands at 2^64 and above. -/
def mstBytes (k : MstCtl) (dst pitch off : Nat) (vals : List (Bool × Nat × Flags)) (draws : Nat → Nat) : List (Nat × Byte) × Flags :=
  let ty := k.ty.toNat
  let put (a n v : Nat) : List (Nat × Byte) := (bytesOf n v).zipIdx.map fun (b, i) => (a + i, b)
  let fl0 := vals.foldl (fun f v => f ||| v.2.2) (0 : Flags)
  if mstBlock k then
    let mx := ty = 13 || ty = 11
    let len := if mx then 32 else 16
    let blocks := (List.range (1024 / len)).map fun b =>
      let vs := (List.range len).map fun i =>
        let x := vals.getD (b * len + i) (false, 0, 0)
        (epiFVal x.1 x.2.1, draws (b * len + i))
      (b, if mx then mxPack ty k.rnd.toNat vs else zbPack ty k.rnd.toNat vs)
    let per := 64 / len
    let fieldBytes := len * elemBits ty / 8
    let sb := if mx then 1 else 2
    (blocks.flatMap fun (b, sc, es) =>
      put (dst + b / per * pitch + b % per * fieldBytes) fieldBytes (if mx then mxField ty (es.map (·.1)) else zbField ty (es.map (·.1))) ++
        put (2 ^ 64 + off + b / per * (per * sb) + b % per * sb) sb sc,
      blocks.foldl (fun f x => x.2.2.foldl (fun f e => f ||| e.2) f) fl0)
  else
    let n := elemBits ty / 8
    let outs := vals.zipIdx.map fun (v, e) => (e, epiConvert k v.1 v.2.1 (draws e))
    (outs.flatMap fun (e, r) => put (if k.trn then dst + e % 64 * pitch + e / 64 * n else dst + e / 64 * pitch + e % 64 * n) n r.1,
      outs.foldl (fun f x => f ||| x.2.2) fl0)

/-- Gather bytes into the sectors of their addresses. -/
def sectorsOfBytes (bs : List (Nat × Byte)) : List Sector :=
  let m : Map (List (Nat × Byte)) := bs.foldl (fun m ab => mput m (ab.1 / 32) (mget m (ab.1 / 32) [] ++ [(ab.1 % 32, ab.2)])) []
  m.map fun kd => { emptySector (32 * kd.1) [] with
    st := .read
    data := kd.2 }

/-- MST_CAPTURE_END (11 R260-R263): the tile is converted into the entry, its mark falls under MREQ, its tile range leaves the scoreboard. -/
def execMstCaptureEnd (cmd : Nat) (s : State) : Out :=
  match s.cmd? cmd with
  | none => .next s
  | some c =>
    match c.kind, s.team? c.team with
    | .mst k tile dst pitch off scale seed scnt, some t =>
      if !c.started || !c.sectors.isEmpty || (c.seen.isSome && c.stop.isSome) then .next s else
      let a := (t.tileAt c.gidx tile).2
      let spans := if k.bias then [(off, 256)] else []
      match s.engineRead c t 5 0 spans with
      | (s, true) => .next s
      | (s, false) =>
      let bias (i : Nat) : Nat := if k.bias then ofBytes (s.teamBytes t (off + 4 * i) 4) else 0
      let vals := (s.tile c.gc a).zipIdx.map fun (x, i) => epiValue k x.toNat scale.toNat (bias (i % 64))
      let (bs, fl) := mstBytes k dst pitch off vals (fun e => draw seed scnt c.lane e)
      let s := s.engineReadDone c t 5 spans
      let s := if k.bias && s.teamBad t off (off + 256) then s.fatalCmd c 0x40 else s
      let s := if k.mreq then s.setMark c.gc a false else s
      .next (s.setCmd { c with
        sectors := sectorsOfBytes bs
        reads := c.reads.filter fun r => r.region ≠ 1
        flags := fl })
    | _, _ => .next s

/-- Space and address of an MST sector. -/
def mstPlace (k : MstCtl) (dst : Nat) : Nat × Nat := if 2 ^ 64 ≤ dst then (1, dst - 2 ^ 64) else (k.space.toNat, dst)

/-- Free the capture entry of a command whose sectors have left it. -/
def State.freeCapture (s : State) (cmd : Nat) : State :=
  match s.cmd? cmd with
  | some c => s.setCmd c.freeCapture
  | none => s

/-- May an MST still write captured sectors: a halt drops nothing that has left the tile (15 R337; log 85, DEDUCED)? -/
def State.stores (s : State) (c : Cmd) : Bool := s.runs c || (c.stop.map (·.code)) = some 0xA0

/-- EPILOGUE_STORE_SECTOR (11 R262): a captured sector is probed and performed at its home, sent to another package, or parked with its
data. -/
def execEpilogueStoreSector (cmd sector : Nat) (s : State) : Out :=
  match s.cmd? cmd with
  | none => .next s
  | some c =>
    match c.kind, s.team? c.team, c.sectors[sector]? with
    | .mst k .., some t, some x =>
      if x.st ≠ .read || x.held.isSome || c.saved || !s.stores c then .next s else
      let (space, a) := mstPlace k x.dst
      let y := { x with dst := a }
      let (lo, n) := y.cover
      match s.spotOf c t 8 space (a + lo) n with
      | (s, .error m) => .next ((s.parkSector c sector x 0x62 8 (a + lo) m).freeCapture cmd)
      | (s, .ok p) =>
        if p.far then
          let home := (p.home).getD 0
          if !s.tileRoom c sector home then .next s else
          let (s, more) := s.partner c t 8 space sector p.home
          let (s, ys) := s.seeRun c 1 ((sector, x, [((lo, a + lo, n), p)]) :: more)
          .next (s.sendTile ((s.cmd? cmd).getD c) home true ys)
        else if s.spotBusy c p then .next s
        else
          match s.sectorWrite c t y 1 p with
          | (s, some (ev, k)) => .next (s.holdSector c sector x p.leaf ev k)
          | (s, none) => .next ((s.sectorDone c sector x).freeCapture cmd)
    | _, _, _ => .next s

end Sys2Proof.Machine
end

