-- ==== Sys2Proof/Machine/ValueRun.lean ====
section
/-! DEFINITION. The value-run engine (12 R266-R278): its words, start checks, the parser, the queues and their results. -/

namespace Sys2Proof.Machine

/-! ## The configuration record (12 R268-R271) -/

/-- A record that no VRSET has written. -/
def VrCfg.reset : VrCfg := ⟨false, 0, false, 0, false, false, 0, 0, 0, 0, []⟩

def VrCfg.cols (g : VrCfg) : Nat := 2 ^ g.bsel
def VrCfg.asz (g : VrCfg) : Nat := if g.afmt then 2 else 4
def VrCfg.osz (g : VrCfg) : Nat := if g.ofmt then 2 else 4
def VrCfg.actEnd (g : VrCfg) : Nat := g.actBase + g.k * g.cols * g.asz
def VrCfg.dstEnd (g : VrCfg) : Nat := g.dstBase + g.rows * g.cols * g.osz

/-- Bytes of a codebook entry, and its type. -/
def VrCfg.cbBytes (g : VrCfg) : Nat := if g.vfmt = 3 then 1 else 2
def VrCfg.cbType (g : VrCfg) : Nat :=
  match g.vfmt with
  | 2 => 10
  | 3 => 11
  | _ => 9

/-- A group's record on its birth core. -/
def Team.vr (t : Team) (gidx : Nat) : VrCfg := mget t.vrcfg gidx VrCfg.reset

/-- Does an interval stand in .scratch, in a pair in the half homed at the core (12 Table 12-4)? -/
def Team.holds (t : Team) (gc lo hi : Nat) : Bool :=
  if t.pair then (if gc = t.baseGc then decide (hi ≤ t.scratch / 2) else decide (t.scratch / 2 ≤ lo) && decide (hi ≤ t.scratch))
  else decide (hi ≤ t.scratch)

/-- The defect of a VRSET (12 R270, Table 12-4). -/
def vrsetDefect (t : Team) (gc : Nat) (g : VrCfg) (cb : Nat) : Option Nat :=
  if g.k = 0 || 65534 < g.k || g.rows = 0 || 2 ^ 24 < g.rows then some 0x02
  else if g.vfmt ≠ 0 && cb % g.cbBytes ≠ 0 then some 0x07
  else if g.vfmt ≠ 0 && !t.holds gc cb (cb + 256 * g.cbBytes) then some 0x20
  else none

/-- The defect of a VRRUN under a record (12 Table 12-4). -/
def vrrunDefect (t : Team) (gc : Nat) (g : VrCfg) (space base len : Nat) : Option Nat :=
  if !g.valid || 2 ≤ space || len = 0 || len % 2 = 1 || (decide (g.actBase < g.dstEnd) && decide (g.dstBase < g.actEnd)) then some 0x02
  else if g.actBase % g.asz ≠ 0 || g.dstBase % g.osz ≠ 0 || base % 2 ≠ 0 then some 0x07
  else if !t.holds gc g.actBase g.actEnd || !t.holds gc g.dstBase g.dstEnd || (space = 1 && !t.holds gc base (base + len)) then some 0x20
  else none

/-- The record as the value-run commands of a group issued and not started will leave it (12 R272). -/
def State.vrPlan (s : State) (t : Team) (tk gidx : Nat) : VrCfg :=
  (s.cmds.filter fun c => c.team = tk && c.gidx = gidx && !c.started).foldl (fun g c =>
    match c.kind with
    | .vrset x cb => if (vrsetDefect t c.gc x cb).isNone then x else g
    | .vract a d => if g.valid then { g with actBase := a, dstBase := d } else g
    | _ => g) (t.vr gidx)

/-! ## The words -/

/-- VRSET (12 R269, R270). -/
def execVrset (f : FmtE) (x : VrCtl) (s : State) : Out :=
  withIssuer s fun e =>
    let g : VrCfg := ⟨true, x.bsel.toNat, x.afmt, x.vfmt.toNat, x.ofmt, x.acc, e.sval f.ea, e.sval f.eb, e.sval f.ec, e.sval f.ed, []⟩
    let cb := e.sval f.ee
    e.checked e.lanes [] []
      (match e.team with
        | none => e.s
        | some t => e.engine true (e.sendAndGo true 2 (.vrset g cb) (if g.vfmt = 0 then [] else [t.range cb (cb + 256 * g.cbBytes)]) []))

/-- VRACT (12 R271). -/
def execVract (f : FmtE) (s : State) : Out :=
  withIssuer s fun e => e.checked e.lanes [] [] (e.engine true (e.sendAndGo true 1 (.vract (e.sval f.ea) (e.sval f.eb)) [] []))

/-- VRRUN (12 R269, R276): its ranges are those of the record it will start under. -/
def execVrrun (f : FmtE) (s : State) : Out :=
  withIssuer s fun e =>
    let space := e.sval f.ec % 4
    let len := e.sval f.eb
    let base := e.base space f.ea
    e.checked e.lanes (if space = 0 then pairDefect f.ea else []) []
      (match e.team with
        | none => e.s
        | some t =>
          let g := e.s.vrPlan t e.c.team e.c.gidx
          let reads := [t.range g.actBase g.actEnd] ++ if space = 1 then [t.range base (base + len)] else []
          e.engine true (e.sendAndGo true 1 (.vrrun space base len base g [] none) reads [t.range g.dstBase g.dstEnd]))

/-! ## Start (12 R270-R272) -/

/-- Has every earlier value-run command of the group started? -/
def State.vrTurn (s : State) (c : Cmd) : Bool :=
  (s.cmds.takeWhile fun o => o.id ≠ c.id).all fun o =>
    o.started || o.team ≠ c.team || o.gidx ≠ c.gidx || (match o.kind with
      | .vrset .. | .vract .. | .vrrun .. => false
      | _ => true)

/-- May a value-run command start? -/
def State.vrReady (s : State) (t : Team) (c : Cmd) : Bool := !c.started && !t.away && s.runs c && s.vrTurn c && s.mayStart c

/-- VRSET_START (12 R270): the record is written and the codebook read; out of range it is refused. -/
def execVrsetStart (cmd : Nat) (s : State) : Out :=
  match s.cmd? cmd with
  | none => .next s
  | some c =>
    match c.kind, s.team? c.team with
    | .vrset g cb, some t =>
      if !s.vrReady t c then .next s else
      match vrsetDefect t c.gc g cb with
      | some cause => .next (s.refuseCmd c 0x63 cause 7 9 cb 0)
      | none =>
        let n := g.cbBytes
        let spans := if g.vfmt = 0 then [] else [(cb, 256 * n)]
        match s.engineRead c t 5 0 spans with
        | (s, true) => .next s
        | (s, false) =>
        let book := if g.vfmt = 0 then [] else (List.range 256).map fun i => ofBytes (s.teamBytes t (cb + n * i) n)
        let bad := g.vfmt ≠ 0 && s.teamBad t cb (cb + 256 * n)
        let s := s.engineReadDone c t 5 spans
        let s := s.updTeam c.team fun t => { t with vrcfg := mput t.vrcfg c.gidx { g with codebook := book } }
        .next ((if bad then s.fatalCmd c 0x40 else s).endCmd c)
    | _, _ => .next s

/-- VRACT_START (12 R271). -/
def execVractStart (cmd : Nat) (s : State) : Out :=
  match s.cmd? cmd with
  | none => .next s
  | some c =>
    match c.kind, s.team? c.team with
    | .vract a d, some t =>
      if !s.vrReady t c then .next s
      else if !(t.vr c.gidx).valid then .next (s.refuseCmd c 0x63 0x02 7 9 a 0)
      else
        let g := { t.vr c.gidx with actBase := a, dstBase := d }
        .next ((s.setTeam c.team { t with vrcfg := mput t.vrcfg c.gidx g }).endCmd c)
    | _, _ => .next s

/-- VRRUN_START (12 R272): the snapshot is taken and checked, or the command refused. -/
def execVrrunStart (cmd : Nat) (s : State) : Out :=
  match s.cmd? cmd with
  | none => .next s
  | some c =>
    match c.kind, s.team? c.team with
    | .vrrun sp base len next _ rows stopAt, some t =>
      if !s.vrReady t c then .next s else
      let g := t.vr c.gidx
      match vrrunDefect t c.gc g sp base len with
      | some cause => .next (s.refuseCmd c 0x63 cause 7 9 base 0)
      | none => .next (s.setCmd { c with
          started := true
          kind := .vrrun sp base len next g rows stopAt })
    | _, _ => .next s

/-! ## The parser (12 R266, R267, R274) -/

/-- Where the parser stands in a row. -/
inductive PStage where
  | marker
  | low
  | high
  | count
  | value
  | first
  | more
  deriving DecidableEq, Repr

/-- A row being parsed: index, groups left, the open group, groups read, and whether a limit was passed. -/
structure PRow where
  stage : PStage
  index : Nat
  left : Nat
  v : Nat
  ps : List Nat
  groups : List (Nat × List Nat)
  limit : Bool

/-- How parsing a row ended: short of tokens, malformed at its last token taken, or whole with the tokens it took. -/
inductive Parsed where
  | short
  | bad (tokens : Nat)
  | row (index : Nat) (groups : List (Nat × List Nat)) (limit : Bool) (tokens : Nat)

/-- Parse a row from tokens in stream order (12 Table 12-1). -/
def parseRow (g : VrCfg) : Nat → PRow → List Nat → Parsed
  | _, _, [] => .short
  | n, r, t :: ts =>
    match r.stage with
    | .marker => if t = 0xFFFE then parseRow g (n + 1) { r with stage := .low } ts else .bad (n + 1)
    | .low => parseRow g (n + 1) { r with stage := .high, index := t } ts
    | .high =>
      let i := r.index + t * 65536
      parseRow g (n + 1) { r with stage := .count, index := i, limit := decide (g.rows ≤ i) } ts
    | .count => if t = 0 || 256 < t then .bad (n + 1) else parseRow g (n + 1) { r with stage := .value, left := t } ts
    | .value =>
      if t = 0xFFFE || t = 0xFFFF || (g.vfmt ≠ 0 && 256 ≤ t) then .bad (n + 1)
      else parseRow g (n + 1) { r with stage := .first, v := t, ps := [] } ts
    | .first =>
      if t = 0xFFFE || t = 0xFFFF then .bad (n + 1)
      else parseRow g (n + 1) { r with stage := .more, ps := [t], limit := r.limit || decide (g.k ≤ t) } ts
    | .more =>
      if t = 0xFFFE then .bad (n + 1)
      else if t = 0xFFFF then
        let groups := r.groups ++ [(r.v, r.ps)]
        if r.left ≤ 1 then .row r.index groups r.limit (n + 1)
        else parseRow g (n + 1) { r with stage := .value, left := r.left - 1, groups := groups } ts
      else parseRow g (n + 1) { r with ps := r.ps ++ [t], limit := r.limit || decide (g.k ≤ t) } ts

/-- A row before its first token. -/
def PRow.start : PRow := ⟨.marker, 0, 0, 0, [], [], false⟩

/-- The bytes of a global stream fetched from an address on, as far as they go. -/
def streamBytes (xs : List Sector) : Nat → Nat → List Byte
  | 0, _ => []
  | n + 1, a =>
    match xs.find? fun x => x.dst = a / 32 * 32 && x.st = .read with
    | none => []
    | some x => ((x.data.find? fun d => d.1 = a % 32).map (·.2)).getD 0 :: streamBytes xs n (a + 1)

/-- Tokens of a list of bytes. -/
def tokensOf : List Byte → List Nat
  | a :: b :: rest => (a.toNat + 256 * b.toNat) :: tokensOf rest
  | _ => []

/-- What the parser can read from an offset: tokens, and whether they reach the end of the stream. -/
def State.tokens (s : State) (c : Cmd) (t : Team) (space fin at_ : Nat) : List Nat × Bool :=
  let n := fin - at_
  let bs := if space = 1 then s.teamBytes t at_ n else streamBytes c.sectors n at_
  (tokensOf bs, bs.length = n)

/-- Is a byte of a stream interval poisoned? -/
def State.streamBad (s : State) (c : Cmd) (t : Team) (space lo hi : Nat) : Bool :=
  if space = 1 then s.teamBad t lo hi
  else c.sectors.any fun x => x.poison && decide (x.dst < hi) && decide (lo < x.dst + 32)

/-- The lowest queue of a core that holds no row (12 R274). -/
def State.freeQueue (s : State) (gc : Nat) : Option Nat :=
  let used := s.cmds.flatMap fun c => if c.gc = gc then (match c.kind with
    | .vrrun _ _ _ _ _ rows _ => rows.map (·.queue)
    | _ => []) else []
  (List.range 8).find? fun q => !used.contains q

/-- The state of a started run. -/
structure VrRun where
  space : Nat
  base : Nat
  len : Nat
  next : Nat
  cfg : VrCfg
  rows : List VrRow
  stopAt : Option (Nat × Nat)

def VrRun.kind (r : VrRun) : CmdKind := .vrrun r.space r.base r.len r.next r.cfg r.rows r.stopAt

def CmdKind.run? : CmdKind → Option VrRun
  | .vrrun sp b len nx g rows st => some ⟨sp, b, len, nx, g, rows, st⟩
  | _ => none

/-- Does the parser stand at a row until a REPLAY (12 R277)? -/
def VrRun.stopped (r : VrRun) : Bool := r.stopAt.any fun a => a.2 ≠ freed

/-- The run once the row is taken at which its command was parked: that entry of the queue passes to the row (15 R333). -/
def VrRun.taken (r : VrRun) (at_ : Nat) : VrRun := if (r.stopAt.map (·.1)) = some at_ then { r with stopAt := none } else r

/-- Does the row at an offset hold an entry of the replay queue, by itself or through its parked command (15 R333)? -/
def VrRun.holdsEntry (r : VrRun) (at_ : Nat) : Bool := (r.stopAt.map (·.1)) = some at_ || r.rows.any fun x => x.queued && x.off = at_

/-- Where the parser reads next: the first row to be read again, else the stream's next row; the row's place in the list. A stopped parser
reads nothing (12 R277). -/
def VrRun.where (r : VrRun) : Option (Nat × Option Nat) :=
  if r.stopped then none else
  match r.rows.findIdx? fun x => x.queue = 8 && x.parked.isNone with
  | some i => some (((r.rows[i]?).map (·.off)).getD 0, some i)
  | none => if r.base + r.len ≤ r.next then none else some (r.next, none)

/-- Is a team being evicted whole (12 R278)? Its parsers stand at their row boundaries. -/
def State.evicting (s : State) (tk : Nat) : Bool := s.saves.any fun i => i.team = tk && i.whole && i.phase = .saving

/-- Could this command hand a row over now? -/
def State.vrCanHand (s : State) (c : Cmd) : Bool :=
  match c.kind.run?, s.team? c.team with
  | some r, some t =>
    match r.where with
    | none => false
    | some (at_, _) =>
      c.started && !t.away && !s.evicting c.team && s.runs c && match parseRow r.cfg 0 PRow.start (s.tokens c t r.space (r.base + r.len) at_).1 with
        | .row i _ limit _ => limit || !(r.rows.any fun x => x.queue < 8 && x.index = i)
        | _ => false
  | _, _ => false

/-- Is the run over: the stream read to its end and every row performed? -/
def VrRun.over_ (r : VrRun) : Bool := r.rows.isEmpty && r.stopAt.isNone && decide (r.base + r.len ≤ r.next)

/-- Put a run back in its command; the command completes with its last row. -/
def State.setRun (s : State) (c : Cmd) (r : VrRun) : State :=
  let c := { c with kind := r.kind }
  if r.over_ then s.endCmd c else s.setCmd c.tidy

/-- Park a row that passed a limit, the parser going on at `go`; or the command at the row's offset, with the row itself where it is one read
again (12 R277). -/
def State.parkRow (s : State) (c : Cmd) (r : VrRun) (at_ : Nat) (again : Option Nat) (code cause level index : Nat) (go : Option Nat) : State :=
  if !r.holdsEntry at_ && s.queueFull c.gc then s else
  let (rid, s) := s.reportElem c c.gidx code cause level 9 0 at_ (at_ - r.base)
  let row : VrRow := ⟨index, at_, 8, [], none, 0, some (cause, rid), true⟩
  let r := r.taken at_
  let rows := match again, go with
    | some i, _ => r.rows.set i row
    | none, some _ => r.rows ++ [row]
    | none, none => r.rows
  let next := match again, go with
    | none, some nx => nx
    | _, _ => r.next
  s.setCmd { c with kind := { r with rows := rows, next := next, stopAt := if go.isNone then some (at_, rid) else r.stopAt }.kind }

/-- The sectors of a global stream that one read from an address on fetches: to the end of its 128 bytes, within the stream (05 R103). -/
def VrRun.fetches (r : VrRun) (a : Nat) : List Nat :=
  ((List.range 4).map fun k => a + 32 * k).filter fun b => b / 128 = a / 128 && (b = a || decide (b < r.base + r.len))

/-- Fetch the sector of a global stream that holds an address, from another package with those beside it in a 128-byte read (12 R276, R277; 05
R103). -/
def State.vrFetch (s : State) (c : Cmd) (t : Team) (r : VrRun) (at_ : Nat) (again : Option Nat) (addr : Nat) : State :=
  let a := addr / 32 * 32
  if c.sectors.any fun x => x.dst = a && (x.st = .sent || x.held.isSome) then s else
  let keep (b : Nat) : Bool := b = a || !(c.sectors.any fun x => x.dst = b && (x.st = .sent || x.st = .read))
  let xs := ((r.fetches a).takeWhile keep).map fun b => ((c.sectors.find? fun x => x.dst = b && x.st = .waiting).getD (emptySector b [(0, b, 32)]))
  let d := { c with sectors := c.sectors.filter (fun y => !(xs.any fun x => x.dst = y.dst) || y.st = .sent) ++ xs }
  let i := d.sectors.length - xs.length
  let probe (s : State) (x : Sector) : State × Except (Nat × Miss) (List (Part × Spot)) := s.partSpots c t 9 0 x.parts
  match xs with
  | [] => s
  | x :: _ =>
    match probe s x with
    | (s, .error (_, m)) => s.parkRow c r at_ again 0x63 m.1 m.2 0 none
    | (s, .ok ps) =>
      match ps.find? fun y => y.2.far with
      | some y =>
        let home := (y.2.home).getD 0
        if !s.tileRoom c i home then s else
        let (s, ys) := (s.setCmd d).probeRun probe (xs.zipIdx.map fun (x, k) => (i + k, x))
        let (s, ys) := s.seeRun d 5 (farRun home a ys)
        s.sendTile ((s.cmd? c.id).getD d) home false ys
      | none => if ps.any (fun y => s.spotBusy c y.2) then s else s.sectorRead d t i x 5 ps

/-- The bytes of a stream in the team space that a row takes and no earlier row of the stream has read; a row read again takes all. -/
def streamSpan (r : VrRun) (at_ fin : Nat) (again : Option Nat) : List (Nat × Nat) :=
  let lo := if again.isSome || at_ = r.base then at_ else (at_ + 31) / 32 * 32
  if r.space = 1 && decide (lo < fin) then [(lo, fin - lo)] else []

/-- The row parsed ends as `how` says, parking where `parks`, its stream bytes ending at `fin`: what it consumed meets the predicates (16 R345),
its poison raises 0x40 (12 R277). -/
def State.rowRead (s : State) (c : Cmd) (t : Team) (r : VrRun) (at_ fin : Nat) (again : Option Nat) (parks : Bool) (how : Cmd → State → State) : State :=
  if parks && !r.holdsEntry at_ && s.queueFull c.gc then s else
  let spans := streamSpan r at_ fin again
  let op := 4 * at_ + 1
  match s.engineRead c t 5 op spans with
  | (s, true) => s
  | (s, false) =>
    let bad := s.streamBad c t r.space at_ fin
    let s := s.engineReadDone c t 5 spans
    how (c.past op) (if bad then s.fatalCmd c 0x40 else s)

/-- VR_ROW_HANDOFF (12 R267, R274, R277): the parser takes the next row of the stream, or fetches what it lacks of it. The oldest
command that can hand a row over goes first. -/
def execVrRowHandoff (cmd : Nat) (s : State) : Out :=
  match s.cmd? cmd with
  | none => .next s
  | some c =>
    match c.kind.run?, s.team? c.team with
    | some r, some t =>
      match r.where with
      | none => .next s
      | some (at_, again) =>
        if !c.started || t.away || s.evicting c.team || !s.runs c || c.sectors.any (fun x => x.st = .sent) then .next s else
        let fin := r.base + r.len
        let (ts, whole) := s.tokens c t r.space fin at_
        match parseRow r.cfg 0 PRow.start ts with
        | .short =>
          if whole then .next (s.rowRead c t r at_ fin again true fun c s => s.parkRow c r at_ again 0x63 0 7 0 none)
          else .next (s.vrFetch c t r at_ again (at_ + (streamBytes c.sectors (fin - at_) at_).length))
        | .bad n => .next (s.rowRead c t r at_ (at_ + 2 * n) again true fun c s => s.parkRow c r at_ again 0x63 0 7 0 none)
        | .row i groups limit n =>
          let nx := at_ + 2 * n
          let older := (s.cmds.takeWhile fun o => o.id ≠ c.id).any fun o => o.gc = c.gc && s.vrCanHand o
          if limit then .next (s.rowRead c t r at_ nx again true fun c s => s.parkRow c r at_ again 0x64 0 7 i (some nx))
          else if older || r.rows.any (fun x => x.queue < 8 && x.index = i) then .next s
          else
            match s.freeQueue c.gc with
            | none => .next s
            | some q =>
              let row : VrRow := ⟨i, at_, q, groups, none, 0, none, r.holdsEntry at_⟩
              let r' := match again with
                | some k => { r with rows := r.rows.set k row }
                | none => { r with rows := r.rows ++ [row], next := nx }
              let used (c : Cmd) : Cmd := { c with sectors := c.sectors.map fun x => if x.dst + 32 ≤ nx then { x with st := .done, data := [] } else x }
              .next (s.rowRead c t r at_ nx again false fun c s => s.setRun (used c) (r'.taken at_))
    | _, _ => .next s

/-! ## The queues (12 R273, R275) -/

/-- A value token as FP32. -/
def VrCfg.value (g : VrCfg) (tok : Nat) : FVal := if g.vfmt = 0 then fDecode 9 tok else fDecode g.cbType (g.codebook.getD tok 0)

/-- Offset of activation column `j` at position `p`, and of the result of row `i` (12 R272). -/
def VrCfg.actAt (g : VrCfg) (p j : Nat) : Nat := g.actBase + (p * g.cols + j) * g.asz
def VrCfg.dstAt (g : VrCfg) (i j : Nat) : Nat := g.dstBase + (i * g.cols + j) * g.osz

/-- An activation as FP32. -/
def State.vrAct (s : State) (t : Team) (g : VrCfg) (p j : Nat) : FVal :=
  fDecode (if g.afmt then 9 else 8) (ofBytes (s.teamBytes t (g.actAt p j) g.asz))

/-- One column of a row (12 R273): FP32 code and flags. -/
def State.vrColumn (s : State) (t : Team) (g : VrCfg) (row : VrRow) (j : Nat) : Nat × Flags :=
  let init : Nat := if g.acc then ofBytes (s.teamBytes t (g.dstAt row.index j) 4) else 0
  let add (acc : Nat × Flags) (p : Nat) : Nat × Flags :=
    let r := fSum 8 0 0 false [.val (fDecode 8 acc.1), .val (s.vrAct t g p j)]
    (r.1, acc.2 ||| r.2)
  let out := row.groups.foldl (fun (acc : Nat × Flags) (vp : Nat × List Nat) =>
    let part := vp.2.foldl add (0, acc.2)
    let r := fSum 8 0 0 false [.val (fDecode 8 acc.1), fMulX (g.value vp.1) (fDecode 8 part.1)]
    (r.1, part.2 ||| r.2)) (init, 0)
  if g.ofmt then
    let r := convert 9 8 out.1 0 0 false
    (r.1, out.2 ||| r.2)
  else out

/-- The references of a row's activations, one for each position. -/
def VrRow.positions (r : VrRow) : List Nat := r.groups.flatMap (·.2)

/-- What multiplying a row reads in the team space: its activations, and with ACC its old results (12 R273). -/
def VrCfg.rowSpans (g : VrCfg) (x : VrRow) : List (Nat × Nat) :=
  (x.positions.map fun p => (g.actAt p 0, g.cols * g.asz)) ++ if g.acc then [(g.dstAt x.index 0, g.cols * g.osz)] else []

/-- VR_ROW_DONE (12 R273): the queue of a row of the command's list finishes multiplying it, of at most 8 positions once a stop has
come to the engine (12 R278, 15 Table 15-4). -/
def execVrRowDone (cmd row : Nat) (s : State) : Out :=
  match s.cmd? cmd with
  | none => .next s
  | some c =>
    match c.kind.run?, s.team? c.team with
    | some r, some t =>
      match r.rows[row]? with
      | none => .next s
      | some x =>
        let late := s.stopping (.valueRun c.gc) (s.cmdLaunch c) && decide (8 < x.positions.length)
        if 8 ≤ x.queue || x.results.isSome || !s.runs c || late then .next s else
        let op := 4 * x.off + 2
        match s.engineRead c t 5 op (r.cfg.rowSpans x) with
        | (s, true) => .next s
        | (s, false) =>
          let cols := (List.range r.cfg.cols).map (s.vrColumn t r.cfg x)
          let bad := x.positions.any fun p => s.teamBad t (r.cfg.actAt p 0) (r.cfg.actAt p r.cfg.cols)
          let s := (s.engineReadDone c t 5 (r.cfg.rowSpans x)).skidEngine c x.positions.length
          let x := { x with
            results := some (cols.map fun y => BitVec.ofNat 32 y.1)
            flags := cols.foldl (fun f y => f ||| y.2) 0 }
          let s := if bad then s.fatalCmd c 0x40 else s
          .next (s.setCmd { c.past op with kind := { r with rows := r.rows.set row x }.kind })
    | _, _ => .next s

/-- Store the elements of a row at their home, each a plain store of two looks; a precise firing holds the command, and at its resume the elements
stored before it are behind it (16 R355). -/
def State.vrStore (s : State) (c : Cmd) (t : Team) (n op k : Nat) : List (Nat × Word) → State × Bool
  | [] => (s, false)
  | (off, w) :: rest =>
    if k + 2 < c.made op then s.vrStore c t n op (k + 2) rest else
    let ref := t.pa off
    match s.elemPre 1 n (c.made op - k) (c.looks [ref]) with
    | (s, some (ev, m)) => (s.holdCmd c op ev (k + m), true)
    | (s, none) => ((s.setTeamBytes t off (bytesOf n w.toNat)).elemPost c 1 ref n).vrStore c t n op (k + 2) rest

/-- VR_RESULT_PERFORM (12 R273, R275): a row's results are written; after its last row the VRRUN is complete. -/
def execVrResultPerform (cmd row : Nat) (s : State) : Out :=
  match s.cmd? cmd with
  | none => .next s
  | some c =>
    match c.kind.run?, s.team? c.team with
    | some r, some t =>
      match r.rows[row]? with
      | none => .next s
      | some x =>
        match x.results with
        | none => .next s
        | some ws =>
          if !s.runs c then .next s else
          let op := 4 * x.off + 3
          match s.vrStore c t r.cfg.osz op 0 (ws.zipIdx.map fun (w, j) => (r.cfg.dstAt x.index j, w)) with
          | (s, true) => .next s
          | (s, false) => .next (s.setRun { c.past op with flags := c.flags ||| x.flags } { r with rows := r.rows.eraseIdx row })
    | _, _ => .next s

end Sys2Proof.Machine
end

