-- ==== Sys2Proof/Machine/Fabric.lean ====
section
/-! DEFINITION. Tile flits served at a peer home, and their replies (05 R102, R103). -/

namespace Sys2Proof.Machine

/-- Event class of a tile's elements (16 Table 16-1). -/
def CmdKind.tileClass : CmdKind → Nat
  | .copy _ => 4
  | .mst .. => 1
  | _ => 5

/-- A command with the identity of the group an element of it belongs to. -/
def Cmd.ownerOf (c : Cmd) (x : Sector) : Cmd :=
  match c.kind with
  | .mloop _ _ _ parts => ((parts.find? fun p => p.q = x.dst / 2 % 4).map c.as).getD c
  | _ => c

/-- May a tile flit be served: in its channel's order; the writes of a striped copy in ascending address order (05 R93, R102)? -/
def State.tileTurn (s : State) (m : Msg) (c : Cmd) (i : Nat) : Bool :=
  let below (x : Msg) : Bool := x.dst = m.dst && x.id ≠ m.id && match m.body, x.body with
    | .tileWrite k _, .tileWrite k' js => k = k' && js.any fun j => decide (j < i)
    | _, _ => false
  m.held.isNone && s.canSend m.dst m.src (planeOf m.dst) &&
    if c.kind.striped then s.handed m.src m.dst m.id 1 && !(s.chan.any below) else s.headOf m

/-- The sectors of a command with these numbers that are on their way as message `id`; one read anew since is not (12 R277). -/
def Cmd.sentSectors (c : Cmd) (id : Nat) (is : List Nat) : List (Nat × Sector) :=
  is.filterMap fun i => match c.sectors[i]? with
    | some x => if x.st = .sent && (x.probed.map (·.1)) = some id then some (i, x) else none
    | none => none

/-- Acknowledge sectors served, 64 bytes a flit, on the home's own plane (05 R92, R103). -/
def State.answerTile (s : State) (m : Msg) (cmd : Nat) (done : List Nat) : State :=
  (chunks 2 done.length done).foldl (fun s pair =>
    let (r, s) := s.fresh
    let mark (c : Cmd) (i : Nat) : Cmd := match c.sectors[i]? with
      | some x => c.setSector i { x with reply := some (r, m.dst) }
      | none => c
    match s.cmd? cmd with
    | some c => (s.setCmd (pair.foldl mark c)).sendFlit m.dst m.src (planeOf m.dst) 3 r
    | none => s) s

/-- A tile message is used up. -/
def State.tileGone (s : State) (m : Msg) : State :=
  ({ s with chan := s.chan.filter fun x => x.id ≠ m.id } : State).consume m.src m.dst m.id

/-- Serve the sectors of a tile flit one after another; a precise firing holds the message with those still to come (16 R355). -/
def State.serveTile (s : State) (m : Msg) (cmd : Nat) (body : List Nat → MsgBody) (one : State → Nat → State × Option Nat) :
    List Nat → List Nat → State
  | [], done => (s.tileGone m).answerTile m cmd done
  | i :: rest, done =>
    match one s i with
    | (s, some ev) =>
      let hold (x : Msg) : Msg := if x.id = m.id then { x with body := body (i :: rest), held := some ev } else x
      ({ s with chan := s.chan.map hold } : State).answerTile m cmd done
    | (s, none) => s.serveTile m cmd body one rest (done ++ [i])

/-- Read one sector at the home its probe found; or the event number of a precise firing. -/
def State.tileRead (s : State) (t : Team) (cmd i : Nat) : State × Option Nat :=
  match s.cmd? cmd with
  | none => (s, none)
  | some c =>
    match c.sectors[i]? with
    | none => (s, none)
    | some x =>
      let ps : List (Part × Spot) := (x.parts.zip x.refs).map fun p => (p.1, .ref p.2 1 0)
      let o := c.ownerOf x
      let xs := o.looks (seenRefs ps)
      match s.homeLooks c.kind.tileClass 32 x.shown xs with
      | (s, some (ev, k)) => (s.setCmd (c.setSector i { x with shown := k }), some ev)
      | (s, none) =>
        let (s, data, bad) := s.readParts c t ps
        ((s.elemsPost c.kind.tileClass 32 xs).setCmd (c.setSector i { x with
          data := data
          poison := bad
          shown := 0
          probed := none
          refs := [] }), none)

/-- Write one sector at the home its probe found; or the event number of a precise firing. -/
def State.tileWrite (s : State) (cmd i : Nat) : State × Option Nat :=
  match s.cmd? cmd with
  | none => (s, none)
  | some c =>
    match c.sectors[i]? with
    | none => (s, none)
    | some x =>
      let r := x.refs.headD 0
      let xs := c.looks [sectorRef r]
      match s.homeLooks c.kind.tileClass 32 x.shown xs with
      | (s, some (ev, k)) => (s.setCmd (c.setSector i { x with shown := k }), some ev)
      | (s, none) =>
        let s := (s.writeMasked (r - x.cover.1) x.data x.poison).elemsPost c.kind.tileClass 32 xs
        (s.setCmd (c.setSector i { x with
          shown := 0
          probed := none
          refs := [] }), none)

/-- Is a bank of these sectors' places taken? -/
def State.tileBusy (s : State) (xs : List (Nat × Sector)) : Bool := xs.any fun y => y.2.refs.any fun r => s.refBusy r

/-- TILE_READ_SERVE (05 R103; 09 R194, 11 R253, 12 R276): the home reads the sectors asked for and answers; a copy's, an operand
fetch's or a value-run stream's. -/
def execTileReadServe (msg : Nat) (s : State) : Out :=
  match s.chan.find? fun m => m.id = msg with
  | none => .next s
  | some m =>
    match m.body with
    | .tileRead cmd is =>
      match s.cmd? cmd, (s.cmd? cmd).bind fun c => s.team? c.team with
      | some c, some t =>
        let xs := c.sentSectors m.id is
        if !s.tileTurn m c 0 || s.tileBusy xs then .next s
        else .next (s.serveTile m cmd (.tileRead cmd) (fun s i => s.tileRead t cmd i) (xs.map (·.1)) [])
      | _, _ => .next (s.tileGone m)
    | _ => .next s

/-- In a copy with order a sector does not perform before a lower one: it goes back to be sent again (09 R194, R202). -/
def Cmd.tooEarly (c : Cmd) (is : List Nat) : Bool :=
  match c.kind with
  | .copy k => k.ord && (c.sectors.take (is.headD 0)).any fun y => !(y.st = .done || y.st = .sent)
  | _ => false

/-- Sectors that have to be sent again. -/
def Cmd.bounce (c : Cmd) (xs : List (Nat × Sector)) : Cmd :=
  xs.foldl (fun c y => c.setSector y.1 { y.2 with
    st := .read
    probed := none
    refs := [] }) c

/-- TILE_WRITE_SERVE (05 R103): the sectors of the flit are performed at the peer home, and acknowledged. -/
def execTileWriteServe (msg : Nat) (s : State) : Out :=
  match s.chan.find? fun m => m.id = msg with
  | none => .next s
  | some m =>
    match m.body with
    | .tileWrite cmd is =>
      match s.cmd? cmd with
      | none => .next (s.tileGone m)
      | some c =>
        let xs := c.sentSectors m.id is
        if !s.tileTurn m c (is.headD 0) || s.tileBusy xs then .next s
        else if c.tooEarly is then .next ((s.tileGone m).setCmd (c.bounce xs))
        else .next (s.serveTile m cmd (.tileWrite cmd) (fun s i => s.tileWrite cmd i) (xs.map (·.1)) [])
    | _ => .next s

/-- A reply for a sector arrives: what was read is here, or what was written has performed (05 R103). -/
def State.sectorReplied (s : State) (cmd i : Nat) : State :=
  match s.cmd? cmd with
  | none => s
  | some c =>
    match c.sectors[i]? with
    | none => s
    | some x =>
      if x.st ≠ .sent then s
      else if x.pieces.isEmpty then (s.sectorDone c i x).freeCapture cmd
      else (s.setCmd (c.setSector i { x with st := .read, reply := none })).stampSteps c.gc

/-- A reply flit to a tile request is handed over: every sector it names. -/
def State.tileReplied (s : State) (r : Nat) : State :=
  let due := s.cmds.flatMap fun c => c.sectors.zipIdx.filterMap fun (x, i) => if (x.reply.map (·.1)) = some r then some (c.id, i) else none
  due.foldl (fun s k => s.sectorReplied k.1 k.2) s

end Sys2Proof.Machine
end

