-- ==== Sys2Proof/Machine/Context.lean ====
section
/-! DEFINITION. A context as it travels: its size in flits (07 R138) and its bytes (07 R138-R140). -/

namespace Sys2Proof.Machine

/-! ## The context image's size (07 R138) -/

/-- Windows a context carries. -/
def Ctx.liveWindows (c : Ctx) : List Nat := (List.range 8).filter fun w => c.live.getLsbD w && decide (w < c.walloc)

/-- Bytes of the context image. -/
def Ctx.imageBytes (c : Ctx) : Nat :=
  512 + c.liveWindows.length * 32 * c.width + (if c.rsd = 0 then 0 else (64 + 4 * c.rsd * c.width + 63) / 64 * 64)

/-- FLITS of the context. -/
def Ctx.flits (c : Ctx) : Nat := c.imageBytes / 64

/-! ## The context header (07 Table 7-1) -/

/-- WIDTH code. -/
def widthCode (w : Nat) : Nat := if w = 16 then 0 else if w = 32 then 1 else 2

/-- SHAPE. -/
def Ctx.shapeWord (c : Ctx) : Nat :=
  c.live.toNat + widthCode c.width * 2 ^ 8 + c.walloc * 2 ^ 10 + c.rsd * 2 ^ 14 + b2n c.user * 2 ^ 21 + b2n c.debug * 2 ^ 22 +
    b2n c.haltPend * 2 ^ 23 + c.pslot * 2 ^ 24 + b2n c.splitPart * 2 ^ 28 + b2n c.inHandler * 2 ^ 29 + c.flits * 2 ^ 32

/-- The system register BIRTH (06 Table 6-2). -/
def Ctx.birthWord (c : Ctx) : Nat := gsOf c.birthGc

/-- GROUP. -/
def Ctx.groupWord (c : Ctx) (pair : Bool) : Nat :=
  c.gidx + coreNo c.birthGc * 2 ^ 6 + coreNo c.baseGc * 2 ^ 12 + gsOf c.baseGc % 16 * 2 ^ 17 + gsOf c.baseGc / 16 * 2 ^ 21 + b2n pair * 2 ^ 27

/-- SJB. -/
def Ctx.sjbWord (c : Ctx) : Nat := c.splitGen % 2 ^ 16 + c.part % 16 * 2 ^ 16 + c.nparts % 32 * 2 ^ 20 + c.leader.getD 0x7F * 2 ^ 32

/-- PATH[i]: its PC, HOLD and V. -/
def Path.pcWord (p : Path) : Nat := if p.v then p.pc / 4 * 4 + b2n p.hold * 2 + 1 else 0

/-- FSTATFf: bit l is flag f of lane l. -/
def Ctx.flagWord (c : Ctx) (f : Nat) : Nat := (maskOf ((lanesOf c.lanes).filter fun l => (mget c.fstat l 0).getLsbD f)).toNat

/-- LOOPST. -/
def Ctx.loopWord (c : Ctx) : Nat := c.loops.length + ((((c.loops ++ c.loopRegs).take 3).zipIdx).map fun (k, i) => k.len % 256 * 2 ^ (2 + 8 * i)).foldl (· + ·) 0

/-- MODES. -/
def Ctx.modesWord (c : Ctx) : Nat := b2n c.ftz + b2n c.visit * 2 + c.splitB * 4 + b2n c.err42 * 2 ^ 7

/-- The system register REGION_TOP (06 Table 6-2). -/
def Ctx.regionTop (c : Ctx) : Nat := c.reg0 * 2 ^ 16 + c.rdepth

/-- Does a path stand inside its clause: a word of it has issued, or the group is parked or stopped at the clause's first word (15 R340)? -/
def Ctx.inside (c : Ctx) (e : Nat) : Bool :=
  let p := c.path e
  p.v && (p.started || (p.clause.isSome && (p.stopped || c.stop.isSome || c.parked.isSome)))

/-- The 512-byte header; a path that does not stand inside its clause stands at the clause's header. -/
def Ctx.headerBytes (s : State) (c : Ctx) : List Byte :=
  let lid := ((s.launch? c.launch).map (·.id)).getD 0
  let t := s.team? c.team
  let num (f : Team → Nat) : Nat := (t.map f).getD 0
  let path (i : Nat) : List Byte :=
    let p := if c.inside i then c.path i else (c.path i).unfetch
    bytesOf 4 p.pcWord ++ bytesOf 8 (if p.v then p.mask.toNat else 0)
  let level (i : Nat) : List Byte :=
    let k := (c.loops ++ c.loopRegs).getD i ⟨0, 0, 0⟩
    bytesOf 4 k.lc ++ bytesOf 4 k.start
  bytesOf 8 c.shapeWord ++ bytesOf 4 lid ++ bytesOf 4 (num (·.lin)) ++ bytesOf 4 (num (·.x)) ++ bytesOf 4 (num (·.y)) ++ bytesOf 4 (num (·.z)) ++
    bytesOf 4 (c.groupWord ((t.map (·.pair)).getD false)) ++ bytesOf 4 c.birthWord ++ bytesOf 4 c.trap ++ bytesOf 8 c.codeBase ++
    bytesOf 8 c.privBase ++ bytesOf 8 c.sjbWord ++ (List.range 8).flatMap path ++
    (List.range 7).flatMap (fun k => bytesOf 8 (mget c.preds (k + 1) 0).toNat) ++ bytesOf 8 c.lanes.toNat ++
    (List.range 32).flatMap (fun k => bytesOf 4 (c.sreg k).toNat) ++ (List.range 7).flatMap (fun f => bytesOf 8 (c.flagWord f)) ++
    (List.range 8).flatMap (fun k => bytesOf 1 (mget c.wslot k 0)) ++ bytesOf 4 c.loopWord ++ (List.range 3).flatMap level ++
    bytesOf 4 c.modesWord ++ bytesOf 4 c.seed.toNat ++ bytesOf 4 c.scnt.toNat ++ bytesOf 4 c.regionTop ++ bytesOf 4 c.anchor ++
    (List.range 8).flatMap (fun j => bytesOf 2 (mget c.region j 0).toNat) ++ bytesOf 4 c.fcause.toNat ++ bytesOf 4 c.fpc.toNat ++
    bytesOf 8 c.faddr.toNat ++ bytesOf 8 c.flanes.toNat ++ bytesOf 8 0

/-- Image of window `w` (07 R140). -/
def Ctx.windowBytes (c : Ctx) (w : Nat) : List Byte :=
  (List.range 8).flatMap fun j => (List.range c.width).flatMap fun l => bytesOf 4 (c.v (8 * w + j) l).toNat

/-- The return-stack block (07 R140), of the lanes the context holds. -/
def Ctx.stackBytes (c : Ctx) : List Byte :=
  if c.rsd = 0 then [] else
  let held (l : Nat) : List Word := if c.lanes.getLsbD l then mget c.rstack l [] else []
  let body := (List.range 64).flatMap (fun l => bytesOf 1 (held l).length) ++
    (List.range c.rsd).flatMap fun e => (List.range c.width).flatMap fun l => bytesOf 4 ((held l).getD e 0).toNat
  body ++ List.replicate ((64 - body.length % 64) % 64) 0

/-- The whole context with its LIVE windows (07 R138). -/
def Ctx.imageList (s : State) (c : Ctx) : List Byte := c.headerBytes s ++ c.liveWindows.flatMap c.windowBytes ++ c.stackBytes

/-- Pieces of 64 bytes as flit payloads (05 R94). -/
def flitPayloads (bs : List Byte) : List (BitVec 512) := (chunks 64 bs.length bs).map fun p => BitVec.ofNat 512 (ofBytes p)

end Sys2Proof.Machine
end

