-- ==== Sys2Proof/Machine/Migrate.lean ====
section
/-! DEFINITION. Contexts on the move (07 R138-R152): departure, offers and grants, landing, placing, splits, visit chains and joins. -/

namespace Sys2Proof.Machine

/-! ## Departure (07 R144-R146) -/

/-- The slot in which the word of a chain under way holds a count: a long-latency one, as ST, STT and MIGRATE are not (06 R122). -/
def Ctx.chainSlot (c : Ctx) : Option Nat :=
  let p := c.path c.chainEntry
  if !c.chainBegun then none else
  match p.nextInstr with
  | some (.ld _) | some (.ldt _) | some (.atom _) | some (.cas _) => p.clause.map (·.set)
  | _ => none

/-- Is every wait slot zero, but for the one count a visit chain's word holds (07 R144)? -/
def Ctx.slotsClear (c : Ctx) : Bool :=
  (List.range 8).all fun k => mget c.wslot k 0 = 0 || (c.chainSlot = some k && mget c.wslot k 0 = 1)

/-- Do the paths other than `e` let the context go: at a boundary, waiting at their migrating word, or stopped (06 R125, 16 R407)? -/
def Ctx.othersAtEdge (c : Ctx) (e : Nat) : Bool :=
  c.validPaths.all fun k => k = e || (c.path k).stopped || (c.path k).atEdge

/-- Is a context to be taken into an image at its next boundary (15 R340)? -/
def State.wanted (s : State) (cid : Nat) : Bool := s.saves.any fun i => i.phase = .saving && i.want.contains cid

/-- Does a context stand at the boundary with its accesses performed (07 R144, check 1; R150), and not about to be saved there? -/
def State.atRest (s : State) (cid : Nat) (c : Ctx) (e : Nat) : Bool :=
  (c.place = .active || c.place = .pending) && !s.wanted cid && (c.stop.isNone || c.step.isSome) && !(s.accs.any fun a => a.ctx = cid) && c.othersAtEdge e

/-- May a context leave its place: its slots are zero too (07 R144, check 2)? -/
def State.mayLeave (s : State) (cid : Nat) (c : Ctx) (e : Nat) : Bool := s.atRest cid c e && c.slotsClear

/-- The context as it is packed at the boundary of path `e`: no latches, unstarted clauses put back, LIVE of the clause just left
(07 R142, 06 R124). -/
def Ctx.packUp (c : Ctx) (e : Nat) : Ctx :=
  let live := match (c.path e).clause with
    | some k => k.live
    | none => c.live
  let pack (ip : Nat × Path) : Path := { (if ip.1 = e then ip.2 else ip.2.unfetch) with latches := [] }
  { c with
    live := live &&& BitVec.ofNat 8 (2 ^ c.walloc - 1)
    paths := ((List.range c.paths.length).zip c.paths).map pack }

/-- Registers of windows that are not live read zero, under dead marks where DEBUG is set (07 R143). A context that travelled carries no
marks (07 R142); one that did not keeps those of its live windows. -/
def Ctx.dropDead (c : Ctx) (landed : Bool) : Ctx :=
  let keep (kv : Nat × Word) : Bool := c.liveWindows.contains (kv.1 / 512)
  let lost := (List.range 64).filter fun r => decide (r / 8 < c.walloc) && !c.liveWindows.contains (r / 8)
  let marks : Map Bool := if c.debug then
      (lost.flatMap fun r => (lanesOf c.lanes).map fun l => r * 64 + l).foldl (fun m k => mset m k true false) (if landed then [] else c.dead)
    else []
  { c with
    vregs := c.vregs.filter keep
    dead := marks }

/-- Has a source credit at a destination of its package, or in a grant it has been told of (07 R145)? -/
def State.creditOk (s : State) (src dst flits : Nat) : Bool :=
  if pkgOf src = pkgOf dst then decide (mget (s.stk dst).credit src 0 + flits ≤ 1024)
  else (s.stk dst).grants.any fun g => g.src = src && decide (g.used + flits ≤ 528) && s.handed dst src g.id 1

/-- Consume credit. -/
def State.takeCredit (s : State) (src dst flits : Nat) : State :=
  if pkgOf src = pkgOf dst then s.updStk dst fun k => { k with credit := mset k.credit src (mget k.credit src 0 + flits) 0 }
  else s.updStk dst fun k => { k with grants := k.grants.map fun g => if g.src = src then { g with used := g.used + flits } else g }

/-- Give credit back; a grant whose last credit came back begins its idle count. -/
def State.giveCredit (s : State) (src dst flits : Nat) : State :=
  let now := s.stkNow dst
  if pkgOf src = pkgOf dst then s.updStk dst fun k => { k with credit := mset k.credit src (mget k.credit src 0 - flits) 0 }
  else s.updStk dst fun k => { k with grants := k.grants.map fun g =>
    if g.src = src then { g with used := g.used - flits, idleSince := now } else g }

/-- The header after the clause whose header stands at an offset; where it cannot be read, the next word. -/
def State.afterClause (s : State) (c : Ctx) (pc : Nat) : Nat :=
  match s.codeWord c pc with
  | (_, .ok h) => if isHeader h then pc + 4 * (hdrN h + 1) else pc + 4
  | (_, .error _) => pc + 4

/-- Forget a departure, a split and a chain of a context; a chain's own count leaves its slot. -/
def Ctx.stay (c : Ctx) : Ctx :=
  { c with
    wslot := match c.chainSlot with
      | some k => mset c.wslot k (mget c.wslot k 0 - 1) 0
      | none => c.wslot
    depart := none
    split := []
    chain := []
    chainDone := 0
    chainSec := []
    chainAddr := []
    chainAcq := false }

/-- Where TRET goes on after a fault of a POST kept for the end of its clause: behind that clause (15 R330). -/
def Path.afterPosts (p : Path) : Nat := if p.started then p.nextHeader else p.unfetch.pc

/-- A POST kept by path `e` fails: it and the later ones of its path have no effect (06 R134; log 79, DEDUCED). -/
def Ctx.dropVisits (c : Ctx) (e : Nat) : Ctx := { c with visits := c.visits.filter fun v => v.entry ≠ e }

/-- Where a departure of a path that is unreachable is reported: FPC, the offset after the word's clause, and the lanes that failed
(15 R330): the migrating word, the engine clause's header (07 R142), the JOIN, or the POST of a visit (R155). -/
def State.unreached (s : State) (c : Ctx) (d : Depart) : Nat × Nat × Mask :=
  let p := c.path d.entry
  match d.why, c.chain, c.visits.find? fun v => v.entry = d.entry with
  | .join, _, _ => (p.pc - 4, p.pc, p.mask)
  | .birth, _, _ => (p.pc, s.afterClause c p.pc, p.mask)
  | .chain, [], some v => (v.pc, p.afterPosts, maskOf (v.lanes.map (·.1)))
  | _, _, _ => (p.pc, p.nextHeader, c.pathLanes d.entry &&& ~~~c.chainDone)

/-- Destination unreachable (15 R330): 0x43 at the word that asked for the departure, at the source. -/
def State.unreachable (s : State) (cid : Nat) (d : Depart) : State :=
  match s.ctx? cid with
  | none => s
  | some c =>
    let (pc, resume, lanes) := s.unreached c d
    let c := if d.why = .chain && c.chain.isEmpty then c.dropVisits d.entry else c
    (s.setCtx cid c.stay).takeTrap cid d.entry resume (plainReport 0x43 pc lanes)

/-- Word 1 of a depart record (16 Table 16-5). -/
def departWord (kind gs core flits : Nat) : Nat := kind + ((gs / 16 * 16 + gs % 16) * 32 + core) * 16 + flits * 2 ^ 20

/-- The source keeps the windows of a context that has gone until its landing is acknowledged (07 R146); `key` names the window set, which
parts of a split share where they formed. -/
def State.keepWindows (s : State) (gc cid key granules : Nat) : State :=
  s.updCore gc fun k => { k with leaving := k.leaving ++ [(cid, key, granules)] }

/-- Places of a core that are taken: by its groups, and by those on their way from another core of the stack (07 R149, 14 R322). -/
def State.seats (s : State) (gc : Nat) : Nat :=
  (s.residents gc).length +
    (s.ctxs.filter fun kc => kc.2.place = .moving && gsOf kc.2.gc = gsOf gc && (kc.2.depart.bind (·.core)) = some gc).length

/-- MIGRATION_DEPART (07 R144, R145, R149): the context leaves its core when every condition holds; another core of its stack must
have its windows and one of its 64 places free (14 R322). -/
def execMigrationDepart (cid : Nat) (s : State) : Out :=
  match s.ctx? cid with
  | none => .next s
  | some c =>
    match c.depart with
    | none => .next s
    | some d =>
      if !s.mayLeave cid c d.entry then .next s else
      let src := gsOf c.gc
      let c' := c.packUp d.entry
      let kind := if c.splitPart then 1 else 0
      if d.gs = src then
        match d.core with
        | none => .next (s.setCtx cid { c with depart := none })
        | some gc =>
          if gc = c.gc then .next (s.setCtx cid { c with depart := none })
          else if s.freeG gc < c.fixExt.granules || 64 ≤ s.seats gc then .next s
          else
            let s := s.trace cid 7 (departWord kind src (coreNo gc) c'.flits)
            let s := (s.keepWindows c.gc cid (c.winKey cid) c.granules).keepWindows gc cid (2 * cid) c.fixExt.granules
            .next (s.setCtx cid { c' with place := .moving })
      else if !s.reaches src d.gs then .next (s.unreachable cid d)
      else if (c.anchor ≠ 0 && decide (256 ≤ (s.stk src).fwd.length)) || !s.creditOk src d.gs c'.flits || !s.canSend src d.gs (planeOf src) then .next s
      else
        let core := match d.core with
          | some gc => coreNo gc
          | none => 31
        let s := s.trace cid 7 (departWord kind d.gs core c'.flits)
        let s := if c.anchor = 0 then s else s.updStk src fun k => { k with fwd := k.fwd ++ [⟨c.team, c.gidx, c.part, c.splitGen, d.gs, c.anchor⟩] }
        let s := (s.takeCredit src d.gs c'.flits).keepWindows c.gc cid (c.winKey cid) c.granules
        let (i, s) := s.fresh
        let s : State := { s with chan := s.chan ++ [⟨i, src, d.gs, .context cid c'.flits, none, false, false, false⟩] }
        let s := if pkgOf src = pkgOf d.gs then s else s.sendFlits src d.gs (planeOf src) 0 i (flitPayloads (c'.imageList s))
        .next (s.setCtx cid { c' with place := .moving })

/-- LANDING_OFFER (07 R145): a source of another package without a grant asks for one. -/
def execLandingOffer (src dst : Nat) (s : State) : Out :=
  let k := s.stk dst
  if pkgOf src = pkgOf dst || (k.grants.any fun g => g.src = src) || (k.offers.any fun o => o.1 = src) || !s.reaches src dst then .next s
  else
    let (i, s) := s.fresh
    .next ((s.updStk dst fun k => { k with offers := k.offers ++ [(src, i)] }).sendFlit src dst (planeOf src) 5 i)

/-- LANDING_GRANT (07 R145): of the offers that have arrived, which stand in the order they came, the first takes a free unit of the 95. -/
def execLandingGrant (gs : Nat) (s : State) : Out :=
  let k := s.stk gs
  match k.offers.find? fun o => s.handed o.1 gs o.2 1 with
  | some (src, msg) =>
    if k.grants.length < 95 && s.reaches gs src then
      let (i, s) := (s.consume src gs msg).fresh
      .next ((s.updStk gs fun k => { k with
        offers := k.offers.filter fun o => o.2 ≠ msg
        grants := k.grants ++ [⟨src, i, 0, s.stkNow gs⟩] }).sendFlit gs src (planeOf gs) 5 i)
    else .next s
  | none => .next s

/-- GRANT_RETURN (07 R145): a grant with no credit in use for 2^16 cycles goes back. -/
def execGrantReturn (gs src : Nat) (s : State) : Out :=
  let idle (g : Grant) : Bool := g.src = src && g.used = 0 && decide (65536 ≤ s.stkNow gs - g.idleSince)
  let back := (s.stk gs).grants.filter idle
  let s := s.updStk gs fun k => { k with grants := k.grants.filter fun g => !idle g }
  .next (back.foldl (fun s g => s.consume gs src g.id) s)

/-! ## Landing and placing (07 R146-R149) -/

/-- The context as it stands where it lands: windows of its own, the extension only where its depths need it (07 R141, R143). -/
def Ctx.landed (c : Ctx) : Ctx := { (c.dropDead true).fixExt with win := 0 }

/-- A forwarding entry whose count the landing of a context takes over: its own, and once it is no part every entry of its group
(07 R154). -/
def Ctx.takesOver (c : Ctx) (f : Fwd) : Bool :=
  f.team = c.team && f.gidx = c.gidx && (!c.splitPart || (f.part = c.part && f.splitGen = c.splitGen))

/-- CONTEXT_LANDING (07 R146, R148): the last flit is in the landing area: the migration performs, the landing is acknowledged, and the
birth core is told (15 R334). -/
def execContextLanding (msg : Nat) (s : State) : Out :=
  match s.chan.find? fun m => m.id = msg with
  | none => .next s
  | some m =>
    match m.body with
    | .context cid flits =>
      match s.ctx? cid with
      | none => .next (({ s with chan := s.chan.filter fun x => x.id ≠ msg }.consume m.src m.dst msg).giveCredit m.src m.dst flits)
      | some c =>
        if !s.headOf m || m.held.isSome then .next s else
        let (i, s) := s.fresh
        let (j, s) := s.fresh
        let c' := { c.landed with
              place := .landed
              gc := 24 * m.dst }
        let s : State := { s.consume m.src m.dst msg with
              chan := s.chan.filter fun x => x.id ≠ msg
              landAcks := s.landAcks ++ [⟨i, m.dst, cid, c.gc, c.granules, c⟩]
              notices := s.notices ++ [⟨j, c.team, c.gidx, m.dst⟩] }
        let s := s.updStk m.dst fun k => { k with
          landing := k.landing ++ [(cid, m.src, flits)]
          fwd := k.fwd.filter fun f => !c.takesOver f }
        .next (((s.setCtx cid c').sendFlit m.dst m.src (planeOf m.dst) 3 i).sendFlit m.dst (gsOf c.birthGc) (planeOf m.dst) 5 j)
    | _ => .next s

/-- LANDING_ACK (07 R146): the group is gone from the source, which frees its windows. -/
def execLandingAck (ack : Nat) (s : State) : Out :=
  match s.landAcks.find? fun a => a.id = ack with
  | none => .next s
  | some a =>
    if !s.replyDue a.src (gsOf a.srcGc) ack then .next s else
    let s := ({ s with landAcks := s.landAcks.filter fun x => x.id ≠ ack } : State).consume a.src (gsOf a.srcGc) ack
    .next (s.updCore a.srcGc fun k => { k with leaving := k.leaving.filter fun l => l.1 ≠ a.ctx })

/-- Does a core have room for a context's windows? -/
def State.roomFor (s : State) (gc : Nat) (c : Ctx) : Bool := decide (c.granules ≤ s.freeG gc) && decide (s.seats gc < 64)

/-- The core a landed context goes to (07 R147): the one named, or the fitting core with the fewest resident groups. -/
def State.landCore (s : State) (gs : Nat) (c : Ctx) : Option Nat :=
  match c.depart.bind (·.core) with
  | some gc => if s.roomFor gc c then some gc else none
  | none =>
    leastBy (fun a b => decide ((s.residents a).length ≤ (s.residents b).length))
      ((((List.range 24).map (· + 24 * gs))).filter fun gc => s.roomFor gc c)

/-- Take a context out of the landing area, its credit given back. -/
def State.unland (s : State) (gs cid : Nat) : State :=
  match (s.stk gs).landing.find? fun l => l.1 = cid with
  | none => s
  | some (_, src, flits) => (s.updStk gs fun k => { k with landing := k.landing.filter fun l => l.1 ≠ cid }).giveCredit src gs flits

/-- A context begins on a core as a pending group: its wait there begins, and its paths' (14 R323, R324; log 80, DESIGN CHOICE). -/
def State.settleOn (s : State) (cid : Nat) (c : Ctx) (gc : Nat) : State :=
  let now := s.now gc
  s.setCtx cid { c with
    place := .pending
    gc := gc
    slotNo := s.freePlace gc
    depart := none
    seen := none
    stall := if c.stop.isSome then 9 else 15
    since := now
    lastIssue := now
    paths := c.paths.map fun p => { p with lastIssue := now }
    activeAt := now }

/-- A context that a stop met in the landing area writes its record where it is placed (15 R337); one with stopped paths has its record there
too (16 R407). -/
def State.recordLanded (s : State) (cid : Nat) : State :=
  match s.ctx? cid with
  | none => s
  | some c =>
    match c.stop, c.step with
    | some t, none =>
      let r := { groupRec s c c.firstPath t.code with cause := c.met }
      ((s.setCtx cid { c with stopRec := some r }).putRec (gsOf c.gc) c.placeIdx r (some cid)).trace cid 10 (t.code + c.met * 256)
    | _, _ => s.moveStopRec cid

/-- CONTEXT_PLACE (07 R147): in landing order for each core, into the pending set; a context that a kill took gives its places back. -/
def execContextPlace (cid : Nat) (s : State) : Out :=
  match s.ctx? cid with
  | none => .next (s.stks.foldl (fun s kk => s.unland kk.1 cid) s)
  | some c =>
    let gs := gsOf c.gc
    if c.place ≠ .landed then .next s else
    match s.landCore gs c with
    | none => .next s
    | some gc =>
      let before := (s.stk gs).landing.takeWhile fun l => l.1 ≠ cid
      let first := before.all fun l => match s.ctx? l.1 with
        | none => true
        | some b => s.landCore gs b ≠ some gc && (b.depart.bind (·.core)) ≠ some gc
      if !first then .next s else
      let s := (s.unland gs cid).settleOn cid c gc
      .next (((s.traceOpen cid).recordLanded cid).endStep cid)

/-- CORE_TO_CORE_ARRIVAL (07 R149): the last flit is in the register file of the other core of the stack. -/
def execCoreToCoreArrival (cid : Nat) (s : State) : Out :=
  match s.ctx? cid with
  | none => .next s
  | some c =>
    match c.depart with
    | some d =>
      match d.core with
      | some gc =>
        if c.place ≠ .moving || gsOf gc ≠ gsOf c.gc then .next s else
        let free (s : State) (g : Nat) : State := s.updCore g fun k => { k with leaving := k.leaving.filter fun l => l.1 ≠ cid }
        let s := (free (free s c.gc) gc).settleOn cid c.landed gc
        .next (((s.traceOpen cid).recordLanded cid).endStep cid)
      | none => .next s
    | none => .next s

/-- LANDING_NOTICE (15 R334): the birth core records the stack its group last landed on; notices of one stack arrive in their order. -/
def execLandingNotice (notice : Nat) (s : State) : Out :=
  match s.notices.find? fun n => n.id = notice with
  | none => .next s
  | some n =>
    let birth := ((s.team? n.team).map fun t => gsOf t.baseGc).getD n.gs
    let earlier := s.notices.any fun x => x.gs = n.gs && x.team = n.team && decide (x.id < notice)
    if earlier || !s.handed n.gs birth notice 1 then .next s else
    let s := ({ s with notices := s.notices.filter fun x => x.id ≠ notice } : State).consume n.gs birth notice
    .next (s.updTeam n.team fun t => { t with
      landedAt := mput t.landedAt n.gidx n.gs
      noted := mset t.noted n.gidx (mget t.noted n.gidx 0 + 1) 0 })

/-! ## Splits and visit chains (07 R150, R151, R155) -/

/-- The parts of a split: homes and lanes of each; the last of a budget takes the rest as a chain (07 R150). -/
def splitPlan (budget : Nat) (ps : List SplitPart) : List (Mask × List (Nat × Option Nat)) :=
  let one (p : SplitPart) : Mask × List (Nat × Option Nat) := (p.lanes, [(p.gs, p.core)])
  let b := max 1 budget
  if ps.length ≤ b then ps.map one
  else
    let rest := ps.drop (b - 1)
    (ps.take (b - 1)).map one ++ [(rest.foldl (fun m p => m ||| p.lanes) 0, rest.map fun p => (p.gs, p.core))]

/-- One part's context: the whole header but LANES, PART, NPARTS, SPLITPART, ANCHOR and the paths' masks; `keeper` takes the other paths.
The parts share the windows `win` where they form. -/
def Ctx.partOf (c : Ctx) (e i n : Nat) (lanes : Mask) (keeper : Bool) (win : Nat) : Ctx :=
  let others : Mask := (c.validPaths.filter (· ≠ e)).foldl (fun m k => m ||| (c.path k).mask) 0
  let cut (ip : Nat × Path) : Path :=
    if ip.1 = e then { ip.2 with mask := lanes, latches := [] }
    else if keeper then ip.2 else freePath
  let held := if keeper then lanes ||| others else lanes
  Ctx.fixExt { c with
    lanes := held
    rstack := c.rstack.filter fun kv => held.getLsbD kv.1
    win := win
    paths := ((List.range c.paths.length).zip c.paths).map cut
    part := i
    nparts := n
    splitPart := true
    splitGen := (c.splitGen + 1) % 65536
    anchor := 0
    split := []
    depart := none }

/-- Stops on their way to a group go to a part of it too. -/
def State.copyStops (s : State) (cid k : Nat) : State :=
  let copy (s : State) (m : StopMsg) : State :=
    let (i, s) := s.fresh
    let u : UnitId := match m.target with
      | .path _ e => .path k e
      | _ => .group k
    { s with stops := s.stops ++ [{ m with id := i, target := u }] }
  let mine (m : StopMsg) : Bool := match m.target with
    | .group c | .path c _ => c = cid
    | _ => false
  (s.stops.filter mine).foldl copy s

/-- GROUP_SPLIT (07 R150): with ANCHOR zero and every access performed, a JOINK's answer included, the parts form; the part homed here
stays and keeps the handle, else part 0 does: the part of which one home is here, a chain's later one too (log 98, DESIGN CHOICE). Commands and
stops under way count for every part. Parts that are still to leave may stand beyond a core's 64 places (log 102, DESIGN CHOICE). -/
def execGroupSplit (cid : Nat) (s : State) : Out :=
  match s.ctx? cid with
  | none => .next s
  | some c =>
    match c.split with
    | [] => .next s
    | p :: _ =>
      if c.anchor ≠ 0 || !s.atRest cid c p.entry || (s.joinks.any fun j => j.ctx = cid) then .next s else
      let e := p.entry
      let plan := splitPlan c.splitB c.split
      let here := plan.findIdx? fun m => m.2.any c.atHome
      let keep := here.getD 0
      let (h, s) := s.fresh
      let win := if c.win = 0 then h else c.win
      let form (acc : State × Nat) (m : Mask × List (Nat × Option Nat)) : State × Nat :=
        let (s, i) := acc
        let d := c.partOf e i plan.length m.1 (i = keep) win
        let d : Ctx := match m.2 with
          | [h] => if c.atHome h then d else { d with depart := some ⟨.access, e, h.1, h.2⟩ }
          | hs => { d with chain := hs, chainEntry := e }
        if i = keep then (s.setCtx cid d, i + 1)
        else
          let (k, s) := s.fresh
          let s : State := { s with cmds := s.cmds.map fun x => if x.waiters.contains cid then { x with also := x.also ++ [k] } else x }
          ((s.copyStops cid k).setCtx k { d with
            slotNo := s.freePlace c.gc
            visits := [] }, i + 1)
      .next (plan.foldl form (s, 0)).1

/-- A lane's address and data as a visit reads them: from the registers as they stand there, latches and specials as the word read them
(18 R388; log 81, DEDUCED). -/
def Env.visitOperands (e : Env) (v : VisitPost) (x : Nat × Nat × Nat) : Nat × Nat × Nat :=
  let f := v.word
  (x.1, if f.addr.toNat < 96 then e.addr f x.1 else x.2.1,
    if f.data.toNat < 56 then e.dataVal f.data.toNat (postBytes f.szop.toNat) x.1 else x.2.2)

/-- The operation of a POST kept for the end of its clause, as a memory word (07 R155). -/
def VisitPost.word' (v : VisitPost) (xs : List (Nat × Nat × Nat)) : MemWord :=
  let op := v.word.szop.toNat
  ⟨⟨4, postBytes op, postStores op, false, false⟩, .store, 3, op, 1, v.word.data.toNat, false, [], false,
    fun l => ((xs.find? fun x => x.1 = l).map (·.2.2)).getD 0, fun _ => 0⟩

/-- Perform lanes of the oldest kept POST of a path where the group stands, in order; one that a precise firing holds stops the rest, and is not
shown again (16 R351, R355). -/
def State.visitLanes (s : State) (cid : Nat) (v : VisitPost) (w : MemWord) : List (Nat × Home) → State
  | [] => s
  | (l, h) :: rest =>
    match s.ctx? cid with
    | none => s
    | some c =>
      let keep (f : VisitPost → VisitPost) : Ctx :=
        { c with visits := match c.visits with
            | u :: us => if (f u).lanes.isEmpty then us else f u :: us
            | [] => [] }
      let shown := (c.visits.head?.map (·.shown)).getD false
      let less := keep fun u => { u with lanes := u.lanes.filter (fun x => x.1 ≠ l), shown := false }
      match s.perform (.path cid v.entry) shown ⟨3, 0, w.want.n, c.pslot, some (l, c.gidx, c.reg0), 0⟩ h.ref w.want.n (postOp w.sz (w.data l)) with
      | (s, .held ev) => s.updCtx cid fun d => { d with visits := (keep fun u => { u with held := some ev, shown := true }).visits }
      | (s, .fatal code) => (s.updCtx cid fun d => { d with visits := less.visits }).fatalGroup cid v.entry (plainReport code v.pc (laneBit l)) false
      | (s, .done _ _) => (s.updCtx cid fun d => { d with visits := less.visits }).visitLanes cid v w rest

/-- Lanes of the oldest kept POST still to perform. -/
def State.visitLeft (s : State) (cid : Nat) (v : VisitPost) : Mask :=
  match (s.ctx? cid).bind fun c => c.visits.head? with
  | some u => if u.pc = v.pc && u.entry = v.entry then maskOf (u.lanes.map (·.1)) else 0
  | none => 0

/-- The first dead register that the lanes of a visit read (07 R143, 18 R388). -/
def Env.visitDead (e : Env) (v : VisitPost) : Option Nat :=
  let f := v.word
  e.deadReg (maskOf (v.lanes.map (·.1)))
    (srcRegs (addrPos f.space.toNat) f.addr.toNat ++ stRegs f.data.toNat (if postBytes f.szop.toNat = 8 then 2 else 1))

/-- The next stop of a kept POST: a dead register it reads stops the group (07 R143); its lanes homed here meet the core's predicates, once each
(16 R345, R351), and perform, or the group asks to leave for the lowest home. -/
def State.visitStep (s : State) (cid : Nat) (c : Ctx) (v : VisitPost) : State :=
  let e : Env := ⟨s, cid, { c with chainSec := [] }, v.entry, c.path v.entry, false⟩
  let xs := v.lanes.map (e.visitOperands v)
  let w := v.word' xs
  match e.visitDead v with
  | some reg =>
    let (ev, s) := s.fresh
    s.stopGroup cid ev 0x80 { groupRec s c v.entry 0x80 with pc := v.pc, lanes := maskOf (v.lanes.map (·.1)), dead := true, aux := reg }
  | none =>
  match s.probeLanes c w.want v.word.space.toNat (xs.map fun x => (x.1, x.2.1)) with
  | (s, hs, []) =>
    match hs.foldl (fun l lh => insertHome lh.2.spot l) [] with
    | [] => s.setCtx cid { c with visits := c.visits.drop 1 }
    | h :: _ =>
      if !c.atHome h then (s.setCtx cid { c with depart := some ⟨.chain, v.entry, h.1, h.2⟩ }).swapOut cid 3
      else
        let here := hs.filter fun lh => homeKey lh.2.spot = homeKey h
        if here.any (fun lh => s.refAbsent lh.2.ref w.want.n || s.refBusy lh.2.ref) then s else
        match e.watchLanes s w here true with
        | (s, true) => s
        | (s, false) =>
          let s := (s.updCtx cid fun d => { d with seen := some (v.entry, e.p.pc, true) }).visitLanes cid v w here
          let left := s.visitLeft cid v
          let gone := here.all fun lh => !left.getLsbD lh.1
          let s := if gone then s.updCtx cid fun d => { d with seen := none } else s
          (e.watchLanes s w (here.filter fun lh => !left.getLsbD lh.1) false).1
  | (s, _, ms) =>
    let r := missReport 4 v.pc ms
    if r.code = 7 then (s.setCtx cid (c.dropVisits v.entry)).takeTrap cid v.entry (c.path v.entry).afterPosts r
    else s.park cid v.entry r

/-- VISIT_CHAIN_LEG (07 R151, R155): a chain whose results are written leaves for its next home; the POSTs a clause kept for its end
perform, one stop of the oldest at a time. -/
def execVisitChainLeg (cid : Nat) (s : State) : Out :=
  match s.ctx? cid with
  | none => .next s
  | some c =>
    let free := c.depart.isNone && c.split.isEmpty && c.parked.isNone && (c.place = .active || c.place = .pending) &&
      (c.stop.isNone || c.step.isSome) && !(s.accs.any fun a => a.ctx = cid)
    if !free then .next s else
    match c.chain with
    | h :: _ =>
      if c.atHome h then .next s
      else .next ((s.setCtx cid { c with depart := some ⟨.chain, c.chainEntry, h.1, h.2⟩ }).swapOut cid 3)
    | [] =>
      match c.visits with
      | [] => .next s
      | v :: _ => if (c.path v.entry).atEdge && v.held.isNone then .next (s.visitStep cid c v) else .next s

/-! ## Joins (07 R152, 13 R294) -/

/-- JOIN (13 R294): a part waits at its boundary; a group that is no part goes on, after migrating to its base core where it stands
elsewhere. -/
def execJoin (k : BitVec 4) (s : State) : Out :=
  withIssuer s fun e =>
    if s.acquiring e.cid then e.hold 2
    else if e.c.splitPart then
      (s.setCtx e.cid (e.c.advanceTo e.e 1 e.now none (.join k.toNat))).rest e.cid 5
    else if e.c.gc = e.c.baseGc then e.finish e.c 1
    else if e.c.leaving.isSome then e.hold 3
    else
      let c := e.c.advance e.e 1 e.now none
      (s.setCtx e.cid { c with depart := some ⟨.join, e.e, gsOf c.baseGc, some c.baseGc⟩, stall := 3 }).swapOut e.cid 3

/-- Key of a join record: the team's record of nb, for the group. -/
def joinKey (nb gidx : Nat) : Nat := nb * 64 + gidx

/-- The entries of a map of registers, predicates or lanes that belong to the lanes of a part. -/
def pickLanes {α : Type} (lanes : Mask) (m : Map α) : Map α := m.filter fun kv => lanes.getLsbD (kv.1 % 64)

/-- Put the entries of one map over another. -/
def overlay {α : Type} (m extra : Map α) : Map α := extra.foldl (fun m kv => mput m kv.1 kv.2) m

/-- Lanes of a mask that a part holds, laid over another mask. -/
def mergeMask (lanes a b : Mask) : Mask := (a &&& ~~~lanes) ||| (b &&& lanes)

/-- Lay one part over another (07 Table 7-3): `c` gives the header. -/
def Ctx.absorb (c d : Ctx) : Ctx :=
  let ls := d.lanes
  let preds := (List.range 8).foldl (fun m k => mset m k (mergeMask ls (mget m k 0) (mget d.preds k 0)) 0) c.preds
  { c with
    live := c.live ||| d.live
    vregs := overlay (c.vregs.filter fun kv => !ls.getLsbD (kv.1 % 64)) (pickLanes ls d.vregs)
    dead := overlay (c.dead.filter fun kv => !ls.getLsbD (kv.1 % 64)) (pickLanes ls d.dead)
    preds := preds
    fstat := overlay (c.fstat.filter fun kv => !ls.getLsbD (kv.1 % 64)) (pickLanes ls d.fstat)
    rstack := overlay (c.rstack.filter fun kv => !ls.getLsbD (kv.1 % 64)) (pickLanes ls d.rstack)
    lastArr := overlay c.lastArr (pickLanes ls d.lastArr)
    slotFlags := c.slotFlags ++ d.slotFlags
    lanes := c.lanes ||| ls
    scnt := if c.scnt.toNat < d.scnt.toNat then d.scnt else c.scnt
    anchor := c.anchor + d.anchor
    err42 := c.err42 || d.err42
    lost := c.lost || d.lost }

/-- Free a part of its wait at the join. -/
def Ctx.leaveJoin (c : Ctx) : Ctx := { c with paths := c.paths.map fun p => { p with wait := .none } }

/-- Add a path to a list of paths standing at headers: into one at the same header, a free entry, or beyond the eight under HOLD (07 R152, which
gives such lanes no entry: log 99, DESIGN CHOICE). -/
def addPath (now : Nat) (ps : List Path) (p : Path) : List Path :=
  match ps.findIdx? fun q => canMerge q p with
  | some i => ps.set i { ps.getD i freePath with mask := (ps.getD i freePath).mask ||| p.mask }
  | none =>
    match ps.findIdx? fun q => !q.v with
    | some i => ps.set i p
    | none => ps ++ [{ p with hold := true, kind := .ninth, since := now }]

/-- Merge the parts that stand at a join, in part order (07 R152, Table 7-3). -/
def State.mergeParts (s : State) (cid : Nat) (c : Ctx) (others : List (Nat × Ctx)) : State :=
  let now := s.now c.gc
  let base := (c.dropDead false).leaveJoin
  let all := others.foldl (fun b kd => b.absorb (kd.2.dropDead false)) base
  let paths := others.foldl (fun ps kd => (kd.2.leaveJoin.paths.filter (·.v)).foldl (addPath now) ps) base.paths
  let gone := others.map (·.1)
  let (h, s) := s.fresh
  let m := { all with
        paths := paths
        joinedAt := h
        splitPart := false
        part := 0
        nparts := 1
        leaderPath := match all.leader with
          | some l => (paths.findIdx? fun (p : Path) => p.v && p.mask.getLsbD l).getD all.leaderPath
          | none => 0
        stall := 15 }
  let m := if m.err42 then m.setErr42 else m
  let entryOf (k e : Nat) : Nat :=
    let mask := (((others.find? fun kd => kd.1 = k).map fun kd => (kd.2.path e).mask).getD 0)
    (paths.findIdx? fun (p : Path) => p.v && p.mask &&& mask ≠ 0).getD 0
  let retarget (u : UnitId) : UnitId := match u with
    | .group k => if gone.contains k then .group cid else u
    | .path k e => if gone.contains k then .path cid (entryOf k e) else u
    | _ => u
  let s : State := { s with
        ctxs := gone.foldl (fun m k => mdel m k) s.ctxs
        cmds := s.cmds.map fun x =>
          if !x.waiters.contains cid && !(gone.any x.waiters.contains) then x else
          let now (k : Nat) : Nat := if gone.contains k then cid else k
          let y := { x with ctx := now x.ctx, kind := x.kind.mapCtx now, also := [] }
          { y with also := (x.also.filter fun a => !gone.contains a && a ≠ cid && !y.waiters.contains a) ++
              (if y.waiters.contains cid then [] else [cid]) }
        stops := s.stops.map fun m => { m with target := retarget m.target }
        reports := s.reports.map fun r => if (r.receiver.map gone.contains).getD false then { r with receiver := some cid } else r }
  s.setCtx cid m.fixExt.settle

/-- JOIN_ARRIVAL (07 R152, 08 R169, 13 R294): a part whose paths all stand at JOIN nb goes to the base core, is counted there once its
accesses have performed and its slots are zero, and with the last lane the parts merge. -/
def execJoinArrival (cid : Nat) (s : State) : Out :=
  match s.ctx? cid with
  | none => .next s
  | some c =>
    match (c.path c.firstPath).wait with
    | .join nb =>
      let ready := c.splitPart && (c.place = .active || c.place = .pending) && c.stop.isNone && c.depart.isNone && c.visits.isEmpty &&
        (c.validPaths.all fun e => (c.path e).wait = .join nb && !(c.path e).stopped) && !(s.accs.any fun a => a.ctx = cid) && c.slotsClear
      if !ready then .next s
      else if c.gc ≠ c.baseGc then
        .next ((s.setCtx cid { c with depart := some ⟨.join, c.firstPath, gsOf c.baseGc, some c.baseGc⟩ }).swapOut cid 3)
      else
        match s.team? c.team with
        | none => .next s
        | some t =>
          let key := joinKey nb c.gidx
          let there := addNew (mget t.joins key []) cid
          let lanes : Mask := there.foldl (fun m k => m ||| ((s.ctx? k).map (·.lanes)).getD 0) 0
          let s := s.setTeam c.team { t with joins := mput t.joins key there }
          let parts := there.filterMap fun k => (s.ctx? k).map fun d => (k, d)
          if s.groupLanes c.team c.gidx &&& ~~~lanes ≠ 0 || s.frozen c || !(parts.all fun x => x.2.residentOn c.baseGc) then
            .next (s.mirrorBar c.team nb)
          else
          let s := s.updTeam c.team fun t => { t with joins := mdel t.joins key }
          match leastBy (fun a b => decide (a.2.part ≤ b.2.part)) parts with
          | none => .next s
          | some (k, d) => .next (s.mergeParts k d (parts.filter fun x => x.1 ≠ k))
    | _ => .next s

end Sys2Proof.Machine
end

