-- ==== Sys2Proof/Machine/Channel.lean ====
section
/-! DEFINITION. The channels between packages: flits and their check (05 R94), link recovery (R95-R98), training and incarnations (R99,
R100), lost peers (R101, Table 5-4; 15 R344), and mesh errors (R90). A channel is numbered 512 x package + 64 x plane + peer: the
package's end of the channels with that peer on that plane. -/

namespace Sys2Proof.Machine

/-! ## Flits (05 R94) -/

/-- One bit of the reflected CRC-32. -/
def crcBit (c : Nat) : Nat := if c % 2 = 1 then (c / 2) ^^^ 0xEDB88320 else c / 2

/-- One byte of the CRC-32. -/
def crcByte (c : Nat) (b : Byte) : Nat := crcBit (crcBit (crcBit (crcBit (crcBit (crcBit (crcBit (crcBit (c ^^^ b.toNat))))))))

/-- CRC-32 of a list of bytes (05 R94). -/
def crc32 (bs : List Byte) : Nat := (bs.foldl crcByte 0xFFFFFFFF) ^^^ 0xFFFFFFFF

/-- The header word of a flit of 72 bytes. -/
def flitHeader (f : BitVec 576) : Nat := f.toNat % 2 ^ 64

/-- The payload. -/
def flitPayload (f : BitVec 576) : Nat := f.toNat / 2 ^ 64

/-- CHECK of a kind (05 Table 5-1): the CRC of header bits [63:32] and the payload, with KPAT. -/
def flitCheck (top payload kind : Nat) : Nat := crc32 (bytesOf 4 top ++ bytesOf 64 payload) ^^^ (kind * 0x11111111)

/-- The kind of a good flit; none on a CRC error. -/
def flitKind (f : BitVec 576) : Option Nat :=
  (List.range 16).find? fun k => flitCheck (flitHeader f / 2 ^ 32) (flitPayload f) k = flitHeader f % 2 ^ 32

/-- Its fields. -/
def flitOf (f : BitVec 576) (kind : Nat) : Flit :=
  let h := flitHeader f
  ⟨bits h 52 12, bits h 36 16, bits h 32 4, kind, BitVec.ofNat 512 (flitPayload f), 0⟩

/-- The 72 bytes of a flit, as a number. -/
def Flit.word (f : Flit) : BitVec 576 :=
  let top := f.seq % 4096 * 2 ^ 20 + f.inc % 65536 * 2 ^ 4 + f.dstk % 16
  BitVec.ofNat 576 (f.payload.toNat * 2 ^ 64 + top * 2 ^ 32 + flitCheck top f.payload.toNat f.kind)

/-! ## Channel ends -/

def chPkg (ch : Nat) : Nat := ch / 512
def chPlane (ch : Nat) : Nat := ch % 512 / 64
def chPeer (ch : Nat) : Nat := ch % 64

def State.chan? (s : State) (ch : Nat) : Link := s.link (chPkg ch) (chPlane ch) (chPeer ch)
def State.setChan (s : State) (ch : Nat) (l : Link) : State := s.setLink (chPkg ch) (chPlane ch) (chPeer ch) l

/-- The clock of a channel end: that of its plane stack. -/
def State.chNow (s : State) (ch : Nat) : Nat := s.stkNow (planeStack (chPkg ch) (chPlane ch))

/-- Add one to a plane's counter. -/
def bumpPlane (m : Map Nat) (ch : Nat) : Map Nat := mset m (chPlane ch) (mget m (chPlane ch) 0 + 1) 0

/-- Send an ACK, a NAK or a training flit (05 Table 5-2): the first two name the last flit received in order; the payload is a free value
(log 2, DESIGN CHOICE). -/
def State.sendControl (s : State) (ch kind : Nat) : State :=
  let (v, s) := s.free
  let l := s.chan? ch
  let f : Flit := ⟨if kind = 8 then 0 else (l.expect + 4095) % 4096, (s.pkg (chPkg ch)).inc, 0, kind, BitVec.ofNat 512 v, 0⟩
  s.setChan ch { l with out := l.out ++ [f] }

/-- Send a NAK unless one is outstanding; a switch stalls the channel (05 R98). -/
def State.sendNak (s : State) (ch : Nat) : State :=
  let l := s.chan? ch
  if l.nakOut || l.switching then s else (s.setChan ch { l with nakOut := true }).sendControl ch 7

/-- Put held flits on the fibre again: a replay started (05 R95); none while a switch stalls the channel (05 R98). -/
def State.startReplay (s : State) (ch : Nat) (fs : List Flit) : State :=
  let l := s.chan? ch
  if l.switching then s else
  (s.setChan ch { l with
    out := l.out ++ fs
    replays := l.replays + 1
    lastHeard := s.chNow ch }).updPkg (chPkg ch) fun k => { k with replays := bumpPlane k.replays ch }

/-- Held flits after the one numbered `n`; none where it is not held. -/
def afterSeq (n : Nat) : List Flit → Option (List Flit)
  | [] => none
  | f :: fs => if f.seq = n then some fs else afterSeq n fs

/-- An ACK frees the flits it covers, and those that waited for room go; a NAK replays from the flit after the one it names, which shows a new
delivery where the last NAK named another (05 R98); naming a flit not held either is ignored. A training flit changes nothing here. -/
def State.control (s : State) (ch : Nat) (f : Flit) : State :=
  let l := s.chan? ch
  match afterSeq f.seq l.retry with
  | none => s
  | some rest =>
    if f.kind = 6 then s.setChan ch (Link.pump { l with
      retry := rest
      replays := 0
      nakSeq := none
      lastHeard := s.chNow ch })
    else if f.kind = 7 then
      (s.setChan ch { l with
        replays := if l.nakSeq = some f.seq then l.replays else 0
        nakSeq := some f.seq }).startReplay ch rest
    else s

/-- The other end of a channel. -/
def chBack (ch : Nat) : Nat := 512 * chPeer ch + 64 * chPlane ch + chPkg ch

/-- The message a flit that arrives belongs to, as its sender holds it. -/
def State.tagOf (s : State) (ch : Nat) (f : Flit) : Nat := (((s.chan? (chBack ch)).retry.find? fun x => x.seq = f.seq).map (·.tag)).getD 0

/-- An offer has come to a package: it stands behind those that came before it (07 R145). -/
def State.offerCame (s : State) (pkg tag : Nat) : State :=
  let put (kk : Nat × Stack) : Nat × Stack :=
    if pkgOf kk.1 ≠ pkg || !(kk.2.offers.any fun o => o.2 = tag) then kk else
    let others := kk.2.offers.filter fun o => o.2 ≠ tag
    let came (o : Nat × Nat) : Bool := s.handed o.1 kk.1 o.2 1
    (kk.1, { kk.2 with offers := others.filter came ++ (kk.2.offers.filter fun o => o.2 = tag) ++ others.filter fun o => !came o })
  { s with stks := s.stks.map put }

/-- A flit is handed over (05 R92): its message counts it; a reply to a tile request is taken at once. -/
def State.handOver (s : State) (pkg : Nat) (f : Flit) : State :=
  if f.tag = 0 then s
  else if f.kind = 3 && s.cmds.any fun c => c.sectors.any fun x => (x.reply.map (·.1)) = some f.tag then s.tileReplied f.tag
  else (s.updPkg pkg fun k => { k with got := mset k.got f.tag (mget k.got f.tag 0 + 1) 0 }).offerCame pkg f.tag

/-- A sequenced flit of the right incarnation: delivered, a duplicate, or ahead of a gap (05 R95). -/
def State.sequenced (s : State) (ch : Nat) (f : Flit) : State :=
  let l := s.chan? ch
  if f.seq = l.expect then
    let f := { f with tag := s.tagOf ch f }
    ((s.setChan ch { l with
      expect := (l.expect + 1) % 4096
      nakOut := false
      sinceAck := l.sinceAck + 1
      deliveredAt := if l.sinceAck = 0 then s.chNow ch else l.deliveredAt }).updPkg (chPkg ch) fun k =>
        { k with delivered := k.delivered ++ [(ch, f)] }).handOver (chPkg ch) f
  else if (l.expect + 4096 - f.seq) % 4096 ≤ 2048 then s.updPkg (chPkg ch) fun k => { k with dup := bumpPlane k.dup ch }
  else s.sendNak ch

/-- Have both ends of a channel been through the same training, so that it accepts sequenced flits (05 R99)? -/
def State.exchanged (s : State) (ch : Nat) : Bool := (s.chan? ch).trained && (s.chan? ch).round = (s.chan? (chBack ch)).round

/-- CHANNEL_FLIT_RECEIVE (05 R94, R95, Table 5-2): in the order of R95's receiver. -/
def execChannelFlitReceive (ch : Nat) (flit : BitVec 576) (s : State) : Out :=
  let pkg := chPkg ch
  match flitKind flit with
  | none => .next ((s.updPkg pkg fun k => { k with crcerr := bumpPlane k.crcerr ch }).sendNak ch)
  | some kind =>
    let f := flitOf flit kind
    if f.inc ≠ s.pinc pkg (chPeer ch) then .next (s.updPkg pkg fun k => { k with stale := k.stale + 1 })
    else if 9 ≤ kind then .next (s.updPkg pkg fun k => { k with badkind := bumpPlane k.badkind ch })
    else if 6 ≤ kind then .next (s.control ch f)
    else if !s.exchanged ch then .next s
    else .next (s.sequenced ch f)

/-- ACK_SEND_TIMER (05 R95): 32 flits delivered, or 64 cycles since the first not yet acknowledged. -/
def execAckSendTimer (ch : Nat) (s : State) : Out :=
  let l := s.chan? ch
  if l.sinceAck ≠ 0 && !l.switching && (decide (32 ≤ l.sinceAck) || decide (64 ≤ s.chNow ch - l.deliveredAt)) then
    .next ((s.setChan ch { l with sinceAck := 0 }).sendControl ch 6)
  else .next s

/-- REPLAY_TIMEOUT (05 R95). -/
def execReplayTimeout (ch : Nat) (s : State) : Out :=
  let l := s.chan? ch
  if l.up && !l.switching && !l.retry.isEmpty && decide (4096 ≤ s.chNow ch - l.lastHeard) then .next (s.startReplay ch l.retry) else .next s

/-- SPARE_SWITCH (05 R98): sixteen replays without a new delivery; on the spare the channel goes into training. -/
def execSpareSwitch (ch : Nat) (s : State) : Out :=
  let l := s.chan? ch
  if !l.up || l.switching || l.training || l.replays < 16 then .next s
  else .next (s.setChan ch (if l.spare then { l with training := true } else { l with switching := true }))

/-- SPARE_SWITCH_END (05 R98): the held flits are replayed on the spare. -/
def execSpareSwitchEnd (ch : Nat) (s : State) : Out :=
  let l := s.chan? ch
  if !l.switching then .next s
  else
    let s := s.setChan ch { l with
      switching := false
      spare := true }
    let s := if l.retry.isEmpty then s else s.startReplay ch l.retry
    .next (s.setChan ch (Link.pump { s.chan? ch with replays := 0 }))

/-! ## Lost peers (05 R101, Table 5-4) -/

/-- Does a stack send on a plane that is lost: any, or the one named (05 R98)? -/
def onPlane (plane : Option Nat) (gs : Nat) : Bool :=
  match plane with
  | some p => planeOf gs = p
  | none => true

/-- A context comes back to its source, on the core whose windows it kept, with fault 0x43. -/
def State.returnContext (s : State) (cid : Nat) (c : Ctx) (flits : Nat) : State :=
  let gs := gsOf c.gc
  let d := c.depart.getD ⟨.access, c.firstPath, gs, none⟩
  let s := s.giveCredit gs d.gs flits
  let s := s.updCore c.gc fun k => { k with leaving := k.leaving.filter fun l => l.1 ≠ cid }
  let s := s.updStk gs fun k => { k with
    fwd := k.fwd.filter fun f => !(f.team = c.team && f.gidx = c.gidx && f.part = c.part && f.splitGen = c.splitGen) }
  let s := s.setCtx cid { c with
        place := .pending
        slotNo := s.freePlace c.gc
        stall := 15 }
  s.unreachable cid d

/-- A sector of a tile transfer whose peer is lost: it parks with cause 0x42, what it had captured kept, what it had read not. -/
def State.loseSector (s : State) (cmd i : Nat) : State :=
  match s.cmd? cmd with
  | none => s
  | some c =>
    match c.sectors[i]? with
    | none => s
    | some x =>
      let m : Miss := (0x42, 7)
      let write := x.pieces.isEmpty
      let first := (x.parts.head?.map (·.2.1)).getD x.dst
      let y := { x with
        st := if write then .read else .waiting
        data := if write then x.data else []
        reply := none
        probed := none
        refs := [] }
      let c' := c.setSector i y
      let s := s.setCmd c'
      match c.kind with
      | .copy _ => if write then s.parkSector c' i y 0x60 6 (x.dst + x.cover.1) m else s.parkSector c' i y 0x60 5 first m
      | .mst k .. => (s.parkSector c' i y 0x62 8 ((mstPlace k x.dst).2 + x.cover.1) m).freeCapture cmd
      | .mloop _ _ _ parts =>
        match parts.find? fun p => p.q = x.dst / 2 % 4 with
        | none => s
        | some p =>
          if !y.queued && s.queueFull c.gc then s else
          let (r, s) := s.reportElem (c'.as p) p.gidx 0x61 0x42 7 7 p.q first (x.dst / 8)
          s.setCmd ((c'.as p).setSector i (y.park 0x42 r))
      | _ => s.setCmd (c.setSector i { y with st := .done })

/-- A message on its way to a lost peer completes; a post may still perform there, and no reply is owed for it. -/
def State.loseMsg (s : State) (pkg : Nat) (m : Msg) : State :=
  let gone : State := { s with chan := s.chan.filter fun x => x.id ≠ m.id }
  match m.body with
  | .post p =>
    if m.lost then s else
    let (i, s) := s.fresh
    ({ s with
      chan := s.chan.map fun x => if x.id = m.id then { x with lost := true } else x
      acks := s.acks ++ [⟨i, m.src, p.team, p.gidx, p.part, p.splitGen, m.src, true, false⟩] } : State).countLost pkg
  | .context cid flits => match gone.ctx? cid with
    | some c => gone.returnContext cid c flits
    | none => gone
  | .tileRead cmd is | .tileWrite cmd is =>
    let mine (i : Nat) : Bool := ((s.cmd? cmd).map fun c => !(c.sentSectors m.id [i]).isEmpty).getD false
    (is.filter mine).foldl (fun s i => s.loseSector cmd i) gone
  | .dump id _ => gone.loseDump id
  | .hostWrite _ _ _ queue =>
    let t := gone.countLost pkg
    match queue with
    | some (q, v) => t.signalled (pkgOf m.src) q v
    | none => t

/-- Is an acknowledgement only routed through a peer: its group stands in another package (07 R154)? -/
def State.routedThrough (s : State) (peer : Nat) (a : Ack) : Bool :=
  ((s.ownerOf a.team a.gidx a.part a.splitGen).map fun kc => decide (pkgOf (gsOf kc.2.gc) ≠ peer)).getD false

/-- Does the loss of a peer count an acknowledgement's post as lost: it comes from there, or is routed through there (05 Table 5-4, 07 R154)? -/
def State.ackLost (s : State) (pkg peer : Nat) (plane : Option Nat) (a : Ack) : Bool :=
  !a.lost && ((pkgOf a.src = peer && pkgOf a.dest = pkg && onPlane plane a.dest) ||
    (pkgOf a.src = pkg && pkgOf a.dest = peer && onPlane plane a.src && s.routedThrough peer a))

/-- A reply from a lost peer, or routed through it, counts its post as lost; one owed to a group there is discarded (05 Table 5-4). -/
def State.loseAck (s : State) (pkg peer : Nat) (plane : Option Nat) (a : Ack) : Ack :=
  if s.ackLost pkg peer plane a then { a with
    lost := true
    dropped := false
    src := a.dest }
  else if pkgOf a.src = pkg && pkgOf a.dest = peer && onPlane plane a.src && !a.lost then { a with dropped := true }
  else a

/-- A landing at a lost peer whose acknowledgement has not arrived: the context is the source's copy again. -/
def State.loseLanding (s : State) (a : LandAck) : State :=
  let s : State := { s with landAcks := s.landAcks.filter fun x => x.id ≠ a.id }
  match s.ctx? a.ctx with
  | none => s.updCore a.srcGc fun k => { k with leaving := k.leaving.filter fun l => l.1 ≠ a.ctx }
  | some _ =>
    let landed := (s.stk a.src).landing.any fun l => l.1 = a.ctx
    let s := s.updStk a.src fun k => { k with landing := k.landing.filter fun l => l.1 ≠ a.ctx }
    let s : State := { s with
          accs := s.accs.filter fun x => x.ctx ≠ a.ctx
          joinks := s.joinks.filter fun j => j.ctx ≠ a.ctx }
    s.returnContext a.ctx a.copy (if landed then a.copy.flits else 0)

/-- A context that had landed at a lost peer is reported lost to its launch (15 R344), which may kill its sibling teams (14 R318); where the
peer was reset nothing is left of it, and its private window is free (17 R380). -/
def State.reportLost (s : State) (cid : Nat) (c : Ctx) : State :=
  let gs := gsOf c.baseGc
  let finfo := (s.stk gs).flogAddr gs
  let (ev, s) := s.fresh
  let r := { groupRec s c c.firstPath 0x44 with
        pc := 0
        lanes := c.lanes }
  let s := ((s.flog gs r).report c.launch 0x44 finfo).killSiblings c.launch c.team
  let s := if s.isAgent c.launch then s else s.raiseLine gs c.pslot 0x44 ev []
  if c.alive then s
  else (s.updStk (gsOf c.birthGc) fun k => { k with privUsed := k.privUsed.filter fun w => w.1 ≠ c.groupKey }).dropCtx cid

/-- Is a context one of a launch of `pkg` that stands at the peer? -/
def State.lostThere (s : State) (pkg peer : Nat) (c : Ctx) : Bool :=
  pkgOf (gsOf c.gc) = peer && c.place ≠ .moving && ((s.launch? c.launch).map (·.pkg)) = some pkg

/-- Plane a message left on: its source's, or the one in turn of a striped tile (05 R92, R102). -/
def State.msgPlane (s : State) (m : Msg) : Nat :=
  match m.body with
  | .tileRead k is | .tileWrite k is => match s.cmd? k with
    | some c => s.tilePlane c (is.headD 0) m.dst
    | none => planeOf m.src
  | _ => planeOf m.src

/-- Replies to tile requests that a lost peer still owes, or whose home is pinned to the lost plane. -/
def State.lostReplies (s : State) (pkg peer : Nat) (plane : Option Nat) : List (Nat × Nat) :=
  s.cmds.flatMap fun c => if pkgOf (gsOf c.gc) ≠ pkg then [] else c.sectors.zipIdx.filterMap fun (x, i) => match x.reply with
    | some (_, h) => if pkgOf h = peer && onPlane plane h then some (c.id, i) else none
    | none => none

/-- Complete the operations outstanding to a lost peer, or those of the sources pinned to one plane (05 R98, R100, R101, Table 5-4). -/
def State.peerLost (s : State) (pkg peer : Nat) (plane : Option Nat) : State :=
  let msgs := s.chan.filter fun m => pkgOf m.src = pkg && pkgOf m.dst = peer && (plane.isNone || plane = some (s.msgPlane m))
  let s := msgs.foldl (fun s m => s.loseMsg pkg m) s
  let s := (s.lostReplies pkg peer plane).foldl (fun s k => s.loseSector k.1 k.2) s
  let n := (s.acks.filter (s.ackLost pkg peer plane)).length
  let s := { s with acks := s.acks.map (s.loseAck pkg peer plane) }.updPkg pkg fun k => { k with lostp := k.lostp + n }
  let lands := s.landAcks.filter fun a => pkgOf (gsOf a.srcGc) = pkg && pkgOf a.src = peer && onPlane plane (gsOf a.srcGc)
  let s := lands.foldl (fun s a => s.loseLanding a) s
  match plane with
  | some _ => s
  | none => ((s.ctxs.filter fun kc => s.lostThere pkg peer kc.2)).foldl (fun s kc => s.reportLost kc.1 kc.2) s

/-- Apply a change to every channel of a package to a peer. -/
def State.eachLink (s : State) (pkg peer : Nat) (f : Link → Link) : State :=
  (List.range 8).foldl (fun s p => s.setLink pkg p peer (f (s.link pkg p peer))) s

/-- LOSS_OF_LIGHT (05 R101). -/
def execLossOfLight (ch : Nat) (s : State) : Out := .next (s.setChan ch { s.chan? ch with up := false, dark := true })

/-- PEER_DOWN (05 R101): after a loss of light, every channel to the peer is down and its operations complete. -/
def execPeerDown (pkg peer : Nat) (s : State) : Out :=
  if (List.range 8).any fun p => (s.link pkg p peer).trained && (s.link pkg p peer).dark then
    .next ((s.eachLink pkg peer fun l => { l with up := false, dark := false, training := false }).peerLost pkg peer none)
  else .next s

/-! ## Training (05 R98-R101) -/

/-- What the receiver of a channel end expected when this training began: before its own part of the round, or as it did then. -/
def resumeAt (own other : Link) : Nat := if other.round = own.round + 1 then other.prev else other.expect

/-- Flits of a retry buffer that the receiver has not had: those from the one it expects on (05 R96). -/
def unheard (expect : Nat) (fs : List Flit) : List Flit := (afterSeq ((expect + 4095) % 4096) fs).getD fs

/-- A channel end just trained: sequence numbers from 0 in both directions, held flits the other end has not had sent again (05 R96, R99,
R101). -/
def Link.train (l other : Link) (now : Nat) : Link :=
  let held := renumber 0 (unheard (resumeAt l other) l.retry)
  Link.pump { l with
    trained := true
    up := true
    switching := false
    dark := false
    training := false
    round := l.round + 1
    prev := l.expect
    expect := 0
    nakOut := false
    nakSeq := none
    nextSeq := held.length % 4096
    retry := held
    replays := 0
    sinceAck := 0
    lastHeard := now
    out := l.out ++ held }

/-- Train one end of a channel, whose training flit goes out first (05 R99). -/
def State.trainEnd (s : State) (ch : Nat) : State :=
  let s := s.sendControl ch 8
  s.setChan ch ((s.chan? ch).train (s.chan? (chBack ch)) (s.chNow ch))

/-- Does a device train the plane of a channel: ready, and the plane has passed its loopback (17 R381, R382)? -/
def State.trains (s : State) (ch : Nat) : Bool :=
  (s.pkg (chPkg ch)).boot = .ready && !(s.pkg (chPkg ch)).planesBad.getLsbD (chPlane ch)

/-- RETRAIN (05 R98): the spare fails too; both ends train, or the channel is down for the sources pinned to its plane. -/
def execRetrain (ch : Nat) (ok : Bool) (s : State) : Out :=
  let l := s.chan? ch
  if !l.training then .next s
  else if ok && s.trains ch && s.trains (chBack ch) then .next ((s.trainEnd ch).trainEnd (chBack ch))
  else
    let s := s.peerLost (chPkg ch) (chPeer ch) (some (chPlane ch))
    .next (s.setChan ch { s.chan? ch with up := false, training := false })

/-- A peer that trains with a count other than the one recorded (05 R100): the retry buffers are discarded, and with them what had not been
handed over. -/
def State.newPeer (s : State) (pkg peer inc : Nat) : State :=
  let s := s.eachLink pkg peer fun l => { Link.reset with out := l.out }
  let s := s.peerLost pkg peer none
  let s : State := { s with chan := s.chan.filter fun m => !(pkgOf m.src = pkg && pkgOf m.dst = peer) }
  s.updPkg pkg fun k => { k with peers := mput k.peers peer ⟨inc, true⟩ }

/-- TRAINING (05 R99, R100): a device that is ready trains its good planes (17 R381, R382). The first count recorded of a
peer differs from none, and sets no REINC (log 93, DESIGN CHOICE). -/
def execTraining (ch inc : Nat) (s : State) : Out :=
  let pkg := chPkg ch
  let peer := chPeer ch
  if !s.trains ch || pkg = peer || 64 ≤ pkg || inc = 0 || 65536 ≤ inc then .next s
  else
    let old := s.pinc pkg peer
    let s := if old = inc then s
      else if old = 0 then s.updPkg pkg fun k => { k with peers := mput k.peers peer ⟨inc, false⟩ }
      else s.newPeer pkg peer inc
    .next (s.trainEnd ch)

/-! ## Mesh errors (05 R90) -/

/-- Process slots of the partitions with a stack on a package (log 16, DEDUCED). -/
def State.slotsOn (s : State) (pkg : Nat) : List Nat :=
  (List.range 16).filter fun p => (s.partStacks p).any fun gs => pkgOf gs = pkg

/-- MESH_UNCORRECTABLE (05 R90): fatal 0x41 of the owner's partition, or of every partition with a stack on the package. -/
def execMeshUncorrectable (pkg : Nat) (owner : Option Nat) (s : State) : Out :=
  let (ev, s) := s.fresh
  let slots := match owner with
    | some p => [p]
    | none => s.slotsOn pkg
  .next (slots.foldl (fun s p => s.raiseLine (16 * pkg) p 0x41 ev []) s)

end Sys2Proof.Machine
end

