-- ==== Sys2Proof/Machine/Image.lean ====
section
/-! DEFINITION. The latch block and an image read back (13 R307), and the bytes of save and dump images (15 R341, 16 R370). -/

namespace Sys2Proof.Machine

/-- The context with every allocated window live. -/
def Ctx.allLive (c : Ctx) : Ctx := { c with live := BitVec.ofNat 8 (2 ^ c.walloc - 1) }

/-- Does the group stand inside a clause (13 R307, 15 R340)? -/
def Ctx.inClause (c : Ctx) : Bool := c.validPaths.any c.inside

/-- The latch block (13 R307): rows L1 to L8, 8 bytes per lane, each lane's latches those of its path. -/
def Ctx.latchBytes (c : Ctx) : List Byte :=
  (List.range 8).flatMap fun k => (List.range c.width).flatMap fun l =>
    bytesOf 8 (match c.validPaths.find? fun e => (c.path e).mask.getLsbD l with
      | none => 0
      | some e => match (c.path e).latches.getD k none with
        | some t => t.read l
        | none => 0)

/-! ## Reading an image back (13 R307) -/

/-- A number of an image. -/
def imgNum (bs : List Byte) (off n : Nat) : Nat := ofBytes ((bs.drop off).take n)

/-- Path entry of an image: valid, hold, offset, mask. -/
def imgPath (bs : List Byte) (i : Nat) : Bool × Bool × Nat × Mask :=
  let w := imgNum bs (0x40 + 12 * i) 4
  (nbit w 0, nbit w 1, w / 4 * 4, BitVec.ofNat 64 (imgNum bs (0x44 + 12 * i) 8))

/-- LIVE of an image. -/
def imgLive (bs : List Byte) : Nat := imgNum bs 0 1

/-- Is an image invalid for a group (13 R307)? Bit 1 of a path word is HOLD, so every offset it can hold is word-aligned. -/
def imgBad (c : Ctx) (bs : List Byte) : Bool :=
  let ps := ((List.range 8).map (imgPath bs)).filter (·.1)
  let masks := ps.map (·.2.2.2)
  let outside := masks.any fun m => m &&& ~~~c.lanes ≠ 0
  let overlap := (masks.foldl (fun (acc : Mask × Bool) m => (acc.1 ||| m, acc.2 || (acc.1 &&& m) ≠ 0)) (0, false)).2
  let moved := (List.range 8).any fun i =>
    let p := c.path i
    c.inside i && imgPath bs i ≠ (true, p.hold, p.pc / 4 * 4, p.mask)
  outside || overlap || moved || 2 ^ c.walloc ≤ imgLive bs

/-- One path of a written table: a mid-clause path stays, another stands at its header. A HOLD that was not there is a loop hold at the end of
a level's body, else a join hold (13 R281; log 87, DEDUCED). -/
def imgSetPath (c : Ctx) (bs : List Byte) (levels : List LoopLevel) (now i : Nat) : Path :=
  let p := c.path i
  let (v, hold, pc, mask) := imgPath bs i
  if c.inside i then p
  else if !v then freePath
  else { p.unfetch with
    v := true
    pc := pc
    hold := hold
    kind := if !hold then .none else if p.v && p.hold && p.unfetch.pc = pc then p.kind else if levels.any (fun l => l.fin = pc) then .loop else .join
    since := if p.hold = hold then p.since else now
    mask := mask
    wait := if p.v && p.pc = pc then p.wait else .none }

/-- Windows of an image in ascending order, with their place in it. -/
def imgWindows (bs : List Byte) : List (Nat × Nat) := ((List.range 8).filter fun w => nbit (imgLive bs) w).zipIdx

/-- A number with 0 where the register holds its reset value. -/
def imgMap {w : Nat} (n first width : Nat) (f : Nat → Nat) : Map (BitVec w) :=
  (List.range n).foldl (fun m k => mset m (k + first) (BitVec.ofNat w (f (k * width))) 0) []

/-- The registers of the loop levels of an image, LEN and LC from it and START where `start` gives it. -/
def imgLevels (bs : List Byte) (start : Nat → Nat) : List LoopLevel :=
  (List.range 3).map fun i => ⟨imgNum bs (0x1A4 + 8 * i) 4, start i, bits (imgNum bs 0x1A0 4) (2 + 8 * i) 8⟩

/-- WRCTX's fields of an image written into a group (13 R307). -/
def Ctx.writeImage (c : Ctx) (bs : List Byte) (now : Nat) : Ctx :=
  let c := (imgWindows bs).foldl (fun c wi =>
    (List.range 8).foldl (fun c j => (lanesOf c.lanes).foldl (fun c l =>
      c.setV (8 * wi.1 + j) l (imgNum bs (512 + wi.2 * 32 * c.width + (j * c.width + l) * 4) 4)) c) c) c
  let modes := imgNum bs 0x1BC 4
  let splitb := bits modes 2 5
  let depth := bits (imgNum bs 0x1A0 4) 0 2
  let levels := imgLevels bs fun i => ((c.loops ++ c.loopRegs).getD i ⟨0, 0, 0⟩).start
  let flags (l : Nat) : BitVec 7 := BitVec.ofNat 7 (((List.range 7).map fun f => b2n (nbit (imgNum bs (0x160 + 8 * f) 8) l) * 2 ^ f).foldl (· + ·) 0)
  { c with
    paths := (List.range 8).map (imgSetPath c bs (levels.take depth) now)
    sregs := imgMap 32 0 4 fun o => imgNum bs (0xE0 + o) 4
    preds := imgMap 7 1 8 fun o => imgNum bs (0xA0 + o) 8
    fstat := (lanesOf c.lanes).foldl (fun m l => mset m l (flags l) 0) c.fstat
    loops := levels.take depth
    loopRegs := levels.drop depth
    region := imgMap 8 0 2 fun o => imgNum bs (0x1D0 + o) 2
    rdepth := bits (imgNum bs 0x1C8 4) 0 8
    seed := BitVec.ofNat 32 (imgNum bs 0x1C0 4)
    ftz := nbit modes 0
    visit := nbit modes 1
    splitB := if splitb = 0 || 16 < splitb then c.splitB else splitb }

/-- Return stacks of an image (07 R140), of the lanes a context holds. -/
def imgStacks (c : Ctx) (bs : List Byte) : Map (List Word) :=
  let d := bits (imgNum bs 0 8) 14 7
  let at_ := 512 + (imgWindows bs).length * 32 * c.width
  if d = 0 then []
  else (lanesOf c.lanes).foldl (fun m l =>
    mset m l ((List.range (imgNum bs (at_ + l) 1)).map fun e => BitVec.ofNat 32 (imgNum bs (at_ + 64 + (e * c.width + l) * 4) 4)) []) []

/-- Latches of a path as the latch block at `off` has them (13 R307). -/
def imgLatches (c : Ctx) (bs : List Byte) (off i : Nat) : List (Option Latch) :=
  let p := c.path i
  (p.latches.zipIdx).map fun tk => tk.1.map fun t =>
    let val (l : Nat) : BitVec 64 := BitVec.ofNat 64 (imgNum bs (off + (tk.2 * c.width + l) * 8) 8)
    { t with vals := if t.scalar then mset [] 0 (val (lowLane p.mask)) 0 else (lanesOf p.mask).foldl (fun m l => mset m l (val l) 0) [] }

/-- A context as its image has it when a restore reads it back (15 R343): the header's fields, the windows, the return stacks, and the
latch block of a group that stood inside a clause. -/
def Ctx.readImage (c : Ctx) (bs : List Byte) (now : Nat) : Ctx :=
  let shape := imgNum bs 0 8
  let depth := bits (imgNum bs 0x1A0 4) 0 2
  let levels := imgLevels bs fun i => imgNum bs (0x1A8 + 8 * i) 4
  let off := 512 + (imgWindows bs).length * 32 * c.width +
    (let d := bits shape 14 7; if d = 0 then 0 else (64 + 4 * d * c.width + 63) / 64 * 64)
  let leader := imgNum bs 0x3C 1 % 128
  let d := Ctx.writeImage { c with lanes := BitVec.ofNat 64 (imgNum bs 0xD8 8) } bs now
  let latched (i : Nat) : Path := if c.inside i then { d.path i with latches := imgLatches c bs off i } else d.path i
  { d with
    paths := if c.inClause then (List.range 8).map latched else d.paths
    live := if c.inClause then c.live else BitVec.ofNat 8 (imgLive bs)
    walloc := bits shape 10 4
    inHandler := nbit shape 29
    trap := imgNum bs 0x24 4
    codeBase := imgNum bs 0x28 8
    privBase := imgNum bs 0x30 8
    leader := if leader = 0x7F then none else some leader
    loops := levels.take depth
    loopRegs := levels.drop depth
    wslot := (List.range 8).foldl (fun m k => mset m k (imgNum bs (0x198 + k) 1) 0) []
    err42 := nbit (imgNum bs 0x1BC 4) 7
    scnt := BitVec.ofNat 32 (imgNum bs 0x1C4 4)
    anchor := imgNum bs 0x1CC 4
    fcause := BitVec.ofNat 32 (imgNum bs 0x1E0 4)
    fpc := BitVec.ofNat 32 (imgNum bs 0x1E4 4)
    faddr := BitVec.ofNat 64 (imgNum bs 0x1E8 8)
    flanes := BitVec.ofNat 64 (imgNum bs 0x1F0 8)
    dead := c.dead
    rstack := imgStacks c bs }

/-! ## Save and dump images (15 R341, 16 R370) -/

/-- Contexts of a team that an image may hold: every part of every group, in group and part order. -/
def State.teamCtxs (s : State) (tk : Nat) : List (Nat × Ctx) :=
  (List.range 64).flatMap fun g =>
    sortBy (fun (kc : Nat × Ctx) => [kc.2.part, kc.1]) (s.ctxs.filter fun kc => kc.2.team = tk && kc.2.gidx = g && kc.2.alive)

/-- A context as an image holds it: at a boundary with its LIVE, inside a clause with every window and its latches (15 R340). -/
def Ctx.saveBytes (s : State) (c : Ctx) : List Byte := if c.inClause then (c.allLive).imageList s ++ c.latchBytes else c.imageList s

/-- The next multiple of `k`. -/
def roundUp (n k : Nat) : Nat := (n + k - 1) / k * k

/-- Bytes padded with zeros to the next multiple of `k`. -/
def padTo (k : Nat) (bs : List Byte) : List Byte := bs ++ List.replicate (roundUp bs.length k - bs.length) 0

/-- Where contexts stand in an image whose Contexts section they fill one after another, 64-byte aligned: offset, size, context. -/
def placeCtxs (s : State) (off : Nat) : List (Nat × Ctx) → List (Nat × Nat × Ctx)
  | [] => []
  | (_, c) :: rest =>
    let n := (c.saveBytes s).length
    (off, n, c) :: placeCtxs s (off + roundUp n 64) rest

/-- Contexts of a group with lanes that have not exited. -/
def State.liveCtxs (s : State) (tk g : Nat) : List (Nat × Ctx) :=
  s.ctxs.filter fun kc => kc.2.team = tk && kc.2.gidx = g && kc.2.alive && kc.2.lanes ≠ 0

/-- The group a report goes to (15 R334): the issuing one while it has a lane, else the live group of lowest index, else none. -/
def State.reportGroup (s : State) (r : Report) : Option Nat :=
  if !(s.liveCtxs r.team r.gidx).isEmpty then some r.gidx
  else (List.range 64).find? fun g => !(s.liveCtxs r.team g).isEmpty

/-- Directory entry of a group: the run of its contexts, a split group's parts one after another (log 86, DESIGN CHOICE); REPORT
stands for one that is to go to this group (R334). -/
def dirEntry (s : State) (ds : List (Nat × Nat × Ctx)) (g : Nat) : List Byte :=
  match ds.filter fun d => d.2.2.gidx = g with
  | [] => bytesOf 16 0
  | d :: rest =>
    let off := rest.foldl (fun m x => min m x.1) d.1
    let fin := rest.foldl (fun m x => max m (x.1 + x.2.1)) (d.1 + d.2.1)
    let cs := (d :: rest).map (·.2.2)
    let report := s.reports.any fun r => r.team = d.2.2.team && r.receiver.isNone && s.reportGroup r = some g
    bytesOf 4 off ++ bytesOf 4 (fin - off) ++
      bytesOf 8 (1 + b2n (cs.any (·.parked.isSome)) * 2 + b2n report * 4 + b2n (cs.any Ctx.inClause) * 8)

/-- The directory. -/
def dirBytes (s : State) (ds : List (Nat × Nat × Ctx)) : List Byte := (List.range 64).flatMap (dirEntry s ds)

/-- Batches of a group (15 Table 15-6). -/
def Team.batchBytes (t : Team) (g : Nat) : List Byte :=
  (List.range 64).flatMap fun l =>
    let b := mget t.batches (batchKey g l) Batch.empty
    bytesOf 4 b.opn ++ bytesOf 4 b.last ++ bytesOf 4 b.done ++ bytesOf 4 0

/-- Does a command go on outside the image of its team: a started copy, and the debug agent's context copies (15 R342)? -/
def Cmd.goesOn (c : Cmd) : Bool :=
  c.kind.isCtxCopy || (c.started && match c.kind with
    | .copy _ => true
    | _ => false)

/-- Kind and body length of a command's record in the engine section (15 Table 15-6). -/
def Cmd.engineKind (c : Cmd) : Nat × Nat :=
  if !c.started then (1, 192)
  else match c.kind with
    | .mloop .. => (2, 128)
    | .mst .. => (3, 4160)
    | .vrrun .. => (5, 640)
    | _ => (1, 192)

/-- Records of the engine section: kind, group, length of the body. -/
def State.engineRecords (s : State) (tk : Nat) (t : Team) : List (Nat × Nat × Nat) :=
  let cs := s.cmds.filter fun c => c.team = tk
  ((cs.filter fun c => !c.goesOn).map fun c => (c.engineKind.1, c.gidx, c.engineKind.2)) ++
    t.vrcfg.map (fun kv => (4, kv.1, 576)) ++
    cs.flatMap fun c => List.replicate c.parkedCount (6, c.gidx, 96)

/-- The engine section: kind, group and length of each record in words of 4, 4 and 8 bytes, and a body of free values (log 21, DESIGN
CHOICE: the manual gives no layout of either). -/
def State.engineBytes (s : State) : List (Nat × Nat × Nat) → State × List Byte
  | [] => (s, [])
  | (kind, g, n) :: rest =>
    let (v, s) := s.free
    let (s, bs) := s.engineBytes rest
    (s, bytesOf 4 kind ++ bytesOf 4 g ++ bytesOf 8 n ++ bytesOf n v ++ bs)

/-- Is a line of a team's scratchpad absent where it stands? -/
def State.teamAbsent (s : State) (t : Team) (off : Nat) : Bool :=
  match s.imageOf t with
  | some i => s.imgAbsent i t (t.lineKey off)
  | none => mget s.absent (t.lineKey off) false

/-- Presence bitmap and lines of a team's scratchpad. -/
def State.scratchBytes (s : State) (t : Team) : List Byte :=
  let present (k : Nat) : Bool := decide (128 * k < t.scratch) && !s.teamAbsent t (128 * k)
  let bitmap := (List.range t.bitmapLen).map fun b => BitVec.ofNat 8 (((List.range 8).map fun j => b2n (present (8 * b + j)) * 2 ^ j).foldl (· + ·) 0)
  bitmap ++ s.teamBytes t 0 t.scratch

/-- Tiles and marks of a team's matrix slots. -/
def State.tileBytes (s : State) (t : Team) : List Byte :=
  t.mslots.flatMap fun m => (List.range 0x8000).flatMap (fun i => bytesOf 4 (mget (s.core m.1).tiles (m.2 * 0x20000 + 4 * i) 0).toNat) ++
    (List.range 32).flatMap fun k => bytesOf 1 (b2n (mget (s.core m.1).marks (m.2 * 0x20000 + k * 0x1000) false))

/-- Scale memory of the cores on which a slot is held. -/
def State.scaleBytesOf (s : State) (t : Team) : List Byte :=
  t.slotCores.flatMap fun gc => (List.range 0x8000).map fun i => mget (s.core gc).scale i 0

/-- Offsets of sections laid from `off` on, each on a 4 KiB boundary in its room; 0 for one without room. -/
def layRooms : Nat → List Nat → List Nat
  | _, [] => []
  | off, n :: rest => if n = 0 then 0 :: layRooms off rest else off :: layRooms (off + roundUp n 4096) rest

/-- The header of an image of KIND `kind` (15 Table 15-7), with offset and length of each section. -/
def State.imageHead (s : State) (t : Team) (kind : Nat) (secs : List (Nat × Nat)) : List Byte :=
  let lid := ((s.launch? t.launch).map (·.id)).getD 0
  let head := bytesOf 8 (kind + t.groups * 2 ^ 8 + t.mslots.length * 2 ^ 16) ++ bytesOf 4 lid ++ bytesOf 4 t.lin ++
    bytesOf 4 (coreNo t.baseGc + gsOf t.baseGc % 16 * 2 ^ 5) ++ bytesOf 4 t.scratch ++ secs.flatMap fun o => bytesOf 4 o.1 ++ bytesOf 4 o.2
  head ++ List.replicate (512 - head.length) 0

/-- Batches of a team, in group order. -/
def Team.allBatches (t : Team) : List Byte := (List.range t.groups).flatMap t.batchBytes

/-- The sections a whole-team image has beyond the first four. -/
def State.wholeSections (s : State) (tk : Nat) (t : Team) : State × List (List Byte) :=
  let (s, engine) := s.engineBytes (s.engineRecords tk t)
  (s, [(List.range 16).flatMap (s.barBytes tk t), engine, s.scratchBytes t, s.tileBytes t, s.scaleBytesOf t])

/-- A dump image of a team (16 R370), KIND `kind`: the contexts named, its sections as long as they are. Groups-only images hold the first
four sections. -/
def State.teamImage (s : State) (tk : Nat) (t : Team) (kind : Nat) (whole : Bool) (cs : List (Nat × Ctx)) : State × List Byte :=
  let ds := placeCtxs s 8192 cs
  let ctxBytes := cs.flatMap fun kc => padTo 64 (kc.2.saveBytes s)
  let dir := dirBytes s ds
  let (s, rest) := if whole then s.wholeSections tk t else (s, [[], [], [], [], []])
  let secs := [dir, ctxBytes, t.allBatches] ++ rest
  let offs := layRooms 4096 (secs.map (·.length))
  (s, padTo 4096 (s.imageHead t kind (offs.zip (secs.map (·.length)))) ++ (secs.filter fun b => !b.isEmpty).flatMap (padTo 4096))

/-! ## Room of a save image (15 R341) -/

/-- The greatest bytes of a group's context with a latch block, 64-byte aligned. -/
def greatestCtx (width : Nat) : Nat := roundUp (512 + 8 * 32 * width + roundUp (64 + 4 * 64 * width) 64 + 64 * width) 64

/-- The greatest bytes of the engine section: on each core 64 commands (09 R192), the longest record of which but a capture's is a value
run's snapshot, 16 capture entries (11 R262), 256 replay entries (15 R333), and each group's value-run record. -/
def Team.engineRoom (t : Team) : Nat := t.cores.length * (64 * 656 + 16 * 4176 + 256 * 112) + t.groups * 592

/-- Room of each section of a save image of `groups` groups with `parts` contexts each. -/
def State.imageRooms (s : State) (t : Team) (whole : Bool) (groups parts : Nat) : List Nat :=
  let width := ((s.launch? t.launch).map (·.desc.width)).getD 64
  [1024, groups * parts * greatestCtx width, 1024 * t.groups] ++
    if whole then [16384, t.engineRoom, t.bitmapLen + t.scratch, t.mslots.length * 0x20020, t.slotCores.length * 0x8000] else [0, 0, 0, 0, 0]

/-- Bytes of an image with such rooms, header and directory included. -/
def roomBytes (rooms : List Nat) : Nat := 4096 + (rooms.map fun n => roundUp n 4096).foldl (· + ·) 0

/-! ## Writing a save image -/

/-- Where a context of group `g` goes in an image: behind the contexts of its group that stand there; none without room. -/
def SaveImg.spotFor (i : SaveImg) (g width : Nat) (mine : List Nat) : Option Nat :=
  match i.groups.findIdx? (· = g) with
  | none => none
  | some r => if mine.length < i.parts then some (i.sec 1 + (r * i.parts + mine.length) * greatestCtx width) else none

/-- The contexts of an image. -/
def State.imageCtxs (s : State) (i : SaveImg) : List (Nat × Ctx) := i.taken.filterMap fun k => (s.ctx? k).map fun c => (k, c)

/-- Give a context that is taken its place in an image. -/
def State.seat (s : State) (i : SaveImg) (cid : Nat) (c : Ctx) : SaveImg :=
  let mine := ((s.imageCtxs i).filter fun kd => kd.2.gidx = c.gidx).map (·.1)
  match i.spotFor c.gidx c.width mine with
  | some o => { i with ctxOffs := mput i.ctxOffs cid (o, (c.saveBytes s).length) }
  | none => i

/-- Contexts of an image with their places. -/
def State.seated (s : State) (i : SaveImg) : List (Nat × Nat × Nat × Ctx) :=
  (s.imageCtxs i).filterMap fun kc => (mfind i.ctxOffs kc.1).map fun o => (kc.1, o.1, o.2, kc.2)

/-- Write an image's header and directory, and the contexts named, into its place in the save region. -/
def State.writeCtxs (s : State) (i : SaveImg) (t : Team) (lens : List Nat) (ks : List Nat) : State :=
  let ds := s.seated i
  let used := ds.foldl (fun m d => max m (d.2.1 + d.2.2.1)) (i.sec 1) - i.sec 1
  let lens := lens.set 1 used
  let s := s.refStore (s.imgPa i 0) (s.imageHead t (if i.whole then 1 else 2) (i.offs.zip lens))
  let s := s.refStore (s.imgPa i (i.sec 0)) (dirBytes s (ds.map fun d => d.2))
  (ds.filter fun d => ks.contains d.1).foldl (fun s d => s.refStore (s.imgPa i d.2.1) (d.2.2.2.saveBytes s)) s

/-- Lengths of the sections as a written image's header has them. -/
def State.writtenLens (s : State) (i : SaveImg) : List Nat := (List.range 8).map fun k => s.num (s.imgPa i (0x18 + 8 * k + 4)) 4

/-- Copy the poison of a team's lines into its image (09 R404). -/
def State.savePoison (s : State) (i : SaveImg) (t : Team) : State :=
  t.runs.foldl (fun s r =>
    (s.poison.filter fun kv => decide (r.1 ≤ 32 * kv.1) && decide (32 * kv.1 < r.1 + r.2.2)).foldl
      (fun s kv => s.markPoison (s.imgPa i (i.sec 5 + t.bitmapLen + r.2.1 + (32 * kv.1 - r.1)))) s) s

/-- A change of a saved context by the debug agent reaches its image (15 R342). -/
def State.mirrorCtx (s : State) (cid : Nat) : State :=
  match s.saves.find? (fun i => i.phase ≠ .saving && i.taken.contains cid), s.ctx? cid with
  | some i, some c =>
    match mfind i.ctxOffs cid with
    | some o => s.refStore (s.imgPa i o.1) ((c.saveBytes s).take o.2)
    | none => s
  | _, _ => s

/-- Write a whole image at the end of its save (15 R341, R342). -/
def State.writeSave (s : State) (i : SaveImg) (t : Team) : State :=
  let (s, rest) := if i.whole then s.wholeSections i.team t else (s, [[], [], [], [], []])
  let secs := [List.replicate 1024 0, [], t.allBatches] ++ rest
  let s := ((i.offs.zip secs).filter fun o => !o.2.isEmpty).foldl (fun s o => s.refStore (s.imgPa i o.1) o.2) s
  let s := if i.whole then s.savePoison i t else s
  s.writeCtxs i t (secs.map (·.length)) i.taken

end Sys2Proof.Machine
end

