-- ==== Sys2Proof/Machine/Debug.lean ====
section
/-! DEFINITION. The vigil registers (16 R351-R354), halt and dump requests (16 R360, R370, R371), the trace and histogram controls
(16 R362, R369), and the cycle of a core (16 R368). -/

namespace Sys2Proof.Machine

/-! ## Arming (16 R347, R349, R351-R353) -/

/-- The fields an armed predicate must have: `v` is the VCTL written, `home` tells the home-side bank. -/
def armFieldsOk (home : Bool) (p : Pred) (v : Nat) : Bool :=
  let kind := bits v 57 2
  let op := bits v 54 3
  let vt := bits v 50 4
  let cls := bits v 0 7
  let lo := p.lo.toNat
  let hi := p.hi.toNat
  let val := p.val.toNat
  let w := vtypeBytes vt
  decide (bits v 60 3 ≤ 6) && decide (op ≤ 4) && decide (vt ≤ 10) &&
    (match kind with
      | 0 | 1 => val = 0 && op = 0 && vt = 0
      | 2 => hi = 0 && lo % w = 0 && decide (val < 2 ^ (8 * w))
      | _ => decide (val < 2 ^ 7) && (if home then cls &&& 0x73 = 0 else cls = 0 && lo = 0 && hi = 0)) &&
    (!home || (decide (lo < 2 ^ 42) && decide (hi < 2 ^ 42) && !nbit v 6))

/-- First member of the run that holds predicate `i` of a bank beginning at `first`. -/
def runStart (m : Map Pred) (first : Nat) : Nat → Nat → Nat
  | 0, i => i
  | n + 1, i => if isHead m first i then i else runStart m first n (i - 1)

/-- Does the run of predicate `i` mix the exception kind with other kinds (16 R353)? -/
def runMixes (m : Map Pred) (first last i : Nat) : Bool :=
  let ks := (runFrom m last 32 (runStart m first 32 i)).map fun ip => ip.2.kind
  ks.contains 3 && ks.any fun k => k ≠ 3

/-- A write of VCTL: it arms, is refused with ERR, disarms, or is ignored while armed (16 R351, R353). -/
def writeVctl (m : Map Pred) (first last i value : Nat) : Map Pred :=
  let p := mget m i Pred.reset
  let v := value % 2 ^ 64
  let home := decide (16 ≤ first)
  if nbit v 63 then
    if p.en then m else
    let q := { p with vctl := BitVec.ofNat 64 v }
    if armFieldsOk home p v && (home || !runMixes (mset m i q Pred.reset) first last i) then
      mset m i { q with remain := q.count } Pred.reset
    else mset m i { p with
      vctl := BitVec.ofNat 64 (v % 2 ^ 63)
      err := true } Pred.reset
  else mset m i { p with vctl := BitVec.ofNat 64 v } Pred.reset

/-- A write of one word of a predicate: words 1-3 only while it is disarmed. -/
def writePredWord (m : Map Pred) (first last i k value : Nat) : Map Pred :=
  let p := mget m i Pred.reset
  let x := BitVec.ofNat 64 value
  if k = 0 then writeVctl m first last i value
  else if p.en then m
  else mset m i (match k with
    | 1 => { p with lo := x }
    | 2 => { p with hi := x }
    | _ => { p with val := x }) Pred.reset

/-- Word `k` of a predicate, as it reads. -/
def readPredWord (p : Pred) (k : Nat) : Nat :=
  match k with
  | 0 => p.vctl.toNat
  | 1 => p.lo.toNat
  | 2 => p.hi.toNat
  | _ => p.val.toNat

/-- VSTAT (16 Table 16-2). -/
def Pred.vstat (p : Pred) : Nat := p.matches_ % 2 ^ 32 * 2 ^ 32 + p.remain % 128 * 2 ^ 8 + b2n p.err * 2 + b2n p.fired

/-- A write of VSTAT clears ERR and FIRED where it writes ones. -/
def writeVstat (m : Map Pred) (i value : Nat) : Map Pred :=
  let p := mget m i Pred.reset
  mset m i { p with
    err := p.err && !nbit value 1
    fired := p.fired && !nbit value 0 } Pred.reset

/-- Apply a write to the bank of predicates `pred` belongs to: 0-15 a core's, 16-47 the stack's (16 R345). -/
def State.predBank (s : State) (gs core pred : Nat) (f : Map Pred → Nat → Nat → Map Pred) : State :=
  if pred < 16 then s.updCore (24 * gs + core) fun k => { k with preds := f k.preds 0 15 }
  else if pred < 48 then s.updStk gs fun k => { k with preds := f k.preds 16 47 }
  else s

/-- VCTL_ARM (16 R353): a write of VCTL with EN 1. -/
def execVctlArm (gs core pred value : Nat) (s : State) : Out :=
  if nbit value 63 then .next (s.predBank gs core pred fun m first last => writeVctl m first last pred value) else .next s

/-- VCTL_DISARM (16 R353): a write of VCTL with EN 0. -/
def execVctlDisarm (gs core pred value : Nat) (s : State) : Out :=
  if nbit value 63 then .next s else .next (s.predBank gs core pred fun m first last => writeVctl m first last pred value)

/-! ## Stops arriving (15 R336, 16 R356) -/

/-- STOP_ARRIVAL (16 R356): a stop message reaches its unit. -/
def execStopArrival (stop : Nat) (s : State) : Out :=
  match s.stops.find? fun m => m.id = stop && !m.line with
  | some m => .next (s.deliverStop m)
  | none => .next s

/-- HALT_LINE_ARRIVAL (15 R336): a partition's halt line reaches a unit. -/
def execHaltLineArrival (stop : Nat) (s : State) : Out :=
  match s.stops.find? fun m => m.id = stop && m.line with
  | some m => .next (s.deliverStop m)
  | none => .next s

/-! ## Dumps (16 R370, R371) -/

/-- Contexts of a dump's target team: those of one group, or all. -/
def State.dumpCtxs (s : State) (tk : Nat) (g : Option Nat) : List (Nat × Ctx) :=
  (s.teamCtxs tk).filter fun kc => match g with
    | some i => kc.2.gidx = i
    | none => true

/-- Bytes a dump of a team takes in its ring: header and image, in 64-byte steps. -/
def State.dumpLen (s : State) (tk : Nat) (t : Team) (g : Option Nat) : Nat :=
  64 + roundUp (s.teamImage tk t (if g.isNone then 3 else 4) g.isNone (s.dumpCtxs tk g)).2.length 64

/-- Bytes free in the dump ring of a slot. -/
def Stack.dumpFree (k : Stack) (slot : Nat) : Nat :=
  mget k.dmpSize slot 0 * 65536 - (mget k.dmpHead slot 0 - mget k.dmpTail slot 0)

/-- Bytes the dumps requested and not yet written will take in a ring. -/
def State.dumpOwed (s : State) (gs slot : Nat) : Nat :=
  ((s.dumps.filter fun d => d.gs = gs && d.pslot = slot && !d.written).map (·.bytes)).foldl (· + ·) 0

/-- Begin a dump of teams (of one group of each where `g` names it): with room in every ring the targets are stopped with code 0x83,
the issuer `self` at once, the others by stops from stack `src`; without room none is taken, and DMP_DROP counts it (16 R370). -/
def State.requestDump (s : State) (src : Nat) (teams : List Nat) (g : Option Nat) (pslot : Nat) (self : Option Nat) : State :=
  let ts := teams.filterMap fun k => (s.team? k).map fun t => (k, t)
  let need (gs : Nat) : Nat := ((ts.filter fun kt => gsOf kt.2.baseGc = gs).map fun kt => s.dumpLen kt.1 kt.2 g).foldl (· + ·) 0
  let stks := (ts.map fun kt => gsOf kt.2.baseGc).eraseDups
  let short := stks.filter fun gs => (s.stk gs).dumpFree pslot < s.dumpOwed gs pslot + need gs
  if ts.isEmpty then s
  else if !short.isEmpty then short.foldl (fun s gs => s.updStk gs fun k => { k with dmpDrop := k.dmpDrop + 1 }) s
  else
    let (ev, s) := s.fresh
    let s := ts.foldl (fun s kt =>
      let gs := gsOf kt.2.baseGc
      let (i, s) := s.fresh
      let k := s.stk gs
      let d : Dump := ⟨i, gs, pslot, k.dmpSeq, kt.1, g, s.dumpLen kt.1 kt.2 g, 0, k.dmpPeer, false, none, ev⟩
      { (s.setStk gs { k with dmpSeq := (k.dmpSeq + 1) % 2 ^ 32 }) with dumps := s.dumps ++ [d] }) s
    let all := ts.flatMap fun kt => (s.dumpCtxs kt.1 g).map (·.1)
    let s := match self with
      | some cid => match s.ctx? cid with
        | some c => s.stopGroup cid ev 0x83 (groupRec s c c.firstPath 0x83)
        | none => s
      | none => s
    s.sendStops src ev 0x83 0 pslot 0 false ((all.filter fun k => some k ≠ self).map UnitId.group)

/-- Write bytes into a ring of `size` bytes from a running offset. -/
def State.ringBytes (s : State) (base size off : Nat) (bs : List Byte) : State :=
  let at_ := off % max 1 size
  let first := bs.take (size - at_)
  (s.store (base + at_) first).store base (bs.drop first.length)

/-- Address and size of the dump ring of a slot. -/
def State.dumpRing (s : State) (gs slot : Nat) : Nat × Nat :=
  let k := s.stk gs
  (paOf gs (bits (mget k.dmpBase slot 0).toNat 16 26 * 65536), mget k.dmpSize slot 0 * 65536)

/-- Bytes of a written dump, as its ring holds them. -/
def State.dumpBytes (s : State) (d : Dump) : List Byte :=
  let ring := s.dumpRing d.gs d.pslot
  (List.range d.bytes).map fun i => s.byte (ring.1 + (d.off + i) % max 1 ring.2)

/-- Stack of the peer a stack's dumps stream to. -/
def Stack.dumpDst (k : Stack) : Nat := 16 * k.dmpPkg + paGs k.dmpPaddr.toNat % 16

/-- Stream a written dump to the peer as tile writes of 64 bytes, which stand in the order of their stack pair (16 R371; 05 R93, R103). With no
channel to the peer it stays in the ring, and PEER clears. -/
def State.streamDump (s : State) (d : Dump) : State :=
  let dst := (s.stk d.gs).dumpDst
  let gone : State := { s with dumps := s.dumps.filter fun x => x.id ≠ d.id }
  if !s.reaches d.gs dst then gone.updStk d.gs fun k => { k with dmpPeer := false } else
  let (i, s) := s.fresh
  let s : State := { s with
    dumps := s.dumps.map fun x => if x.id = d.id then d else x
    chan := s.chan ++ [⟨i, d.gs, dst, .dump d.id (d.bytes / 64), none, false, false, false⟩] }
  s.sendFlits d.gs dst (planeOf d.gs) 4 i (flitPayloads (s.dumpBytes d))

/-- The header that precedes a dump's image (16 R370). -/
def State.dumpHead (s : State) (d : Dump) (t : Team) (n : Nat) : List Byte :=
  let lid := ((s.launch? t.launch).map (·.id)).getD 0
  bytesOf 4 d.seq ++ bytesOf 4 lid ++ bytesOf 4 t.lin ++ bytesOf 4 n ++ bytesOf 8 (s.now t.baseGc) ++ List.replicate 40 0

/-- Write a dump with its header at the head of its ring, where it has room: what the image has grown by since the request counts too
(log 103, DESIGN CHOICE). -/
def State.putDump (s : State) (d : Dump) (t : Team) : Option (State × Dump) :=
  let (s, img) := s.teamImage d.team t (if d.group.isNone then 3 else 4) d.group.isNone (s.dumpCtxs d.team d.group)
  let bs := padTo 64 (s.dumpHead d t img.length ++ img)
  let k := s.stk d.gs
  if k.dumpFree d.pslot < bs.length then none else
  let off := mget k.dmpHead d.pslot 0
  let ring := s.dumpRing d.gs d.pslot
  let s := s.ringBytes ring.1 ring.2 off bs
  some (s.updStk d.gs fun k => { k with dmpHead := mset k.dmpHead d.pslot (off + bs.length) 0 },
    { d with bytes := bs.length, off := off, written := true })

/-- DUMP_IMAGE_WRITTEN (16 R370): with its contexts stopped, the image and its header are in the ring; with the last image of the dump
the target resumes. -/
def execDumpImageWritten (dump : Nat) (s : State) : Out :=
  match s.dumps.find? fun d => d.id = dump && !d.written with
  | none => .next s
  | some d =>
    let still := (s.dumpCtxs d.team d.group).all fun kc => kc.2.stop.isSome && kc.2.place ≠ .moving && kc.2.place ≠ .landed
    if !still then .next s else
    let end_ (s : State) : Out := if s.dumps.any fun (x : Dump) => x.ev = d.ev && !x.written then .next s else .next (s.resumeEvent d.ev)
    match (s.team? d.team).map (s.putDump d) with
    | none => end_ { s with dumps := s.dumps.filter fun (x : Dump) => x.id ≠ dump }
    | some none => .next s
    | some (some (s, d)) => end_ (if d.toPeer then s.streamDump d else { s with dumps := s.dumps.filter fun (x : Dump) => x.id ≠ dump })

/-- Key under which the running offset of the peer ring stands beside the slots' heads. -/
def peerRing : Nat := 16

/-- DUMP_PEER_ACK (16 R371): the tile writes of a written image have been handed over at the peer, which performs them in the order of their
stack pair (05 R93) and acknowledges each; with every acknowledgement back the ring's bytes are free. With the peer lost before that the
image stays and PEER clears. -/
def execDumpPeerAck (dump : Nat) (s : State) : Out :=
  match s.dumps.find? fun d => d.id = dump && d.written with
  | none => .next s
  | some d =>
    let k := s.stk d.gs
    let n := d.bytes / 64
    match d.reply with
    | none =>
      match s.chan.find? fun m => m.body = .dump dump n with
      | none => .next (s.loseDump dump)
      | some m =>
        if !s.headOf m then .next s else
        let off := mget k.dmpHead peerRing 0
        let (i, s) := (s.consume m.src m.dst m.id).fresh
        let s := s.ringBytes k.dmpPaddr.toNat (k.dmpPsize * 65536) off (s.dumpBytes d)
        let s := s.updStk d.gs fun k => { k with dmpHead := mset k.dmpHead peerRing (off + d.bytes) 0 }
        let s : State := { s with
          chan := s.chan.filter fun x => x.id ≠ m.id
          dumps := s.dumps.map fun (x : Dump) => if x.id = dump then { x with reply := some i } else x }
        .next (s.sendFree m.dst d.gs (planeOf m.dst) 3 i n)
    | some i =>
      let dst := k.dumpDst
      let l := s.link (pkgOf dst) (planeOf dst) (pkgOf d.gs)
      let lost := !s.reaches dst d.gs || (!s.handed dst d.gs i n && !((l.retry ++ l.queue).any fun f => f.tag = i))
      if lost then .next (s.loseDump dump)
      else if !s.handed dst d.gs i n then .next s
      else .next ((({ s with dumps := s.dumps.filter fun x => x.id ≠ dump } : State).consume dst d.gs i).updStk d.gs fun k => { k with
        dmpTail := mset k.dmpTail d.pslot (mget k.dmpTail d.pslot 0 + d.bytes) 0 })

/-! ## Requests of the host and of privileged launches (16 R360) -/

/-- A new request takes the place of one of its stack that waits for a region (16 R360). -/
def State.dropAtReg (s : State) (gs : Nat) : State :=
  let s := s.updStk gs fun k => { k with atReg := none }
  let wanted (c : Ctx) : Bool := s.stks.any fun kk => match kk.2.atReg with
    | some r => s.atRegNames kk.1 r c
    | none => false
  { s with ctxs := s.ctxs.map fun (kc : Nat × Ctx) => (kc.1, { kc.2 with atRegion := kc.2.atRegion && wanted kc.2 }) }

/-- A write of DBG_HCTL. -/
def State.writeHctl (s : State) (gs value : Nat) : State :=
  let scope := bits value 4 3
  let lid := bits (s.stk gs).htgt.toNat 0 32
  let lin := bits (s.stk gs).htgt.toNat 32 32
  let gidx := bits value 7 6
  if scope ≠ 1 && scope ≠ 2 && scope ≠ 6 then s.updStk gs fun k => { k with dbgErr := true }
  else
    let s := s.dropAtReg gs
    let mine (c : Ctx) : Bool := c.alive && s.named (pkgOf gs) scope gidx lid lin c
    let ofLaunch (l : Launch) : Bool := l.pkg = pkgOf gs && l.id = lid
    if nbit value 13 then
      let teams := s.teams.filter fun kt => ((s.launch? kt.2.launch).map ofLaunch).getD false && (scope = 6 || kt.2.lin = lin)
      let slot := ((s.launches.find? fun kl => ofLaunch kl.2).map fun kl => kl.2.pslot).getD 0
      s.requestDump gs (teams.map (·.1)) (if scope = 1 then some gidx else none) slot none
    else if nbit value 14 then
      let q : AtReg := ⟨if nbit value 15 then some (bits value 16 16) else none, scope, gidx, lid, lin⟩
      let s := s.updStk gs fun k => { k with atReg := some q }
      let one (kc : Nat × Ctx) : Nat × Ctx := (kc.1, { kc.2 with atRegion := if mine kc.2 then kc.2.stop.isNone else kc.2.atRegion })
      ({ s with ctxs := s.ctxs.map one } : State).settleAtReg
    else
      let (ev, s) := s.fresh
      let born (kl : Nat × Launch) : Nat × Launch := (kl.1, if ofLaunch kl.2 && scope = 6 then { kl.2 with bornStopped := true } else kl.2)
      let groups := (s.ctxs.filter fun kc => mine kc.2).map fun kc => UnitId.group kc.1
      let runs := s.stks.flatMap fun kk => (kk.2.bankQueue.filter fun b => ((s.launch? b.launch).map ofLaunch).getD false).map fun b =>
        UnitId.bankRun kk.1 b.launch
      ({ s with launches := s.launches.map born } : State).sendStops gs ev 0x82 scope 0 0 false (groups ++ if scope = 6 then runs else [])

/-- HALT_REQUEST (16 R360): a write of DBG_HCTL that asks for a halt. -/
def execHaltRequest (gs value : Nat) (s : State) : Out :=
  if nbit value 13 || nbit value 14 then .next s else .next (s.writeHctl gs value)

/-- HALT_AT_REGION (16 R360): a write of DBG_HCTL with ATREG 1. -/
def execHaltAtRegion (gs value : Nat) (s : State) : Out :=
  if nbit value 14 && !nbit value 13 then .next (s.writeHctl gs value) else .next s

/-- DUMP_REQUEST (16 R360): a write of DBG_HCTL with DUMP 1. -/
def execDumpRequest (gs value : Nat) (s : State) : Out :=
  if nbit value 13 then .next (s.writeHctl gs value) else .next s

/-! ## Trace and histogram (16 R362, R368, R369) -/

/-- Open sequences of the groups on the traced cores of a stack (16 R365). -/
def State.traceAll (s : State) (gs : Nat) : State :=
  (s.ctxs.filter fun kc => gsOf kc.2.gc = gs && kc.2.residentOn kc.2.gc).foldl (fun s kc => s.traceOpen kc.1) s

/-- A write of TRC_CTL: setting EN starts the unit with an empty ring, clearing it leaves it to write what is queued. -/
def State.writeTrc (s : State) (gs value : Nat) : State :=
  let k := s.stk gs
  let on := nbit value 0
  let k' := { k with
    trcCores := BitVec.ofNat 24 (bits value 16 24)
    trcWrap := nbit value 1
    trcEn := on }
  if on && !k.trcEn then
    (s.setStk gs { k' with
      trcIdle := false
      trcHead := 0
      trcOpen := []
      trcClock := []
      trcCoreSeen := [] }).traceAll gs
  else s.setStk gs k'

/-- TRACE_ENABLE (16 R362). -/
def execTraceEnable (gs value : Nat) (s : State) : Out := if nbit value 0 then .next (s.writeTrc gs value) else .next s

/-- TRACE_DISABLE (16 R362). -/
def execTraceDisable (gs value : Nat) (s : State) : Out := if nbit value 0 then .next s else .next (s.writeTrc gs value)

/-- TRACE_DRAIN_END (16 R362): with EN clear and its records written, the unit is idle. -/
def execTraceDrainEnd (gs : Nat) (s : State) : Out :=
  if (s.stk gs).trcEn then .next s else .next (s.updStk gs fun k => { k with trcIdle := true })

/-- HIST_CLR (16 R369): all 25 counters of the core. -/
def execHistClr (gc : Nat) (s : State) : Out := .next (s.updCore gc fun k => { k with hist := [] })

/-- The counter a core's cycle adds to: OCCk at key k, reason r at key 9 + r (16 R369); of resident groups the one whose team was placed first
is the oldest. -/
def State.histKey (s : State) (gc : Nat) : Nat :=
  let k := (s.ready gc).length
  if k ≠ 0 then min k 8
  else match leastBy (fun a b => lexLe [a.2.team, a.2.gidx, a.2.part, a.1] [b.2.team, b.2.gidx, b.2.part, b.1]) (s.residents gc) with
    | some kc => 9 + kc.2.stallNow % 16
    | none => 9

/-- The pending groups of a core that are not eligible begin their count anew (14 R322, R323). -/
def State.markWaiting (s : State) (gc : Nat) : State :=
  let stale (kc : Nat × Ctx) : Bool := kc.2.gc = gc && kc.2.place = .pending && !s.canRun kc.1 kc.2
  { s with ctxs := s.ctxs.map fun (kc : Nat × Ctx) => if stale kc then (kc.1, { kc.2 with since := s.now gc }) else kc }

/-- CORE_CYCLE (16 R368, R369): the local cycle counter and the histogram advance; what the last cycle chose for position 1 is past. -/
def execCoreCycle (gc : Nat) (s : State) : Out :=
  let key := s.histKey gc
  let inc (m : Map Nat) (k : Nat) : Map Nat := mset m k ((mget m k 0 + 1) % 2 ^ 48) 0
  let s := (s.markWaiting gc).updCore gc fun k => { k with
    cycle := (k.cycle + 1) % 2 ^ 64
    hist := if 9 ≤ key then inc (inc k.hist 0) key else inc k.hist key }
  let mine := ((s.cursor.pair.bind fun x => s.ctx? x.1).map (·.gc)) = some gc
  .next (if mine then { s with cursor := { s.cursor with pair := none } } else s)

end Sys2Proof.Machine
end

