-- ==== Sys2Proof/Machine/System.lean ====
section
/-! DEFINITION. Traps and returns as words (13 R299, R300), system registers (13 R302, 06 R111, R112), halts, dumps and replay
(13 R301, R303, R304), child launches (13 R298), and the debug-agent words (13 R305-R308, 20 R401). -/

namespace Sys2Proof.Machine

/-! ## TRAP and TRET -/

/-- TRAP (13 R299): code 0x00 with the trap code as cause; the resume is the word after it. -/
def execTrap (k : BitVec 7) (s : State) : Out :=
  withIssuer s fun e =>
    e.s.takeTrap e.cid e.e (e.p.pc + 4) { plainReport 0 e.p.pc e.p.mask with cause := k.toNat }

/-- TRET (13 R300): every lane of the path pops its resume, INHANDLER clears and the held paths go on; 0x01 outside a handler, 0x09 at
depth 0. -/
def execTret (s : State) : Out :=
  withIssuer s fun e =>
    let ls := lanesOf e.p.mask
    if !e.c.inHandler then e.fault 0x01 e.lanes
    else if ls.any fun l => e.c.depth l = 0 then e.fault 0x09 (maskOf (ls.filter fun l => e.c.depth l = 0))
    else
      let c := (ls.foldl (fun c l => c.pop l) e.c).leaveHandler
      e.jump c 0 (ls.map e.c.retDest)

/-! ## System registers (06 Table 6-2) -/

/-- Is the register 64 bits wide? -/
def sysWide (i : Nat) : Bool := i = 5 || i = 7 || i = 0x14

/-- Value of a system register in a lane. -/
def Env.sysReg (e : Env) (i l : Nat) : Nat :=
  let c := e.c
  let team (f : Team → Nat) : Nat := ((e.s.team? c.team).map f).getD 0
  match i with
  | 0x00 => (mget c.fstat l 0).toNat
  | 0x01 => b2n c.ftz
  | 0x02 => c.seed.toNat
  | 0x03 => c.scnt.toNat
  | 0x04 => c.fcause.toNat
  | 0x05 => c.faddr.toNat
  | 0x06 => c.fpc.toNat
  | 0x07 => c.flanes.toNat
  | 0x08 => b2n c.visit
  | 0x09 => c.splitB
  | 0x0A => c.walloc
  | 0x0B => c.regionTop
  | 0x0C | 0x0D | 0x0E => (((c.loops ++ c.loopRegs)[i - 0x0C]?).map (·.lc)).getD 0
  | 0x0F => c.depth l
  | 0x10 => team (·.x)
  | 0x11 => team (·.y)
  | 0x12 => team (·.z)
  | 0x13 => c.anchor
  | 0x14 => e.now
  | 0x15 => c.birthWord
  | _ => ((e.s.launch? c.launch).map (·.id)).getD 0

/-- GETS (13 R302, 06 R112): the register in every active lane; no latch. -/
def execGets (d : BitVec 6) (i : BitVec 7) (s : State) : Out :=
  withIssuer s fun e =>
    let k := i.toNat
    let w := sysWide k
    e.checked e.lanes ((if 0x17 ≤ k then [2] else []) ++ e.dstDefects w d.toNat) []
      (e.finish (e.c.writeV w d.toNat ((lanesOf e.lanes).map fun l => (l, e.sysReg k l))) 1)

/-- The context after a write of a system register: FSTAT by lane, the others from the lowest active lane; read-only ones ignore it. -/
def Env.setSys (e : Env) (i : Nat) (v : Nat → Nat) : Ctx :=
  let c := e.c
  let x := v (lowLane e.lanes)
  match i with
  | 0x00 => { c with fstat := (lanesOf e.lanes).foldl (fun m l => mset m l (BitVec.ofNat 7 (v l)) 0) c.fstat }
  | 0x01 => { c with ftz := nbit x 0 }
  | 0x02 => { c with seed := BitVec.ofNat 32 x, scnt := 0 }
  | 0x08 => { c with visit := nbit x 0 }
  | 0x09 => if x = 0 || 16 < x then c else { c with splitB := x }
  | _ => c

/-- SETS (13 R302, 06 R112). -/
def execSets (i b : BitVec 7) (s : State) : Out :=
  withIssuer s fun e =>
    let k := i.toNat
    let p : Pos := if sysWide k then .i64 else .i32
    e.checked e.lanes ((if 0x17 ≤ k then [2] else []) ++ e.srcDefects p b.toNat) (srcRegs p b.toNat)
      (e.finish (e.setSys k fun l => e.read p b.toNat l) 1)

/-! ## HALT, DUMP and REPLAY -/

/-- Does a launch belong to the units a HALT of launch `by_` may stop: its partition, or for a debug agent the launch itself
(16 R359)? -/
def State.haltReach (s : State) (by_ lk : Nat) : Bool := if s.isAgent by_ then lk = by_ else s.inPart lk (s.slotOf by_)

/-- The units a HALT names beside the issuing group (13 R303). -/
def State.haltUnits (s : State) (c : Ctx) (scope : Nat) : List UnitId :=
  let groups (keep : Ctx → Bool) : List UnitId :=
    (s.ctxs.filter fun kc => kc.2.alive && s.haltReach c.launch kc.2.launch && keep kc.2).map fun kc => UnitId.group kc.1
  let engines (keep : Cmd → Bool) : List UnitId :=
    (s.cmds.filter fun x => !x.kind.isCtxCopy && s.haltReach c.launch (s.cmdLaunch x) && keep x).foldl (fun l x => addUnit l (x.kind.unit x.gc)) []
  match scope with
  | 2 => groups fun x => x.team = c.team
  | 3 => groups (fun x => x.residentOn c.gc) ++ engines fun x => x.gc = c.gc
  | 4 =>
    let gs := gsOf c.gc
    let banks : List UnitId := if (s.stk gs).bankQueue.any fun b => s.haltReach c.launch b.launch then [.bankUnits gs] else []
    groups (fun x => x.residentOn x.gc && gsOf x.gc = gs) ++ engines (fun x => gsOf x.gc = gs) ++ banks
  | _ => []

/-- HALT (13 R303): at the boundary the issuer stops, its record naming the path that issued it, with code 0x82, and stops go to the other units of the scope; scope 0 stops the
path alone (16 R407), scope 5 raises the halt line. -/
def execHalt (k : BitVec 7) (s : State) : Out :=
  withIssuer s fun e =>
    let scope := k.toNat
    if 5 < scope then e.fault 0x02 e.lanes else
    let (ev, s) := e.s.fresh
    let c := (({ e.c.setPath e.e { e.p with lastIssue := e.now } with lastIssue := e.now } : Ctx).fallTo e.e (e.p.pc + 4) e.now).rounds 3
    if scope = 0 then
      let m : StopMsg := ⟨0, gsOf c.gc, ev, .path e.cid e.e, 0x82, 0, 0, 0, false, false, c.pslot, 0, 0, pkgOf (gsOf c.gc), true, []⟩
      ((s.setCtx e.cid c).stopPath m e.cid e.e).updCtx e.cid Ctx.settle
    else
      let path := if (c.path e.e).v then e.e else c.firstPath
      let s := ((s.setCtx e.cid c).stopGroup e.cid ev 0x82 { groupRec s c path 0x82 with aux := scope }).updCtx e.cid Ctx.settle
      let self : UnitId := .group e.cid
      if scope = 5 && !s.isAgent c.launch then s.raiseLine (gsOf c.gc) c.pslot 0 ev [self]
      else s.sendStops (gsOf c.gc) ev 0x82 scope c.pslot 0 false ((s.haltUnits c scope).filter fun u => u ≠ self)

/-- DUMP (13 R304): at the boundary the target is dumped (16 R370); without a dump area it is a NOP. -/
def execDump (k : BitVec 7) (s : State) : Out :=
  withIssuer s fun e =>
    let scope := k.toNat
    if 2 < scope then e.fault 0x02 e.lanes else
    let s := e.finish e.c 1
    if mget (s.stk (gsOf e.c.baseGc)).dmpSize e.c.pslot 0 = 0 then s
    else
      let teams := if scope = 2 then (s.teams.filter fun kt => kt.2.launch = e.c.launch).map (·.1) else [e.c.team]
      s.requestDump (gsOf e.c.gc) teams (if scope = 0 then some e.c.gidx else none) e.c.pslot (some e.cid)

/-- REPLAY (13 R301). -/
def execReplay (s : State) : Out :=
  withIssuer s fun e => ({ e with s := e.s.replay e.cid } : Env).finish e.c 1

/-! ## Child launches (13 R298) -/

/-- Defect of a scalar pair source that must be registers. -/
def scalarPairDefects (a : Nat) : List Nat := if 64 ≤ a && decide (a < 96) && a % 2 = 0 then [] else [2]

/-- Value of a scalar pair. -/
def Env.pairVal (e : Env) (a : Nat) : Nat := e.spair (a - 64)

/-- Page and slot of a notify slot's COMP, by its location; none elsewhere. -/
def slotOfComp (loc : Nat) : Option (Nat × Nat) :=
  if 0x24010000000 ≤ loc && decide (loc < 0x24010000000 + 16 * 65536) && loc % 1024 = 16 then
    some ((loc - 0x24010000000) / 65536, loc % 65536 / 1024)
  else none

/-- JOINK (13 R298): the slot's COMP is probed as a load; the answer comes by JOINK_ANSWER. An address that translates to no notify slot
is an illegal operand (log 22, DESIGN CHOICE). -/
def execJoink (d : BitVec 6) (a : BitVec 7) (s : State) : Out :=
  withIssuer s fun e =>
    let dst := d.toNat
    let dd := (if dst % 2 = 1 then [2] else []) ++ rangeDefects (dst + 1) 32
    let va := e.pairVal a.toNat
    let slot := e.p.setSlot
    e.checked e.lanes (dd ++ scalarPairDefects a.toNat) []
      (if e.s.acquiring e.cid then e.hold 2
      else if 255 ≤ mget e.c.wslot slot 0 then e.hold 13
      else if va % 1024 ≠ 0 then e.s.takeTrap e.cid e.e e.p.nextHeader ⟨7, 0, 7, 1, 0, false, va, e.p.pc, e.lanes⟩
      else match e.s.probeVa ⟨gsOf e.c.gc, some e.c.gc, e.c.pslot, e.c.user⟩ ⟨1, 8, true, true, false⟩ (va + 16) with
        | (s, .error (code, lvl)) => s.park e.cid e.e ⟨code, 0, lvl, 1, 0, false, va + 16, e.p.pc, e.lanes⟩
        | (s, .ok (r, _)) =>
          match slotOfComp (paLoc (refPa r)) with
          | none => { e with s := s }.fault 0x02 e.lanes
          | some (page, k) =>
            let (i, s) := s.fresh
            let c := (e.c.countSlot slot).advance e.e 1 e.now none
            { s.setCtx e.cid c with joinks := s.joinks ++ [⟨i, e.cid, paGs (refPa r), nslotKey page k, dst, slot⟩] })

/-- JOINK_ANSWER (13 R298): with STATE IDLE, DONE or REFUSED the dispatcher answers with COMP. -/
def execJoinkAnswer (joink : Nat) (s : State) : Out :=
  match s.joinks.find? fun j => j.id = joink with
  | none => .next s
  | some j =>
    let comp := s.slotComp j.gs j.nslot
    let state := comp % 16
    if state = 1 || state = 2 then .next s else
    let s := { s with joinks := s.joinks.filter fun x => x.id ≠ joink }
    .next ((s.updCtx j.ctx fun c =>
      let c := c.completeSlot j.slot 0 0
      { c with sregs := mset (mset c.sregs j.dst (BitVec.ofNat 32 comp) 0) (j.dst + 1) (BitVec.ofNat 32 (comp / 2 ^ 32)) 0 }).mirrorCtx j.ctx)

/-! ## Debug-agent words -/

/-- The group a handle names: the virtual address of its stop record (13 R305, 15 R339). -/
def Env.target? (e : Env) (handle : Nat) : State × Option (Nat × Ctx) :=
  if handle % 64 ≠ 0 then (e.s, none) else
  match e.s.probeVa ⟨gsOf e.c.gc, some e.c.gc, e.c.pslot, e.c.user⟩ ⟨1, 64, false, false, false⟩ handle with
  | (s, .error _) => (s, none)
  | (s, .ok (r, _)) =>
    let gs := paGs (refPa r)
    let base := bits (s.stk gs).stopBase.toNat 17 25 * 2 ^ 17
    let off := paLoc (refPa r) - base
    if paLoc (refPa r) < base || off % 64 ≠ 0 || 1536 * 64 ≤ off then (s, none)
    else
      let gc := gs * 24 + off / 4096
      match s.ctxs.find? fun kc => kc.2.residentOn gc && kc.2.slotNo = off / 64 % 64 with
      | some kc => (s, some kc)
      | none => (s, (mfind (s.stk gs).recCtx (off / 64)).bind fun cid => (s.ctx? cid).map fun c => (cid, c))

/-- Is the target halted: stopped as a group, or in some path (16 R407)? -/
def Ctx.halted (c : Ctx) : Bool := c.stop.isSome || c.pathStop.isSome

/-- Is a debug operation on the target still under way (20 R401)? -/
def State.debugBusy (s : State) (cid : Nat) (c : Ctx) : Bool :=
  c.step.isSome || s.cmds.any fun x => match x.kind with
    | .rdctx t .. => t = cid
    | .wrctx t .. => t = cid
    | _ => false

/-- The word ends with a status in its scalar destination. -/
def Env.status (e : Env) (s : State) (d v : Nat) : State :=
  match s.ctx? e.cid with
  | none => s
  | some c => s.setCtx e.cid ({ c with sregs := mset c.sregs d (BitVec.ofNat 32 v) 0 }.advance e.e 1 e.now none)

/-- The common head of the debug-agent words: operand defects, 0x08 outside a debug-agent launch, the target, its busy hold and its
status 6 or 1. -/
def Env.agent (e : Env) (d a : Nat) (more : List Nat) (body : State → Nat → Ctx → State) : State :=
  let ds := rangeDefects d 32 ++ scalarPairDefects a ++ more ++ (if e.s.isAgent e.c.launch then [] else [8])
  e.checked e.lanes ds []
    (match e.target? (e.pairVal a) with
      | (s, none) => e.status s d 6
      | (s, some (cid, c)) =>
        if s.debugBusy cid c then { e with s := s }.hold 15
        else if !c.halted then e.status s d 1
        else body s cid c)

/-- Split one lane off its path into the lowest free entry, at its PC and with its place in the clause (13 R306). -/
def Ctx.isolate (c : Ctx) (e free l : Nat) : Ctx :=
  let p := c.path e
  let c := (c.setPath free { p with mask := laneBit l }).setPath e { p with mask := p.mask &&& ~~~laneBit l }
  { c with leaderPath := if c.leader = some l && c.leaderPath = e then free else c.leaderPath }

/-- The path entry a step moves, after its isolation; or the status that refuses it. -/
def Ctx.stepPath (c : Ctx) (w : Nat) : Except Nat (Ctx × Nat) :=
  let entry := bits w 8 3
  let l := bits w 2 6
  if 2 ^ 11 ≤ w || !(c.path entry).v then .error 4
  else if !nbit w 1 then .ok (c, entry)
  else
    match c.validPaths.find? fun e => (c.path e).mask.getLsbD l with
    | none => .error 2
    | some e =>
      let asleep := c.leader.isSome && c.leaderPath = e && c.leader ≠ some l
      if !c.lanes.getLsbD l || asleep then .error 2
      else if (c.path e).mask = laneBit l then .ok (c, e)
      else match c.freePaths with
        | [] => .error 3
        | f :: _ => .ok (c.isolate e f l, f)

/-- The stop record of a group names these lanes (16 R359). -/
def State.nameLanes (s : State) (cid : Nat) (lanes : Mask) : State :=
  match (s.ctx? cid).bind (·.stopRec) with
  | some r => s.putStopRec cid { r with lanes := lanes }
  | none => s

/-- STEP (13 R306): the target's chosen path is free for one word or clause, every other path stays frozen; the record of a target of which a
lane was isolated names that lane at once (16 R359). -/
def execStep (d : BitVec 6) (a b : BitVec 7) (s : State) : Out :=
  withIssuer s fun e =>
    e.agent d.toNat a.toNat (e.scalarDefects .i32 b.toNat) fun s cid c =>
      let w := e.read .i32 b.toNat 0
      match c.stepPath w with
      | .error v => e.status s d.toNat v
      | .ok (c, k) =>
        let c := { c.setPath k { c.path k with stopped := false } with
          stop := if c.stop.isSome then c.stop else c.pathStop
          step := some ⟨k, nbit w 0, false⟩ }
        let s := s.setCtx cid c
        e.status ((if nbit w 1 then s.nameLanes cid (c.path k).mask else s).mirrorCtx cid) d.toNat 0

/-- Probe a buffer of the debug agent, page by page; a failed check is the word's own. -/
def Env.buffer (e : Env) (s : State) (acls va n : Nat) (body : State → List (Nat × Nat × Nat) → State) : State :=
  if va % 64 ≠ 0 then s.takeTrap e.cid e.e e.p.nextHeader ⟨7, 0, 7, acls, 0, false, va, e.p.pc, e.lanes⟩ else
  match s.probeSpan ⟨gsOf e.c.gc, some e.c.gc, e.c.pslot, e.c.user⟩ ⟨acls, 1, true, false, false⟩ va n with
  | (s, .error (addr, (code, lvl))) => s.park e.cid e.e ⟨code, 0, lvl, acls, 0, false, addr, e.p.pc, e.lanes⟩
  | (s, .ok ps) => body s ps

/-- The image RDCTX stores: every allocated window, and the latch block inside a clause (13 R307). -/
def Ctx.rdctxBytes (s : State) (c : Ctx) : List Byte := c.allLive.imageList s ++ if c.inClause then c.latchBytes else []

/-- A context command of the debug agent: no scoreboard entry, no engine. -/
def Env.ctxCmd (e : Env) (i : Nat) (slot : Option Nat) (kind : CmdKind) (xs : List Sector) : Cmd :=
  { id := i
    gc := e.c.gc
    team := e.c.team
    gidx := e.c.gidx
    ctx := e.cid
    lane := e.issuingLane
    pc := e.p.pc
    slot := slot
    kind := kind
    entry := false
    started := true
    reads := []
    writes := []
    sectors := xs
    flags := 0
    capture := false
    saved := false
    stop := none
    region := e.c.reg0
    also := []
    readyAt := none
    seen := none }

/-- Cut bytes into pieces for the references of a buffer, each with its leaf. -/
def cutPieces : List Byte → List (Nat × Nat × Nat) → List (Nat × List Byte × Nat)
  | _, [] => []
  | bs, (r, n, leaf) :: rest => (r, bs.take n, leaf) :: cutPieces (bs.drop n) rest

/-- A piece of the buffer of context command `h`, probed through its leaf (03 R58). -/
def bufSector (h leaf r : Nat) (pieces : List (Nat × Nat × Nat)) (data : List Byte) : Sector :=
  { emptySector r pieces with
    st := .read
    data := (List.range data.length).zip data
    probed := some (h, leaf) }

/-- RDCTX (13 R307): the image is taken from the stopped group and its copy is under way. -/
def execRdctx (d : BitVec 6) (a b : BitVec 7) (s : State) : Out :=
  withIssuer s fun e =>
    e.agent d.toNat a.toNat (scalarPairDefects b.toNat) fun s cid c =>
      let slot := e.p.setSlot
      let va := e.pairVal b.toNat
      let bs := c.rdctxBytes s
      if 255 ≤ mget e.c.wslot slot 0 then { e with s := s }.hold 13
      else e.buffer s 2 va bs.length fun s ps =>
        let (i, s) := s.fresh
        let xs : List Sector := (cutPieces bs ps).map fun p => bufSector i p.2.2 p.1 [] p.2.1
        let s : State := { s with cmds := s.cmds ++ [e.ctxCmd i (some slot) (.rdctx cid va bs d.toNat) xs] }
        s.updCtx e.cid fun c => (c.countSlot slot).advance e.e 1 e.now none

/-- RDCTX_COPY_COMPLETE (13 R307): the image is in the buffer, the status in DST, and the slot falls. -/
def execRdctxCopyComplete (cmd : Nat) (s : State) : Out :=
  match s.cmd? cmd with
  | none => .next s
  | some c =>
    match c.kind with
    | .rdctx _ _ _ dst =>
      let s := c.sectors.foldl (fun s x => s.refStore x.dst (x.data.map (·.2))) (s.delCmd cmd)
      let done (x : Ctx) : Ctx :=
        let x := match c.slot with
          | some k => x.completeSlot k 0 0
          | none => x
        { x with sregs := mset x.sregs dst 0 0 }
      .next ((s.updCtx c.ctx done).mirrorCtx c.ctx)
    | _ => .next s

/-- WRCTX (13 R307): its path is held at issue until the write has ended. -/
def execWrctx (d : BitVec 6) (a b : BitVec 7) (s : State) : Out :=
  withIssuer s fun e =>
    let busy (x : Cmd) : Bool := x.ctx = e.cid && match x.kind with
      | .wrctx _ _ k _ => k = e.e
      | _ => false
    if e.s.cmds.any busy then e.hold 15
    else e.agent d.toNat a.toNat (scalarPairDefects b.toNat) fun s cid c =>
      let va := e.pairVal b.toNat
      e.buffer s 1 va 512 fun s ps =>
        let live := ((ps.head?).map fun p => (s.byte (refCell p.1)).toNat).getD 0
        let n := 512 + ((List.range 8).filter fun w => nbit live w).length * 32 * c.width
        e.buffer s 1 va n fun s ps =>
          let (i, s) := s.fresh
          let xs : List Sector := ps.map fun p => bufSector i p.2.2 p.1 [(0, p.1, p.2.1)] []
          { s with cmds := s.cmds ++ [e.ctxCmd i none (.wrctx cid va e.e d.toNat) xs] }

/-- WRCTX_WRITE_END (13 R307): the image is written into the group, or found invalid with nothing written; the status is in DST and the
word is past. -/
def execWrctxWriteEnd (cmd : Nat) (s : State) : Out :=
  match s.cmd? cmd with
  | none => .next s
  | some c =>
    match c.kind with
    | .wrctx target _ entry dst =>
      let bs := c.sectors.flatMap fun x => x.pieces.flatMap fun p => s.refBytes p.2.1 p.2.2
      let s := s.delCmd cmd
      let (s, v) := match s.ctx? target with
        | none => (s, 6)
        | some t => if imgBad t bs then (s, 5) else ((s.setCtx target (t.writeImage bs (s.now t.gc))).mirrorCtx target, 0)
      .next (s.updCtx c.ctx fun x => { x with sregs := mset x.sregs dst (BitVec.ofNat 32 v) 0 }.advance entry 1 (s.now x.gc) none)
    | _ => .next s

/-- RESUME (13 R308): the target, and with bit 0 every unit its stop event stopped. -/
def execResume (d : BitVec 6) (a b : BitVec 7) (s : State) : Out :=
  withIssuer s fun e =>
    e.agent d.toNat a.toNat (e.scalarDefects .i32 b.toNat) fun s cid c =>
      let w := e.read .i32 b.toNat 0
      if 2 ≤ w then e.status s d.toNat 4
      else
        let ev := match c.stop with
          | some t => some t.ev
          | none => c.pathStop.map (·.ev)
        let s := match ev with
          | some k => if w = 1 then s.resumeEvent k else s
          | none => s
        e.status (s.resumeGroup cid) d.toNat 0

end Sys2Proof.Machine
end

