-- ==== Sys2Proof/Machine/Faults.lean ====
section
/-! DEFINITION. The end of a group (13 R288), engine reports reaching a group (15 R334, R335), retry and kill of parked groups
(15 R331), and the kill of a partition (15 R337). -/

namespace Sys2Proof.Machine

/-! ## The end of a group -/

/-- A report received by a context that is gone: another part of its group holds it, or its elements are discarded (15 R335). -/
def State.orphanReports (s : State) (cid : Nat) (other : Option Nat) : State :=
  match other with
  | some k => { s with reports := s.reports.map fun r => if r.receiver = some cid then { r with receiver := some k } else r }
  | none => (s.reports.filter fun r => r.receiver = some cid).foldl (fun s r => s.discardReport r) s

/-- Groups and parts of a group that are left beside a context. -/
def State.restOf (s : State) (cid : Nat) (c : Ctx) : List (Nat × Ctx) :=
  s.ctxs.filter fun kc => kc.1 ≠ cid && kc.2.team = c.team && kc.2.gidx = c.gidx && kc.2.alive

/-- GROUP_END (13 R288): the last lane has exited, every access has performed, ANCHOR and every slot are zero. The part or group ends; a
group leaves every expected set, and with the last group its team ends (14 R318). The end of a group in another package is told as a
management flit (05 Table 5-2). -/
def execGroupEnd (cid : Nat) (s : State) : Out :=
  match s.ctx? cid with
  | none => .next s
  | some c =>
    let resident := c.place = .active || c.place = .pending
    let done := resident && c.lanes = 0 && c.stop.isNone && c.visits.isEmpty && !(s.accs.any fun a => a.ctx = cid) && c.anchor = 0 &&
      (List.range 8).all fun k => mget c.wslot k 0 = 0
    if !done then .next s else
    let s := s.trace cid 7 (departWord 3 (gsOf c.gc) (coreNo c.gc) 0)
    let rest := s.restOf cid c
    let s := (s.orphanReports cid (rest.head?.map (·.1))).dropCtx cid
    let s := s.sendFlit (gsOf c.gc) (gsOf c.baseGc) (planeOf (gsOf c.gc)) 5 0
    match rest with
    | _ :: _ => .next s
    | [] =>
      let s := s.updStk (gsOf c.birthGc) fun k => { k with privUsed := k.privUsed.filter fun w => w.1 ≠ c.groupKey }
      let s := s.updTeam c.team fun t => { t with left := t.left.filter (· ≠ c.gidx) }
      .next (((s.releaseBars c.team).settleAtReg).endTeam c.team)

/-! ## Reports (15 R334) -/

/-- The context with the issuing lane, else the first. -/
def pickLane (l : Nat) (cs : List (Nat × Ctx)) : Option (Nat × Ctx) :=
  match cs.find? fun kc => kc.2.lanes.getLsbD l with
  | some kc => some kc
  | none => cs.head?

/-- The path whose clause issues next, where it stands at its boundary. -/
def State.nextClausePath (s : State) (cid : Nat) (c : Ctx) : Option Nat :=
  match s.bestPath c.gc cid c ((List.range 8).filter c.runnable) with
  | some e => if (c.path e).started then none else some e
  | none => none

/-- DETAIL of a report (15 Table 15-2): for a copy or an epilogue store the elements parked under it. -/
def State.reportDetail (s : State) (r : Report) : Nat :=
  if r.code = 0x60 || r.code = 0x62 then
    ((s.cmd? r.cmd).map fun c => (c.sectors.filter fun x => match x.st with
      | .parked _ k => decide (k = r.id)
      | _ => false).length).getD 0
  else r.detail

/-- Set the place of a report. -/
def State.setReport (s : State) (r : Report) : State := { s with reports := s.reports.map fun x => if x.id = r.id then r else x }

/-- Is a landing of a group still to be told: a context of it under way, or a notice (15 R334)? -/
def State.landingDue (s : State) (tk g : Nat) : Bool :=
  (s.ctxs.any fun kc => kc.2.team = tk && kc.2.gidx = g && kc.2.place = .moving) || s.notices.any fun n => n.team = tk && n.gidx = g

/-- The birth core sends a report to the stack on which its group last landed; where none of the group stands there and no landing is still
to be told, to the part with the issuing lane (log 88, DESIGN CHOICE). One that came back waits for the next landing. -/
def State.sendReport (s : State) (t : Team) (g : Nat) (r : Report) : State :=
  let birth := gsOf t.baseGc
  let due := s.landingDue r.team g
  let noted := mget t.noted g 0
  if due && decide (noted < r.after) then s else
  let cs := s.liveCtxs r.team g
  let last := (mfind t.landedAt g).getD birth
  let dst := if due || cs.any fun kc => gsOf kc.2.gc = last then last else ((pickLane r.lane cs).map fun kc => gsOf kc.2.gc).getD last
  let (i, s) := s.fresh
  (s.setReport { r with
    sentTo := some dst
    msg := i
    after := noted + 1 }).sendFlit birth dst (planeOf birth) 5 i

/-- A report that finds its group gone goes back to the birth core (15 R334). -/
def State.returnReport (s : State) (r : Report) : State := s.setReport { r with sentTo := none }

/-- Does a context take a report at once: at the boundary of the path that issues next, outside a handler? -/
def State.takesReport (s : State) (cid : Nat) (c : Ctx) : Option Nat :=
  let free := (c.place = .active || c.place = .pending) && !c.inHandler && c.stop.isNone && c.parked.isNone && c.depart.isNone &&
    c.split.isEmpty && c.chain.isEmpty
  if free then s.nextClausePath cid c else none

/-- The group enters its handler for a report, by path `e` (13 R299, 15 R334). -/
def State.receiveReport (s : State) (r : Report) (cid : Nat) (c : Ctx) (e : Nat) : State :=
  let c := c.setPath e (c.path e).unfetch
  let pc := (c.path e).pc
  let lanes : Mask := BitVec.ofNat 64 (s.reportDetail r % 2 ^ 32 * 2 ^ 32 + r.lane)
  ((s.setCtx cid c).setReport { r with receiver := some cid }).takeTrap cid e pc
    ⟨r.code, r.cause, r.level, r.acls, r.qpos, true, r.addr, r.pc, lanes⟩

/-- REPORT_DELIVERY (15 R334): the report goes from the birth core to the stack its group last landed on; there the oldest report of a group is
received at the boundary of the path that issues next, outside a handler; one whose group has left goes back. With nobody to receive it,
its code goes to the launch's STATUS, a record to the fault log, and its elements are discarded; its sibling teams are killed where KILLSIB asks
it (14 R318). -/
def execReportDelivery (report : Nat) (s : State) : Out :=
  match s.reports.find? fun r => r.id = report && r.receiver.isNone with
  | none => .next s
  | some r =>
    match s.team? r.team with
    | none => .next { s with reports := s.reports.filter fun x => x.id ≠ report }
    | some t =>
      let birth := gsOf t.baseGc
      match s.reportGroup r with
      | none => .next (((s.unreceived t r).discardReport r).killSiblings t.launch r.team)
      | some g =>
        match r.sentTo with
        | none => .next (s.sendReport t g r)
        | some dst =>
          if !s.reaches birth dst then .next (s.returnReport r)
          else if !s.handed birth dst r.msg 1 then .next s
          else
            let there := (s.liveCtxs r.team g).filter fun kc => gsOf kc.2.gc = dst && kc.2.place ≠ .moving
            match pickLane r.lane there with
            | none => .next ((s.consume birth dst r.msg).returnReport r)
            | some (cid, c) =>
              let earlier := (s.reports.takeWhile fun x => x.id ≠ report).any fun x =>
                x.receiver.isNone && x.team = r.team && s.reportGroup x = some g
              match if earlier then none else s.takesReport cid c with
              | none => .next s
              | some e => .next ((s.consume birth dst r.msg).receiveReport r cid c e)

/-! ## Parked groups (15 R331) -/

/-- The group parked at a place of a stack. -/
def State.parkedAt (s : State) (gs place : Nat) : Option (Nat × Ctx) :=
  s.ctxs.find? fun kc => kc.2.residentOn kc.2.gc && match kc.2.parked with
    | some p => p.gs = gs && p.place = place
    | none => false

/-- A write of FAULT_RETRY: the parked group is probed again, or its launch is killed; a place without it sets ERR. -/
def State.writeRetry (s : State) (gs value : Nat) : State :=
  match s.parkedAt gs (bits value 0 11) with
  | none => s.updStk gs fun k => { k with retryErr := true }
  | some (cid, c) => if nbit value 11 then s.killLaunch c.launch 0xA2 else s.setCtx cid { c.unpark with stall := 15 }

/-- FAULT_RETRY (15 R331). -/
def execFaultRetry (gs place : Nat) (s : State) : Out := .next (s.writeRetry gs (place % 2048))

/-- FAULT_KILL (15 R331): FAULT_RETRY with KILL 1. -/
def execFaultKill (gs place : Nat) (s : State) : Out := .next (s.writeRetry gs (2048 + place % 2048))

/-! ## Killing a partition (15 R337) -/

/-- Packages a partition spans: the one the host kills it on, and those of its stacks (log 16, DEDUCED). -/
def State.partPkgs (s : State) (pkg pslot : Nat) : List Nat := addNew ((s.partStacks pslot).map pkgOf).eraseDups pkg

/-- The halt line of a partition falls, and its first fatal codes are past (15 R332, R337). -/
def State.clearLine (s : State) (pslot : Nat) : State :=
  let freeStk (kk : Nat × Stack) : Nat × Stack := (kk.1, { kk.2 with
    firsts := kk.2.firsts.filter fun f => f.1 ≠ pslot
    lines := kk.2.lines.filter fun l => l.1 ≠ pslot })
  let freeCore (kk : Nat × Core) : Nat × Core := (kk.1, { kk.2 with lineStop := kk.2.lineStop.filter fun t => t.1 % 16 ≠ pslot })
  { s with
    stks := s.stks.map freeStk
    cores := s.cores.map freeCore
    stops := s.stops.filter fun m => !(m.line && m.pslot = pslot) }

/-- PARTITION_KILL (15 R337): every launch of the partition is DONE with its first code, else FIRST, else 0xA2; held posts of it are
discarded, and the line falls. -/
def execPartitionKill (pkg pslot : Nat) (s : State) : Out :=
  let ps := s.partPkgs pkg pslot
  let mine (kl : Nat × Launch) : Bool := ps.contains kl.2.pkg && kl.2.pslot = pslot && !kl.2.desc.agent
  let lks := (s.launches.filter fun kl => mine kl && kl.2.busy).map (·.1)
  let firsts := (s.partStacks pslot).filterMap fun gs => ((s.stk gs).firsts.find? fun f => f.1 = pslot).map (·.2)
  let code := firsts.headD 0xA2
  let heldPost (m : Msg) : Bool := m.held.isSome && match m.body with
    | .post p => lks.contains p.launch
    | _ => false
  let s := lks.foldl (fun s k => s.killLaunch k code) s
  let s : State := { s with chan := s.chan.filter fun m => !heldPost m }
  .next (s.clearLine pslot).flushAll

end Sys2Proof.Machine
end

