-- ==== Sys2Proof/Machine/Sched.lean ====
section
/-! DEFINITION. From launch to issue (14 R309-R323): launch checks and records, placing teams, core temperature and droop, and the
active sets. -/

namespace Sys2Proof.Machine

/-! ## Launch checks (14 R311, R312) -/

/-- A field of a descriptor: `n` bits from bit `b` of byte `off`. -/
def descField (bs : List Byte) (off b n : Nat) : Nat := bits (ofBytes ((bs.drop off).take 8)) b n

/-- The device kernel descriptor as it stands in memory (14 Table 14-1). -/
def Desc.ofBytes (bs : List Byte) : Desc where
  width := 16 * 2 ^ descField bs 0 8 2
  regs := descField bs 0 10 7
  team := descField bs 0 17 7
  pair := descField bs 0 24 1 = 1
  quad := descField bs 0 25 1 = 1
  debug := descField bs 0 26 1 = 1
  agent := descField bs 0 27 1 = 1
  killsib := descField bs 0 28 1 = 1
  priority := descField bs 0 30 6
  ceiling := descField bs 0 36 6
  split := descField bs 0 42 5
  code := descField bs 8 0 64
  entry := descField bs 0x10 0 32
  trap := descField bs 0x10 32 32
  scratch := descField bs 0x18 0 32
  priv := descField bs 0x18 32 32
  gx := descField bs 0x20 0 32
  gy := descField bs 0x20 32 32
  gz := descField bs 0x28 0 32
  hstride := descField bs 0x30 0 64
  hintarg := descField bs 0x38 0 16
  hinten := descField bs 0x38 16 1 = 1

/-- Are the reserved bits of a descriptor zero? -/
def descReservedZero (bs : List Byte) : Bool :=
  descField bs 0 29 1 = 0 && descField bs 0 47 17 = 0 && descField bs 0x28 32 32 = 0 && descField bs 0x38 17 47 = 0

/-- Is every field of a descriptor in range (14 Table 14-1, 06 Table 6-18)? `area` is the size of the stack's private area. -/
def Desc.inRange (d : Desc) (area : Nat) : Bool :=
  let two := b2n d.pair + 1
  d.width ≤ 64 && 1 ≤ d.regs && d.regs ≤ 64 && two ≤ d.team && d.team ≤ 32 * two &&
    (!d.quad || (d.team % 4 = 0 && d.team ≤ 8 * two)) && d.priority ≤ d.ceiling && 1 ≤ d.split && d.split ≤ 16 &&
    d.code % 4 = 0 && d.entry % 4 = 0 && (d.trap = 0xFFFFFFFF || d.trap % 4 = 0) &&
    d.scratch % (128 * two) = 0 && d.scratch ≤ 0x80000 * two && d.priv % 128 = 0 && d.priv ≤ area &&
    1 ≤ d.gx && 1 ≤ d.gy && 1 ≤ d.gz && d.gx * d.gy * d.gz ≤ 2 ^ 32 && d.hintarg % 8 = 0

/-- Windows of a group at birth (06 R107). -/
def Desc.windows (d : Desc) : Nat := (d.regs + 7) / 8

/-- Granules of a group at birth (14 R315). -/
def Desc.gran (d : Desc) : Nat := d.windows * (d.width / 16)

/-- Groups on the base core, and on the other core of a pair (14 R315). -/
def Desc.perCore (d : Desc) : Nat × Nat :=
  if !d.pair then (d.team, 0)
  else if d.quad then (min 8 d.team, d.team - 8)
  else ((d.team + 1) / 2, d.team / 2)

/-- Scratchpad lines on each core. -/
def Desc.lines (d : Desc) : Nat := (if d.pair then d.scratch / 2 else d.scratch) / 128

/-- Does a team fit an empty core (14 Table 14-2, check 3)? -/
def Desc.fitsEmpty (d : Desc) : Bool := max d.perCore.1 d.perCore.2 * d.gran ≤ 1536

/-- Size of a stack's private area (17 R380). -/
def State.privArea (s : State) (gs : Nat) : Nat := (s.stk gs).privSize * 65536

/-- Who a launch's own checks ask as. -/
def Launch.asker (l : Launch) : Asker := ⟨l.gs, none, l.pslot, l.user⟩

/-- Is the record place of a launch held by another that is not DONE (14 R313)? -/
def State.placeHeld (s : State) (key : Nat) (l : Launch) : Bool :=
  s.launches.any fun kl => kl.1 ≠ key && kl.2.pkg = l.pkg && kl.2.checked && !kl.2.bank && kl.2.busy && kl.2.id % 16384 = l.id % 16384

/-- The launch record (14 Table 14-3). -/
def Launch.record (l : Launch) (d : Desc) : List Byte :=
  bytesOf 8 l.args ++ bytesOf 8 l.khandle ++ bytesOf 4 d.gx ++ bytesOf 4 d.gy ++ bytesOf 4 d.gz ++ bytesOf 4 l.id ++ bytesOf 32 0

/-- Write a launch's record on every stack of its package (14 R313). -/
def State.putLaunchRecord (s : State) (l : Launch) (d : Desc) : State :=
  (List.range 16).foldl (fun s k => s.cellStore (sharedPa (16 * l.pkg + k) (0x1B00000 + l.id % 16384 * 64)) (l.record d)) s

/-- The stack a bank kernel goes to (04 R86): the one that holds its row set, else the accepting one, whose checks refuse it. -/
def State.bankStack (s : State) (l : Launch) : State × Nat :=
  match s.readSpan l.asker 1 l.args 8 with
  | (s, .error _) => (s, l.gs)
  | (s, .ok bs) =>
    match s.probeVa l.asker ⟨0, 1, true, true, false⟩ (ofBytes bs) with
    | (s, .ok (pa, 0)) => (s, paGs pa)
    | (s, _) => (s, l.gs)

/-- Check 1 of 14 Table 14-2 after the descriptor: the argument block with RD, CODE + ENTRY with EX; the failing code and address. -/
def State.launchSpans (s : State) (l : Launch) (d : Desc) : State × Option (Nat × Nat) :=
  match s.probeVa l.asker ⟨1, 1, true, true, false⟩ l.args with
  | (s, .error m) => (s, some (m.1, l.args))
  | (s, .ok _) =>
    let pc := (d.code + d.entry) % 2 ^ 64
    match s.probeVa l.asker ⟨10, 4, true, true, false⟩ pc with
    | (s, .error m) => (s, some (m.1, pc))
    | (s, .ok _) => (s, none)

/-- Is a bank launch of the package that was accepted earlier still to be read (04 R86: acceptance order)? -/
def State.bankBefore (s : State) (key : Nat) (l : Launch) : Bool :=
  s.launches.any fun kl => decide (kl.1 < key) && kl.2.pkg = l.pkg && kl.2.state = .queued && !kl.2.checked &&
    match (s.readSpan kl.2.asker 1 kl.2.khandle 64).2 with
    | .ok bs => descField bs 0 0 8 = 2
    | .error _ => false

/-- LAUNCH_CHECK (14 R312, R313; 04 R84, R86): the first failing check refuses the launch; a device launch that passes has its record
written, or stays QUEUED and ages while its record's place is held; a bank launch goes to the stack of its row set, in acceptance order. -/
def execLaunchCheck (launch : Nat) (s : State) : Out :=
  match s.launch? launch with
  | none => .next s
  | some l =>
    if l.state ≠ .queued || l.checked then .next s else
    if l.khandle % 64 ≠ 0 then .next (s.refuse launch 0x07 l.khandle) else
    match s.readSpan l.asker 1 l.khandle 64 with
    | (s, .error (v, m)) => .next (s.refuse launch m.1 v)
    | (s, .ok bs) =>
      let kind := descField bs 0 0 8
      if kind = 2 then
        if s.bankBefore launch l then .next s else
        let (s, gs) := s.bankStack l
        let s := s.updLaunch launch fun l => { l with
          checked := true
          bank := true }
        .next (s.updStk gs fun k => { k with bankQueue := k.bankQueue ++ [BankRun.queued launch] })
      else
        let d := Desc.ofBytes bs
        match s.launchSpans l d with
        | (s, some (code, v)) => .next (s.refuse launch code v)
        | (s, none) =>
          let fromQueue := match l.src with
            | .queue .. => !l.user
            | .notify .. => false
          if kind ≠ 1 || !descReservedZero bs || !d.inRange (s.privArea l.gs) || !d.fitsEmpty then .next (s.refuse launch 0x02 0)
          else if d.agent && !fromQueue then .next (s.refuse launch 0x08 0)
          else
            let l' := if l.desc = noDesc then { l with
              desc := d
              prio := d.priority
              agedAt := s.stkNow l.gs } else { l with desc := d }
            if s.placeHeld launch l then .next (s.setLaunch launch l')
            else .next ((s.setLaunch launch { l' with checked := true }).putLaunchRecord l d)

/-- Has a launch teams still to place? -/
def Launch.waits (l : Launch) : Bool := l.busy && l.checked && !l.bank && decide (l.nextTeam < l.total)

/-- Has a launch teams not yet placed that count its age: a device launch past its checks (14 R310), its record's place held or not? -/
def Launch.ages (l : Launch) : Bool := l.busy && !l.bank && (l.checked || l.desc ≠ noDesc) && decide (l.nextTeam < l.total)

/-- PRIORITY_AGING (14 R310). -/
def execPriorityAging (launch : Nat) (s : State) : Out :=
  match s.launch? launch with
  | none => .next s
  | some l =>
    let now := s.stkNow l.gs
    if l.ages && decide (1048576 ≤ now - l.agedAt) then
      .next (s.setLaunch launch { l with
        prio := if l.prio < l.desc.ceiling then l.prio + 1 else l.prio
        agedAt := now })
    else .next s

/-! ## Where a team goes (14 R314, R315; 19 R399) -/

/-- Target stack of a launch's next team (14 R314). -/
def State.teamTarget (s : State) (l : Launch) : State × Nat :=
  let plain := 16 * l.pkg + (l.gs % 16 + l.nextTeam) % 16
  if !l.desc.hinten then (s, plain) else
  match s.readSpan l.asker 1 (l.args + l.desc.hintarg) 8 with
  | (s, .error _) => (s, plain)
  | (s, .ok bs) =>
    match s.probeVa l.asker ⟨0, 1, true, true, false⟩ ((ofBytes bs + l.nextTeam * l.desc.hstride) % 2 ^ 64) with
    | (s, .ok (pa, 0)) => (s, paGs pa)
    | (s, _) => (s, plain)

/-- Group places taken on a core, those of contexts being restored among them. -/
def State.placesUsed (s : State) (gc : Nat) : Nat := (s.residents gc).length + (s.ctxs.filter (s.returning gc)).length

/-- The line runs held on some cores, but those of the teams named: first line and end. -/
def State.lineRuns (s : State) (cores : List Nat) (but : List Nat) : List (Nat × Nat) :=
  ((cores.flatMap s.teamsOn).filter fun kt => !but.contains kt.1 && kt.2.linesPer ≠ 0).map fun kt => (kt.2.firstLine, kt.2.firstLine + kt.2.linesPer)

/-- The lowest line at which every core has a free run of `n` lines, without the teams of `but` (19 R399). -/
def State.lineSpot (s : State) (cores : List Nat) (n : Nat) (but : List Nat) : Option Nat :=
  let runs := s.lineRuns cores but
  let free (f : Nat) : Bool := f + n ≤ 4096 && !(runs.any fun r => decide (r.1 < f + n) && decide (f < r.2))
  if n = 0 then some 0
  else leastBy (fun a b => decide (a ≤ b)) ((0 :: runs.map (·.2)).filter free)

/-- Cores a team would take with base core `gc`. -/
def Desc.cores (d : Desc) (gc : Nat) : List Nat := if d.pair then [gc, gc + 1] else [gc]

/-- Groups and quads a team brings to each of its cores. -/
def Desc.loads (d : Desc) (gc : Nat) : List (Nat × Nat) :=
  let (a, b) := d.perCore
  if d.pair then [(gc, a), (gc + 1, b)] else [(gc, a)]

/-- Matrix slots `n` groups take. -/
def Desc.slots (d : Desc) (n : Nat) : Nat := if d.quad then n / 4 else 0

/-- Does one core take its share: places, windows, matrix slots, lines (14 R315)? -/
def State.coreFits (s : State) (d : Desc) (gcn : Nat × Nat) : Bool :=
  let (gc, n) := gcn
  s.placesUsed gc + n ≤ 64 && n * d.gran ≤ s.freeG gc && d.slots n ≤ s.freeM gc && d.lines ≤ s.freeL gc

/-- Does a team fit with base core `gc`? Answers its first line. -/
def State.teamFits (s : State) (d : Desc) (gc : Nat) : Option Nat :=
  if (d.loads gc).all (s.coreFits d) then s.lineSpot (d.cores gc) d.lines [] else none

/-- Base cores of a stack: every core, or the even ones for a pair. -/
def Desc.bases (d : Desc) (gs : Nat) : List Nat := ((List.range 24).filter fun c => !d.pair || c % 2 = 0).map (· + 24 * gs)

/-- A core's part of the score (14 R315). -/
def State.coreScore (s : State) (d : Desc) (gcn : Nat × Nat) : Int :=
  let (gc, n) := gcn
  ((s.freeG gc - n * d.gran + (s.freeL gc - d.lines) / 4 + 512 * (s.freeM gc - d.slots n) : Nat) : Int) -
    (if (s.core gc).hot then 1024 else 0) - (if (s.core gc).avoid then 4096 else 0)

/-- The score of a team with base core `gc`: the sum over its cores. -/
def State.score (s : State) (d : Desc) (gc : Nat) : Int := ((d.loads gc).map (s.coreScore d)).foldl (· + ·) 0

/-- The fitting core or pair of highest score, ties to the lowest, with the team's first line (14 R315). -/
def State.bestSpot (s : State) (d : Desc) (gs : Nat) : Option (Nat × Nat) :=
  let fits := (d.bases gs).filterMap fun gc => (s.teamFits d gc).map fun f => (gc, f)
  leastBy (fun a b => decide (s.score d b.1 ≤ s.score d a.1)) fits

/-! ## Private windows (03 R47, 17 R380) -/

/-- The lowest free offset of `n` bytes in a private area. -/
def privSpot (used : List (Nat × Nat × Nat)) (n area : Nat) : Option Nat :=
  let free (o : Nat) : Bool := o + n ≤ area && !(used.any fun w => decide (w.2.1 < o + n) && decide (o < w.2.1 + w.2.2))
  leastBy (fun a b => decide (a ≤ b)) ((0 :: used.map fun w => w.2.1 + w.2.2).filter free)

/-- Carve a window of `n` bytes for each key; none where one does not fit. -/
def carve (n area : Nat) : List Nat → List (Nat × Nat × Nat) → Option (List (Nat × Nat × Nat))
  | [], used => some used
  | k :: ks, used =>
    match privSpot used n area with
    | some o => carve n area ks (used ++ [(k, o, n)])
    | none => none

/-- The windows of a stack with those of a new team's groups. -/
def State.carveTeam (s : State) (gs tk : Nat) (d : Desc) : Option (List (Nat × Nat × Nat)) :=
  if d.priv = 0 then some (s.stk gs).privUsed
  else carve d.priv (s.privArea gs) ((List.range d.team).map fun g => tk * 64 + g) (s.stk gs).privUsed

/-- Zero a run of memory: cells, poison marks, and the errors of its columns. -/
def State.zeroRun (s : State) (pa n : Nat) : State :=
  let within (a : Nat) : Bool := decide (pa ≤ a) && decide (a < pa + n)
  let s : State := { s with
        mem := s.mem.filter fun kv => !within kv.1
        poison := s.poison.filter fun kv => !within (32 * kv.1) }
  let gs := paGs pa
  if !isDram (paLoc pa) then s
  else s.updStk gs fun k =>
    let keep (r : Nat) (e : Nat × Bool × Nat) : Bool := !within (colPa gs (r / 24576) (r % 24576) e.1)
    { k with errs := (k.errs.map fun (re : Nat × List (Nat × Bool × Nat)) => (re.1, re.2.filter (keep re.1))).filter fun re => !re.2.isEmpty }

/-! ## Placing (14 R315, R317) -/

/-- The core a group is born on. -/
def Desc.birthCore (d : Desc) (gc g : Nat) : Nat := if g < d.perCore.1 then gc else gc + 1

/-- Matrix slots of a new team: its quads in order take the lowest free slots of their core. -/
def State.teamSlots (s : State) (d : Desc) (gc : Nat) : List (Nat × Nat) :=
  (d.loads gc).flatMap fun x =>
    (((List.range 2).filter fun m => !(s.slotsUsed x.1).contains m).take (d.slots x.2)).map fun m => (x.1, m)

/-- The context of a new group (07 Table 7-1). -/
def Launch.bear (l : Launch) (key tk g gc birth place priv now : Nat) : Ctx :=
  let d := l.desc
  let all : Mask := BitVec.ofNat 64 (2 ^ d.width - 1)
  let path : Path := { freePath with
    v := true
    pc := d.entry
    mask := all
    since := now
    lastIssue := now }
  { birthCtx with
    team := tk
    launch := key
    gidx := g
    pslot := l.pslot
    user := l.user
    debug := d.debug
    width := d.width
    walloc := d.windows
    live := BitVec.ofNat 8 (2 ^ d.windows - 1)
    birthGc := birth
    baseGc := gc
    trap := d.trap
    codeBase := d.code
    privBase := priv
    lanes := all
    paths := path :: List.replicate 7 freePath
    splitB := d.split
    gc := birth
    slotNo := place
    since := now
    activeAt := now
    bornAt := now }

/-- Clear what a new team's scratchpad lines and matrix slots hold: zeros, present, no poison, no marks (03 R63, 11 R238). -/
def State.clearCells (s : State) (t : Team) : State :=
  let s := t.cores.foldl (fun s gc =>
    let pa := scratchPa gc (t.firstLine * 128)
    let n := t.linesPer * 128
    let s := s.zeroRun pa n
    { s with absent := s.absent.filter fun kv => !(decide (lineOf pa ≤ kv.1) && decide (kv.1 < lineOf (pa + n))) }) s
  t.mslots.foldl (fun s m =>
    let mine (a : Nat) : Bool := decide (m.2 * 0x20000 ≤ a) && decide (a < (m.2 + 1) * 0x20000)
    s.updCore m.1 fun k => { k with
      tiles := k.tiles.filter fun kv => !mine kv.1
      marks := k.marks.filter fun kv => !mine kv.1 }) s

/-- A group is born on its core, pending (14 R317); under a stop of its launch it is born stopped (16 R360). -/
def State.bornGroup (s : State) (key : Nat) (l : Launch) (tk gc g : Nat) : State :=
  let d := l.desc
  let birth := d.birthCore gc g
  let gs := gsOf gc
  let win := ((s.stk gs).privUsed.find? fun w => w.1 = tk * 64 + g).map fun w => paOf gs (bits (s.stk gs).privBase.toNat 16 26 * 65536 + w.2.1)
  let (cid, s) := s.fresh
  let s := (match win with
    | some pa => s.zeroRun pa d.priv
    | none => s)
  let s := s.setCtx cid (l.bear key tk g gc birth (s.freePlace birth) (win.getD 0) (s.now birth))
  let s := s.traceOpen cid
  if l.bornStopped then
    match s.ctx? cid with
    | some c =>
      let (ev, s) := s.fresh
      s.stopGroup cid ev 0x82 { groupRec s c 0 0x82 with aux := 6 }
    | none => s
  else s

/-- A team is placed with base core `gc` and first line `line` (14 R317). -/
def State.placeTeam (s : State) (key : Nat) (l : Launch) (gc line : Nat) : State :=
  let d := l.desc
  let lin := l.nextTeam
  let (tk, s) := s.fresh
  match s.carveTeam (gsOf gc) tk d with
  | none => s
  | some used =>
    let t : Team := ⟨key, lin, lin % d.gx, lin / d.gx % d.gy, lin / (d.gx * d.gy), gc, d.pair, line, d.scratch, s.teamSlots d gc, d.team,
      List.range d.team, [], [], [], [], [], [], none⟩
    let (stamp, s) := s.fresh
    let s := (s.updStk (gsOf gc) fun k => { k with privUsed := used }).clearCells t
    let s := (s.setTeam tk t).setLaunch key { l with
      state := .running
      nextTeam := lin + 1
      served := stamp
      agedAt := s.stkNow l.gs }
    (List.range d.team).foldl (fun s g => s.bornGroup key l tk gc g) s

/-- Does the halt line of a process slot stand raised on a stack (15 R336, R337)? -/
def State.lineUp (s : State) (gs pslot : Nat) : Bool := (s.stk gs).lines.any fun l => l.1 = pslot

/-- Launches of a package that wait, with the stack their next team is for. -/
def State.launchesWaiting (s : State) (pkg : Nat) : List (Nat × Launch × Nat) :=
  (s.launches.filter fun kl => kl.2.pkg = pkg && kl.2.waits).map fun kl => (kl.1, kl.2, (s.teamTarget kl.2).2)

/-- Effective priority of the launch of a team. -/
def State.teamPrio (s : State) (tk : Nat) : Nat := (((s.team? tk).bind fun t => s.launch? t.launch).map (·.prio)).getD 0

/-- Have the cores contexts were born on windows and places free for them (14 R321)? -/
def State.windowsFit (s : State) (cs : List (Nat × Ctx)) : Bool :=
  ((cs.map (·.2.birthGc)).eraseDups).all fun gc =>
    let mine := cs.filter fun kc => kc.2.birthGc = gc
    ((mine.map fun kc => kc.2.granules).foldl (· + ·) 0) ≤ s.freeG gc && s.placesUsed gc + mine.length ≤ 64

/-- Are a team's lines and slots free on its cores? -/
def State.cellsFit (s : State) (tk : Nat) (t : Team) : Bool :=
  let runs := s.lineRuns t.cores [tk]
  !(runs.any fun r => decide (r.1 < t.firstLine + t.linesPer) && decide (t.firstLine < r.2)) &&
    t.mslots.all fun m => !(s.slotsUsed m.1).contains m.2

/-- Contexts of an image that return together: all of a team's; of evicted groups one group's, or one quad's (11 R265). -/
def State.returnUnit (s : State) (i : SaveImg) (c : Ctx) : List (Nat × Ctx) :=
  let quad := ((s.launch? c.launch).map (·.desc.quad)).getD false
  (s.imageCtxs i).filter fun kd => i.whole || (if quad then kd.2.gidx / 4 = c.gidx / 4 else kd.2.gidx = c.gidx)

/-- The contexts of an image that may return now, none where nothing may (14 R321): the first unit that fits, while no launch above its
priority has a team waiting for the stack; a whole team with its lines and slots. -/
def State.returnSet (s : State) (i : SaveImg) : Option (List Nat) :=
  match s.team? i.team with
  | none => none
  | some t =>
    let gs := gsOf t.baseGc
    let free := if i.whole then s.cellsFit i.team t else t.saved.isNone
    let above := (s.launchesWaiting (pkgOf gs)).any fun w => w.2.2 = gs && decide (s.teamPrio i.team < w.2.1.prio)
    let units := if i.taken.isEmpty then [[]] else (s.imageCtxs i).map fun kc => s.returnUnit i kc.2
    if i.phase ≠ .saved || !free || above then none
    else (units.find? s.windowsFit).map fun cs => cs.map (·.1)

/-- May something of an image return now? -/
def State.canReturn (s : State) (i : SaveImg) : Bool := (s.returnSet i).isSome

/-- Does a returning image of the same priority go before a new team on a stack (14 R321)? -/
def State.returnFirst (s : State) (gs prio : Nat) : Bool :=
  s.saves.any fun i => ((s.team? i.team).map fun t => decide (gsOf t.baseGc = gs)).getD false && s.teamPrio i.team = prio && s.canReturn i

/-- The launches a dispatcher serves, in order: highest effective priority, then least recent service (14 R310). -/
def serveOrder (ls : List (Nat × Launch)) : List (Nat × Launch) :=
  sortBy (fun (kl : Nat × Launch) => [64 - kl.2.prio, kl.2.served, kl.1]) ls

/-- Place the next team of the first launch whose team fits; a launch whose team fits nowhere is passed over. -/
def State.placeFirst (s : State) : List (Nat × Launch) → State
  | [] => s
  | (key, l) :: rest =>
    let (s, gs) := s.teamTarget l
    match s.bestSpot l.desc gs, s.carveTeam gs 0 l.desc with
    | some (gc, line), some _ => if s.lineUp gs l.pslot || s.returnFirst gs l.prio then s.placeFirst rest else s.placeTeam key l gc line
    | _, _ => s.placeFirst rest

/-- TEAM_PLACE (14 R310, R314, R315, R317): the dispatcher of a stack places one team. -/
def execTeamPlace (gs : Nat) (s : State) : Out :=
  .next (s.placeFirst (serveOrder (s.launches.filter fun kl => kl.2.gs = gs && kl.2.waits)))

/-! ## Temperature and droop (14 R316, R319) -/

/-- A core's temperature as its sensor reads it; HOT at THOT, no longer after 250,000 cycles at or below TCOOL. -/
def State.setTemp (s : State) (gc temp : Nat) : State :=
  let k := s.core gc
  let st := s.stk (gsOf gc)
  let cool := if temp ≤ st.tcool then (match k.coolSince with
      | some c => some c
      | none => some k.cycle) else none
  let cooled := (cool.map fun c => decide (250000 ≤ k.cycle - c)).getD false
  s.setCore gc { k with
    temp := temp
    coolSince := cool
    hot := decide (st.thot ≤ temp) || (k.hot && !cooled) }

/-- CORE_HOT (14 R316). -/
def execCoreHot (gc temp : Nat) (s : State) : Out := .next (s.setTemp gc temp)

/-- CORE_COOL (14 R316). -/
def execCoreCool (gc temp : Nat) (s : State) : Out := .next (s.setTemp gc temp)

/-- DROOP_EVENT (14 R316): more than 4 in 25,000 cycles mark the core AVOID. -/
def execDroopEvent (gc : Nat) (s : State) : Out :=
  .next (s.updCore gc fun k =>
    let ds := (k.droops.filter fun d => decide (k.cycle - d < 25000)) ++ [k.cycle]
    { k with
      droops := ds
      avoid := k.avoid || decide (4 < ds.length) })

/-- AVOID_EXPIRY (14 R316): 125,000 cycles with no droop event. -/
def execAvoidExpiry (gc : Nat) (s : State) : Out :=
  .next (s.updCore gc fun k => { k with avoid := k.avoid && k.droops.any fun d => decide (k.cycle - d < 125000) })

/-- A write of SCHED_CTL (14 R319). -/
def State.writeSched (s : State) (gs value : Nat) : State :=
  if bits value 0 8 ≤ bits value 8 8 then s
  else s.updStk gs fun k => { k with
    tcool := bits value 8 8
    thot := bits value 0 8 }

/-- SCHED_CTL_WRITE (14 R319). -/
def execSchedCtlWrite (gs value : Nat) (s : State) : Out := .next (s.writeSched gs value)

/-! ## The active set (14 R322, R323) -/

/-- Active groups of a core. -/
def State.activeOn (s : State) (gc : Nat) : List (Nat × Ctx) := (s.residents gc).filter fun kc => kc.2.place = .active

/-- Grant the windows that fit to groups waiting in GROW, the one that has waited longest first (13 R297). -/
def State.grantGrow (s : State) (gc : Nat) : State :=
  let asks := sortBy (fun (kc : Nat × Ctx) => [kc.2.since, kc.1]) ((s.residents gc).filter fun kc => kc.2.grow ≠ 0 && decide (kc.2.grow ≤ 8))
  asks.foldl (fun s kc =>
    if kc.2.grow * kc.2.gran ≤ s.freeG gc then s.setCtx kc.1 { kc.2.growBy kc.2.grow with
      grow := 0
      stall := 15 }
    else s) s

/-- A group enters the active set. -/
def State.activate (s : State) (cid : Nat) : State := s.updCtx cid fun c => { c with
  place := .active
  activeAt := s.now c.gc
  stall := 15 }

/-- The pending group of a core that has been eligible longest (14 R322). -/
def State.nextPending (s : State) (gc : Nat) : Option (Nat × Ctx) :=
  leastBy (fun a b => lexLe [a.2.since, a.1] [b.2.since, b.1]) ((s.residents gc).filter fun kc => s.canRun kc.1 kc.2)

/-- ACTIVE_FILL (14 R322, 13 R297): windows asked for are granted where they are free, and a vacant place is filled. -/
def execActiveFill (gc : Nat) (s : State) : Out :=
  let s := s.grantGrow gc
  if 8 ≤ (s.activeOn gc).length then .next s else
  match s.nextPending gc with
  | some (cid, _) => .next (s.activate cid)
  | none => .next s

/-- PENDING_EXCHANGE (14 R323): a group eligible for 4,096 cycles takes the place of the active group longest without issue, at that
group's boundary; a group held at a meeting stays (14 R322). -/
def execPendingExchange (gc : Nat) (s : State) : Out :=
  match s.nextPending gc with
  | none => .next s
  | some (cid, c) =>
    let out := leastBy (fun a b => lexLe [a.2.lastIssue, a.2.activeAt, a.1] [b.2.lastIssue, b.2.activeAt, b.1]) (s.activeOn gc)
    match out with
    | none => .next s
    | some (old, d) =>
      if (s.activeOn gc).length < 8 || s.now gc - c.since < 4096 || !(d.validPaths.all fun e => !(d.path e).started && (d.path e).wait ≠ .matrix) then .next s
      else .next ((s.swapOut old 8).activate cid)

end Sys2Proof.Machine
end

