-- ==== Sys2Proof/Machine/Evict.lean ====
section
/-! DEFINITION. Partial eviction and return (14 R320, R321, R327; 15 R340-R343). -/

namespace Sys2Proof.Machine

/-! ## Images in the save region (15 R341) -/

/-- The lowest free run of `n` units in a stack's save region. -/
def State.saveSpot (s : State) (gs n : Nat) : Option Nat :=
  let used := (s.saves.filter fun i => i.gs = gs).map fun i => (i.off, i.off + i.units)
  let free (o : Nat) : Bool := o + n ≤ (s.stk gs).saveSize && !(used.any fun r => decide (r.1 < o + n) && decide (o < r.2))
  leastBy (fun a b => decide (a ≤ b)) ((0 :: used.map (·.2)).filter free)

/-- Allocate an image of a team at its greatest size and begin to save the contexts of `want`; none where the region lacks the room. A whole team's
has room for every group that has not ended, one of evicted groups for those; each group's for as many of the largest contexts as it could
split into, one a lane (15 R341; log 86, DESIGN CHOICE). -/
def State.beginSave (s : State) (tk : Nat) (whole : Bool) (want : List Nat) : Option State :=
  match s.team? tk with
  | none => none
  | some t =>
    let gs := gsOf t.baseGc
    let groups := if whole then t.left else ((want.filterMap s.ctx?).map (·.gidx)).eraseDups
    let parts := ((s.launch? t.launch).map (·.desc.width)).getD 64
    let rooms := s.imageRooms t whole groups.length parts
    let units := roundUp (roomBytes rooms) 65536 / 65536
    match s.saveSpot gs units with
    | none => none
    | some off =>
      let (id, s) := s.fresh
      some { s with saves := s.saves ++ [⟨id, whole, tk, gs, off, units, .saving, [], want, groups, parts, [], layRooms 4096 rooms, []⟩] }

/-! ## What to evict (14 R320) -/

/-- Contexts of groups of lower priority on some cores. -/
def State.below (s : State) (cores : List Nat) (prio : Nat) : List (Nat × Ctx) :=
  (cores.flatMap s.residents).filter fun kc => decide (s.teamPrio kc.2.team < prio)

/-- Is a context's launch one of quads? -/
def State.isQuad (s : State) (c : Ctx) : Bool := ((s.launch? c.launch).map (·.desc.quad)).getD false

/-- Contexts that are evicted together with one: its group's on these cores, or its quad's. -/
def State.unitOf (s : State) (cores : List Nat) (c : Ctx) : List (Nat × Ctx) :=
  let q := s.isQuad c
  (cores.flatMap s.residents).filter fun kd => kd.2.team = c.team && (if q then kd.2.gidx / 4 = c.gidx / 4 else kd.2.gidx = c.gidx)

/-- Does every context of a quad stand on these cores? -/
def State.unitWhole (s : State) (cores : List Nat) (c : Ctx) : Bool :=
  !s.isQuad c || s.ctxs.all fun kd => !(kd.2.team = c.team && kd.2.gidx / 4 = c.gidx / 4) || cores.contains kd.2.gc && kd.2.residentOn kd.2.gc

/-- Lowest priority first, youngest first within a priority. -/
def State.evictRank (s : State) (kc : Nat × Ctx) : List Nat := [s.teamPrio kc.2.team, 2 ^ 64 - kc.2.bornAt, 2 ^ 64 - kc.1]

/-- Do lines and slots suffice for a team on base core `gc` with the teams of `out` gone? -/
def State.spaceWithout (s : State) (d : Desc) (gc : Nat) (out : List Nat) : Bool :=
  let slotsOn (g : Nat) : Nat :=
    2 - (((s.teamsOn g).filter fun kt => !out.contains kt.1).flatMap fun kt => kt.2.mslots.filter fun m => m.1 = g).length
  (s.lineSpot (d.cores gc) d.lines out).isSome && (d.loads gc).all fun x => decide (d.slots x.2 ≤ slotsOn x.1)

/-- Do windows and places suffice with the contexts of `out` gone? -/
def State.roomWithout (s : State) (d : Desc) (gc : Nat) (out : List Nat) : Bool :=
  (d.loads gc).all fun x =>
    let mine := (s.residents x.1).filter fun kc => out.contains kc.1
    decide (x.2 * d.gran ≤ s.freeG x.1 + ((mine.map fun kc => kc.2.granules).foldl (· + ·) 0)) && s.placesUsed x.1 + x.2 ≤ 64 + mine.length

/-- Take teams in order until lines and slots suffice. -/
def State.takeTeams (s : State) (d : Desc) (gc : Nat) : List Nat → List Nat → Option (List Nat)
  | [], out => if s.spaceWithout d gc out then some out else none
  | t :: rest, out => if s.spaceWithout d gc out then some out else s.takeTeams d gc rest (out ++ [t])

/-- Take units in order until windows and places suffice. -/
def State.takeUnits (s : State) (d : Desc) (gc : Nat) : List (Nat × Ctx) → List Nat → Option (List Nat)
  | [], out => if s.roomWithout d gc out then some out else none
  | kc :: rest, out =>
    if s.roomWithout d gc out then some out
    else if out.contains kc.1 || !s.unitWhole (d.cores gc) kc.2 then s.takeUnits d gc rest out
    else s.takeUnits d gc rest (out ++ (s.unitOf (d.cores gc) kc.2).map (·.1))

/-- Teams of lower priority that hold lines or slots on some cores, in eviction order. -/
def State.teamsBelow (s : State) (cores : List Nat) (prio : Nat) : List (Nat × Team) :=
  let ts := s.teams.filter fun kt => kt.2.saved.isNone && decide (s.teamPrio kt.1 < prio) && (kt.2.cores.any cores.contains) &&
    (kt.2.linesPer ≠ 0 || !kt.2.mslots.isEmpty)
  sortBy (fun (kt : Nat × Team) => [s.teamPrio kt.1, 2 ^ 64 - kt.1]) ts

/-- Contexts of a team that stand on its cores. -/
def State.atBase (s : State) (tk : Nat) (t : Team) : List Nat :=
  (s.ctxs.filter fun kc => kc.2.team = tk && t.cores.contains kc.2.gc && kc.2.residentOn kc.2.gc).map (·.1)

/-- What evicting for a team on base core `gc` takes: whole teams, further contexts, and the number of groups evicted. -/
def State.evictPlan (s : State) (d : Desc) (prio gc : Nat) : Option (List Nat × List Nat × Nat) :=
  let cores := d.cores gc
  let teams := s.teamsBelow cores prio
  match s.takeTeams d gc (teams.map (·.1)) [] with
  | none => none
  | some whole =>
    let gone := (teams.filter fun kt => whole.contains kt.1).flatMap fun kt => s.atBase kt.1 kt.2
    let others := sortBy s.evictRank ((s.below cores prio).filter fun kc => !gone.contains kc.1)
    match s.takeUnits d gc others gone with
    | none => none
    | some out =>
      let extra := out.filter fun k => !gone.contains k
      let groups := ((extra.filterMap s.ctx?).map Ctx.groupKey).eraseDups.length
      let wholeGroups := ((whole.filterMap s.team?).map fun t => t.left.length).foldl (· + ·) 0
      if out.isEmpty && whole.isEmpty then none else some (whole, extra, groups + wholeGroups)

/-- Start the images of a plan, each team's further contexts in one groups-only image. -/
def State.beginPlan (s : State) (whole extra : List Nat) : Option State :=
  let one (s : Option State) (tk : Nat) : Option State := s.bind fun (s : State) =>
    match s.team? tk with
    | some t => s.beginSave tk true (s.atBase tk t)
    | none => none
  let teams := ((extra.filterMap s.ctx?).map (·.team)).eraseDups
  let some_ (s : Option State) (tk : Nat) : Option State := s.bind fun (s : State) =>
    s.beginSave tk false (extra.filter fun k => ((s.ctx? k).map (·.team)) = some tk)
  teams.foldl some_ (whole.foldl one (some s))

/-- Begin to clear a core of stack `gs` for a launch's next team: the core that frees enough with the fewest groups, ties to the lowest; none
where no core does or the images lack the room. -/
def State.preemptFor (s : State) (l : Launch) (gs : Nat) : Option State :=
  let plans := (l.desc.bases gs).filterMap fun gc => (s.evictPlan l.desc l.prio gc).map fun p => (gc, p)
  match leastBy (fun a b => decide (a.2.2.2 ≤ b.2.2.2)) plans with
  | none => none
  | some (_, whole, extra, _) => s.beginPlan whole extra

/-- PREEMPT (14 R320): for the first waiting team, highest priority first, that fits no core of its target stack `gs` and for which a core can be
cleared; one pre-emption on a stack at a time. -/
def execPreempt (gs : Nat) (s : State) : Out :=
  let saving := s.saves.any fun i => i.phase = .saving && ((s.team? i.team).map fun t => decide (gsOf t.baseGc = gs)).getD false
  if saving || (s.stk gs).saveSize = 0 then .next s else
  let here := ((s.launchesWaiting (pkgOf gs)).filter fun w => w.2.2 = gs && !s.lineUp gs w.2.1.pslot).map fun w => (w.1, w.2.1)
  let stuck := (serveOrder here).filter fun kl => (s.bestSpot kl.2.desc gs).isNone && (s.carveTeam gs 0 kl.2.desc).isSome
  .next ((stuck.findSome? fun kl => s.preemptFor kl.2 gs).getD s)

/-- GROW_EVICTION (14 R327): every resident group of a core waits for windows, at a barrier, JOIN or hold; its youngest GROW-blocked group
is evicted, or the youngest waiting one where an evicted grower waits for windows. -/
def execGrowEviction (gc : Nat) (s : State) : Out :=
  let rs := s.residents gc
  let waits (c : Ctx) : Bool := c.grow ≠ 0 ||
    (!c.validPaths.isEmpty && c.validPaths.all fun e => (c.path e).hold || ((c.path e).wait ≠ .none && (c.path e).wait ≠ .matrix))
  let busy := s.saves.any fun i => i.phase = .saving && i.want.any fun k => rs.any fun kc => kc.1 = k
  if rs.isEmpty || busy || (s.stk (gsOf gc)).saveSize = 0 || !(rs.all fun kc => waits kc.2) then .next s else
  let away := s.saves.any fun i => (s.imageCtxs i).any fun kc => kc.2.birthGc = gc && kc.2.grow ≠ 0
  let growers := rs.filter fun kc => kc.2.grow ≠ 0
  let pool := if growers.isEmpty && away then rs else growers
  let youngest (kc : Nat × Ctx) : List Nat := [2 ^ 64 - kc.2.bornAt, 64 - kc.2.gidx, kc.1]
  match sortBy youngest (pool.filter fun kc => s.unitWhole [gc] kc.2) with
  | [] => .next s
  | (_, c) :: _ => .next ((s.beginSave c.team false ((s.unitOf [gc] c).map (·.1))).getD s)

/-! ## Taking a group (15 R340) -/

/-- May the context-save engine take a context where it stands: at its boundary, or parked, stopped, or held at a meeting or for windows;
with no access under way? -/
def State.takeable (s : State) (cid : Nat) (c : Ctx) : Bool :=
  (c.place = .active || c.place = .pending) && !(s.accs.any fun a => a.ctx = cid) &&
    (c.parked.isSome || c.stop.isSome || c.grow ≠ 0 ||
      (c.chain.isEmpty && c.visits.isEmpty &&
        c.validPaths.all fun e => !(c.path e).started || (c.path e).stopped || (c.path e).wait = .matrix))

/-- The context as the image holds it: inside a clause with every window and its latches, else at its boundary with its LIVE. A departure or
split it waited for is decided anew when it is back. -/
def Ctx.saveForm (c : Ctx) : Ctx :=
  let c : Ctx := { c with
    depart := none
    split := [] }
  let pack (p : Path) : Path := { p.unfetch with latches := [] }
  let c : Ctx := if c.inClause then c else Ctx.dropDead { c with paths := c.paths.map pack } false
  { c with
    place := .saved
    win := 0 }

/-- Take one context: its record with REASON 0xA1 unless a stop's stands there (16 R407), its departure in the trace, its windows free. -/
def State.takeOut (s : State) (cid : Nat) (c : Ctx) : State :=
  let s := if c.stop.isSome || c.pathStop.isSome then s else s.putRec (gsOf c.gc) c.placeIdx (groupRec s c c.firstPath 0xA1) (some cid)
  let s := s.trace cid 7 (departWord 2 (gsOf c.gc) (coreNo c.gc) c.flits)
  s.setCtx cid c.saveForm

/-- The image a context is to go into: one that wants it, or that of its team, taken whole, whose base core it has come to (15 R340). -/
def State.imageFor (s : State) (cid : Nat) (c : Ctx) : Option SaveImg :=
  s.saves.find? fun i => (i.phase = .saving && i.want.contains cid) ||
    (i.phase ≠ .restoring && i.whole && i.team = c.team && !i.taken.contains cid &&
      ((s.team? c.team).map fun t => t.cores.contains c.gc).getD false)

/-- Take contexts into an image, each in its place (15 R340, R341). -/
def State.takeAll (s : State) (i : SaveImg) : List (Nat × Ctx) → State × SaveImg
  | [] => (s, i)
  | (k, c) :: rest =>
    let s := s.takeOut k c
    let i := s.seat i k c.saveForm
    s.takeAll { i with
      taken := i.taken ++ [k]
      want := i.want.filter (· ≠ k) } rest

/-- GROUP_EVICT (15 R340, 11 R265): the group is taken, a quad with all four of its groups at once; one that comes to the base core of its
saved team is saved into that image, where that has room for it. -/
def execGroupEvict (cid : Nat) (s : State) : Out :=
  match s.ctx? cid with
  | none => .next s
  | some c =>
    match s.imageFor cid c with
    | none => .next s
    | some i =>
      let mate (kd : Nat × Ctx) : Bool := i.phase = .saving && kd.1 ≠ cid && s.isQuad c && kd.2.gidx / 4 = c.gidx / 4 &&
        kd.2.team = c.team && (s.imageFor kd.1 kd.2).map (·.id) = some i.id
      let together := (cid, c) :: s.ctxs.filter mate
      if !(together.all fun kd => s.takeable kd.1 kd.2) then .next s else
      let (t, i) := s.takeAll i together
      if !(together.all fun kd => (mfind i.ctxOffs kd.1).isSome) then .next s else
      let t := t.setImage i
      match i.phase, t.team? i.team with
      | .saved, some tm => .next (t.writeCtxs i tm (t.writtenLens i) [cid])
      | _, _ => .next t

/-! ## The end of a save (15 R342) -/

/-- Are a team's commands where a save may take them: no step under way, captures finished, the rows of every queue finished (11 R265, 12 R278)?
A row that is parked, or free again and in no queue, is saved with its run. -/
def Cmd.quiet (c : Cmd) : Bool :=
  match c.kind with
  | .mma .. | .mloop .. => !c.capture
  | .mst .. => !c.started || !c.sectors.isEmpty
  | .vrrun _ _ _ _ _ rows _ => rows.all fun r => r.parked.isSome || decide (8 ≤ r.queue)
  | _ => true

/-- A command of a team that is saved whole: a started copy drops its team-space ranges and goes on, the others are saved. -/
def Cmd.putAway (c : Cmd) : Cmd :=
  if c.goesOn then { c with
      reads := c.reads.filter fun r => r.region ≠ 0
      writes := c.writes.filter fun r => r.region ≠ 0 }
  else { c with
      entry := false
      saved := true }

/-- A whole team is saved: its lines and slots are free for others, its presence bits in its image alone (15 R342). -/
def State.captureTeam (s : State) (i : SaveImg) (t : Team) : State :=
  let s := (s.setImage { i with
    phase := .saved
    want := [] }).setTeam i.team { t with saved := some i.id }
  { s with
    absent := s.absent.filter fun kv => (t.lineNo kv.1).isNone
    cmds := s.cmds.map fun c => if c.team = i.team then c.putAway else c }

/-- Is a collective of one of an image's groups in the middle of a step (11 R265)? -/
def State.midStep (s : State) (i : SaveImg) : Bool :=
  s.cmds.any fun c => c.capture && !c.kind.captures && c.waiters.any i.taken.contains

/-- EVICTION_SAVE_END (15 R342): every group to be taken is in the image, or has ended or moved on, and the engines are where the save may
take them. -/
def execEvictionSaveEnd (save : Nat) (s : State) : Out :=
  match s.saves.find? fun i => i.id = save && i.phase = .saving with
  | none => .next s
  | some i =>
    match s.team? i.team with
    | none => .next { s with saves := s.saves.filter fun j => j.id ≠ save }
    | some t =>
      let here (k : Nat) : Bool := ((s.ctx? k).map fun c => c.residentOn c.gc).getD false
      let left := if i.whole then !(s.atBase i.team t).isEmpty else i.want.any here
      let quiet := if i.whole then s.cmds.all fun c => c.team ≠ i.team || c.quiet else !s.midStep i
      if left || !quiet then .next s else
      let s := s.writeSave i t
      .next (if i.whole then s.captureTeam i t else s.setImage { i with
        phase := .saved
        want := [] })

/-! ## Return (14 R321, 15 R343) -/

/-- GROUP_RETURN (14 R321): the restore of what fits of an image begins. -/
def execGroupReturn (save : Nat) (s : State) : Out :=
  match s.saves.find? fun i => i.id = save with
  | none => .next s
  | some i =>
    match s.returnSet i with
    | some ks => .next (s.setImage { i with
        phase := .restoring
        coming := ks })
    | none => .next s

/-- Copy a run of cells with its poison, sector by sector (09 R404). -/
def State.copyRun (s : State) (src dst n : Nat) : State :=
  let within (a : Nat) : Bool := decide (src ≤ a) && decide (a < src + n)
  let cells := s.mem.filter fun kv => within kv.1
  let marks := s.poison.filter fun kv => within (32 * kv.1)
  let s := s.zeroRun dst n
  { s with
    mem := cells.foldl (fun m kv => mput m (kv.1 - src + dst) kv.2) s.mem
    poison := marks.foldl (fun m kv => mput m ((32 * kv.1 - src + dst) / 32) kv.2) s.poison }

/-- A team's lines and presence bits as its image has them. -/
def State.layLines (s : State) (i : SaveImg) (t : Team) : State :=
  let keys := (List.range (t.scratch / 128)).map fun k => t.lineKey (128 * k)
  let bits := keys.map fun l => (l, s.imgAbsent i t l)
  let s := t.runs.foldl (fun s r => s.copyRun (s.imgPa i (i.sec 5 + t.bitmapLen + r.2.1)) r.1 r.2.2) s
  { s with absent := bits.foldl (fun m b => mset m b.1 b.2 false) s.absent }

/-- A team's tiles and marks as its image has them, and scale memory whole on the cores on which it holds a slot. -/
def State.layTiles (s : State) (i : SaveImg) (t : Team) : State :=
  let num (sec off n : Nat) : Nat := s.num (s.imgPa i (i.sec sec + off)) n
  let s := (t.mslots.zipIdx).foldl (fun s mk =>
    let base := mk.1.2 * 0x20000
    s.updCore mk.1.1 fun k => { k with
      tiles := (List.range 0x8000).foldl (fun m j => mset m (base + 4 * j) (BitVec.ofNat 32 (num 6 (mk.2 * 0x20020 + 4 * j) 4)) 0) k.tiles
      marks := (List.range 32).foldl (fun m j => mset m (base + 0x1000 * j) (decide (num 6 (mk.2 * 0x20020 + 0x20000 + j) 1 ≠ 0)) false) k.marks }) s
  (t.slotCores.zipIdx).foldl (fun s gk =>
    s.updCore gk.1 fun k => { k with
      scale := (List.range 0x8000).foldl (fun m j => mset m j (BitVec.ofNat 8 (num 7 (gk.2 * 0x8000 + j) 1)) 0) [] }) s

/-- Payload values of a barrier record whose image holds `v` as the running value: its groups' own, unless another was written there. -/
def BarRec.payVals (r : BarRec) (v : Nat) : List (Nat × Word) :=
  if (payFold r.op (r.vals.map fun gv => gv.2.toNat)).1 = v then r.vals else [(0, BitVec.ofNat 32 v)]

/-- A team's batches and barrier records as its image has them: DONE, OPEN and LAST; generation, operation, flags, payload and arrivals. -/
def State.layRecords (s : State) (i : SaveImg) (t : Team) : Team :=
  let num (sec off n : Nat) : Nat := s.num (s.imgPa i (i.sec sec + off)) n
  let batch (kb : Nat × Batch) : Nat × Batch :=
    let at_ := 1024 * (kb.1 / 64) + 16 * (kb.1 % 64)
    (kb.1, { kb.2 with
      opn := num 2 at_ 4
      last := num 2 (at_ + 4) 4
      done := num 2 (at_ + 8) 4 })
  let bar (kr : Nat × BarRec) : Nat × BarRec :=
    let at_ := 1024 * kr.1
    let w := num 3 (at_ + 0x10) 8
    (kr.1, { kr.2 with
      op := bits w 0 3
      flags := BitVec.ofNat 7 (bits w 8 8)
      vals := kr.2.payVals (num 3 (at_ + 0x18) 8)
      gen := kr.2.gen / 2 ^ 32 * 2 ^ 32 + bits w 16 32
      arrived := (List.range 64).foldl (fun m g => mset m g (BitVec.ofNat 64 (num 3 (at_ + 0x200 + 8 * g) 8)) 0) [] })
  { t with
    batches := t.batches.map batch
    bars := t.bars.map bar
    saved := none }

/-- A whole team as its image has it; its saved commands issue again in their order (15 R343). -/
def State.layTeam (s : State) (i : SaveImg) (t : Team) : State :=
  let t' := s.layRecords i t
  let s := (s.layLines i t).layTiles i t
  let again (c : Cmd) : Cmd := { c with
    entry := true
    saved := false }
  let s : State := { s with cmds := (s.cmds.filter fun c => !(c.team = i.team && c.saved)) ++ (s.cmds.filter fun c => c.team = i.team && c.saved).map again }
  s.setTeam i.team t'

/-- A stopped group's record stands at its new place too (15 R339, 16 R407). -/
def State.seatStopRec (s : State) (cid : Nat) : State :=
  match (s.ctx? cid).bind fun c => c.stopRec.map fun r => (c, r) with
  | some (c, r) => s.putStopRec cid { r with gs := gsOf c.gc, core := coreNo c.gc }
  | none => s

/-- A group of an image is pending on the core it was born on, as its image has it, to be probed again where it was parked (15 R331, R343).
Posts it still waits for from another stack find it by a forwarding entry. -/
def State.bringBack (s : State) (i : SaveImg) (cid : Nat) : State :=
  match s.ctx? cid, mfind i.ctxOffs cid with
  | some c, some o =>
    let old := gsOf c.gc
    let gc := c.birthGc
    let c := c.readImage (s.bytes (s.imgPa i o.1) o.2) (s.now gc)
    let s := if c.anchor = 0 || old = gsOf gc then s
      else s.updStk old fun k => { k with fwd := k.fwd ++ [⟨c.team, c.gidx, c.part, c.splitGen, gsOf gc, c.anchor⟩] }
    (s.setCtx cid { c.unpark with
      place := .pending
      gc := gc
      slotNo := s.freePlace gc
      since := s.now gc
      activeAt := s.now gc
      stall := if c.grow ≠ 0 then 7 else 15 }).traceOpen cid |>.seatStopRec cid
  | _, _ => s

/-- RESTORE_END (15 R343): what was coming goes back, its groups enter the pending set; with the last of its groups the image is free. -/
def execRestoreEnd (save : Nat) (s : State) : Out :=
  match s.saves.find? fun i => i.id = save && i.phase = .restoring with
  | none => .next s
  | some i =>
    let s := (match s.team? i.team with
      | some t => if i.whole then s.layTeam i t else s
      | none => s)
    let s := i.coming.foldl (fun s k => s.bringBack i k) s
    let rest := i.taken.filter fun k => !i.coming.contains k
    .next (if rest.isEmpty then { s with saves := s.saves.filter fun j => j.id ≠ save }
      else s.setImage { i with
        phase := .saved
        taken := rest
        coming := [] })

end Sys2Proof.Machine
end

