-- ==== Sys2Proof/Machine/Translate.lean ====
section
/-! DEFINITION. Events of translation: walks and invalidations (03 R55-R58). -/

namespace Sys2Proof.Machine

/-- TABLE_WALK (03 R55): a lookup of a page for a core fills the buffers. -/
def execTableWalk (gc pslot va : Nat) (s : State) : Out := .next (s.lookup (gsOf gc) (some gc) pslot va).1

/-- A write of XLAT_INV (03 R57): queued behind the running one; a ninth waiting write and SCOPE 3 are discarded with ERR. -/
def State.writeInv (s : State) (gs scope vpage pslot : Nat) : State :=
  s.updStk gs fun k =>
    if scope = 3 || 9 ≤ k.invQueue.length then { k with invErr := true }
    else { k with invQueue := k.invQueue ++ [⟨scope, vpage, pslot, 0⟩] }

/-- INV_PAGE: SCOPE 0. -/
def execInvPage (gs vpage pslot : Nat) (s : State) : Out := .next (s.writeInv gs 0 (vpage % 2 ^ 41) (pslot % 16))

/-- INV_SLOT: SCOPE 1. -/
def execInvSlot (gs pslot : Nat) (s : State) : Out := .next (s.writeInv gs 1 0 (pslot % 16))

/-- INV_ALL: SCOPE 2. -/
def execInvAll (gs : Nat) (s : State) : Out := .next (s.writeInv gs 2 0 0)

/-- Does an invalidation match a buffer entry: a leaf covering VPAGE, the slot, or all (03 Table 3-8)? -/
def Inval.hits (i : Inval) (t : TlbEntry) : Bool :=
  match i.scope with
  | 0 => t.pslot = i.pslot && i.vpage * 2 ^ 16 / 2 ^ t.size = t.page
  | 1 => t.pslot = i.pslot
  | _ => true

/-- Drop the matching entries of a stack's shared buffer and of its 24 core buffers (03 R58). -/
def State.dropEntries (s : State) (gs : Nat) (i : Inval) : State :=
  let keep (t : TlbEntry) : Bool := !i.hits t
  let s := s.updStk gs fun k => { k with tlb := k.tlb.filter keep }
  (List.range 24).foldl (fun s c => s.updCore (24 * gs + c) fun k => { k with tlb := k.tlb.filter keep }) s

/-- Does an invalidation match a leaf of `size` bits through which `va` was translated for a slot? -/
def Inval.hitsVa (i : Inval) (pslot va size : Nat) : Bool := i.hits ⟨pslot, va / 2 ^ size, size, 0⟩

/-- The global addresses a sector under way, or held, was probed for: its sources, or once read its destination. -/
def Sector.probedVas (x : Sector) : List Nat := if x.data.isEmpty then x.pieces.map (·.2.1) else [x.dst]

/-- Addresses the sector `i` of a command was probed for: a piece of a context copy's buffer, each in a page of its own (13 R307), or its own. -/
def Cmd.probedVas (c : Cmd) (i : Nat) (x : Sector) : List Nat :=
  match c.kind with
  | .rdctx _ buf .. | .wrctx _ buf .. => [if i = 0 then buf else (buf / 65536 + i) * 65536]
  | _ => x.probedVas

/-- Does a bank launch hold a chunk of its row set that it found through a dropped entry (04 R72, R86)? -/
def BankRun.holds (r : BankRun) (i : Inval) (pslot : Nat) : Bool :=
  r.started && decide (r.probed < i.mark) && r.leaves.zipIdx.any fun lk => i.hitsVa pslot (r.rowBase + lk.2 * 2 ^ 25) lk.1

/-- Has an access that the stack probed through a dropped entry still to perform (03 R58): a group's, a post, an engine's sector, a stream write
or a pass of a bank launch? -/
def State.invOutstanding (s : State) (gs : Nat) (i : Inval) : Bool :=
  (s.accs.any fun a => decide (a.id < i.mark) && match s.ctx? a.ctx with
    | some c => gsOf c.gc = gs && a.lanes.any fun l => l.va ≠ 0 && i.hitsVa c.pslot (l.va - 1) l.leaf
    | none => false) ||
  (s.chan.any fun m => m.src = gs && decide (m.id < i.mark) && match m.body with
    | .post p => p.va ≠ 0 && i.hitsVa p.pslot (p.va - 1) p.leaf
    | _ => false) ||
  (s.cmds.any fun c => gsOf c.gc = gs && c.sectors.zipIdx.any fun xk => match xk.1.probed with
    | some (id, leaf) => decide (id < i.mark) && (c.probedVas xk.2 xk.1).any fun va => i.hitsVa (s.slotOf (s.cmdLaunch c)) va leaf
    | none => false) ||
  (s.stks.any fun kk => kk.2.streams.any fun x => x.src = gs && decide (x.id < i.mark) && i.hitsVa x.pslot x.va x.leaf) ||
  (s.stk gs).bankQueue.any fun r => r.holds i (s.slotOf r.launch)

/-- INVALIDATION_DROP_END (03 R58): the running invalidation's entries are dropped; it leaves the queue, and BUSY may clear, once no
access probed through one of them is outstanding. -/
def execInvalidationDropEnd (gs : Nat) (s : State) : Out :=
  match (s.stk gs).invQueue with
  | [] => .next s
  | i :: rest =>
    let s := if i.mark = 0 then s.dropEntries gs i else s
    let i := if i.mark = 0 then { i with mark := s.nextId } else i
    let done := !s.invOutstanding gs i
    .next (s.updStk gs fun k => { k with invQueue := if done then rest else i :: rest })

end Sys2Proof.Machine
end

