-- ==== Sys2Proof/Machine/Regs.lean ====
section
/-! DEFINITION. The registers of aperture 3 (03 Table 3-2): what each reads as and what a write of it does, block by block, with the
launch pages (04 R82, R83). Reserved fields read zero and ignore writes (00 R5). -/

namespace Sys2Proof.Machine

/-! ## Reading -/

/-- Keep bits [lo + len - 1 : lo] of a number in place. -/
def field (x lo len : Nat) : Nat := bits x lo len * 2 ^ lo

/-- Translation block (03 Table 3-8). -/
def Stack.readXlat (k : Stack) (o : Nat) : Nat :=
  if o < 0x80 then (mget k.xlatRoot (o / 8) 0).toNat
  else if o = 0x88 then b2n k.invErr * 2 + b2n !k.invQueue.isEmpty
  else 0

/-- Scrub block (04 Table 4-8). -/
def Stack.readScrub (k : Stack) (o : Nat) : Nat :=
  if o = 0 then k.inforce * 4 + k.season
  else if o = 8 then k.seasons % 2 ^ 32 * 2 ^ 32 + (k.poisoned.filter (·.2)).length
  else 0

/-- Eight bytes of a bitmap with one bit per row from bit `64 w` on (04 R77). -/
def rowBits (bit : Nat → Bool) (w : Nat) : Nat := ((List.range 64).map fun i => b2n (bit (64 * w + i)) * 2 ^ i).foldl (· + ·) 0

/-- FAB_PEER of peer `j` (05 Table 5-5). STATE is training while a channel is being retrained, or has trained at one end alone (log 46,
DEDUCED). -/
def State.fabPeer (s : State) (pkg j : Nat) : Nat :=
  if j = pkg then 0 else
  let p := (mfind (s.pkg pkg).peers j).getD ⟨0, false⟩
  let plane (f : Link → Bool) (n : Nat) : Nat := b2n (f (s.link pkg n j)) * 2 ^ n
  let ups := ((List.range 8).map (plane (·.up))).foldl (· + ·) 0
  let spares := ((List.range 8).map (plane (·.spare))).foldl (· + ·) 0
  let training := (List.range 8).any fun n =>
    let l := s.link pkg n j
    l.training || (l.up && l.round ≠ (s.link j n pkg).round)
  let state := if training then 1 else if ups = 255 then 2 else if ups ≠ 0 then 3 else if p.pinc = 0 then 0 else 4
  p.pinc * 2 ^ 48 + ups * 2 ^ 40 + spares * 2 ^ 32 + b2n p.reinc * 16 + state

/-- Fabric block of stack 0 (05 Table 5-5). -/
def State.readFab (s : State) (pkg o : Nat) : Nat :=
  let k := s.pkg pkg
  if o = 0 then b2n k.stripe
  else if o = 8 then pkg * 2 ^ 16 + k.inc
  else if o = 0x10 then k.stale % 2 ^ 64
  else if o = 0x18 then k.lostp % 2 ^ 64
  else if 0x100 ≤ o && o < 0x300 then s.fabPeer pkg ((o - 0x100) / 8)
  else 0

/-- PLANE_STAT of plane `p` (05 Table 5-5). -/
def Pkg.planeStat (k : Pkg) (p : Nat) : Nat :=
  mget k.replays p 0 % 2 ^ 24 * 2 ^ 40 + min (mget k.badkind p 0) 255 * 2 ^ 32 + mget k.dup p 0 % 2 ^ 16 * 2 ^ 16 + mget k.crcerr p 0 % 2 ^ 16

/-- Scheduler block (14 Table 14-4). -/
def State.readSched (s : State) (gs o : Nat) : Nat :=
  let k := s.stk gs
  if o = 0 then k.tcool * 2 ^ 8 + k.thot
  else if 0x100 ≤ o && o < 0x100 + 8 * 24 then
    let gc := 24 * gs + (o - 0x100) / 8
    let c := s.core gc
    s.freeG gc * 2 ^ 37 + s.freeL gc * 2 ^ 24 + s.freeM gc * 2 ^ 22 + (s.residents gc).length % 128 * 2 ^ 15 + min c.temp 127 * 2 ^ 8 + b2n c.avoid * 2 + b2n c.hot
  else 0

/-- Fault block (15 Table 15-3). -/
def Stack.readFault (k : Stack) (o : Nat) : Nat :=
  match o with
  | 0x000 => k.stopBase.toNat
  | 0x008 => k.flogBase.toNat
  | 0x010 => k.flogLost % 2 ^ 32 * 2 ^ 32 + k.flogHead % 2 ^ 32
  | 0x018 => k.flogTail
  | 0x028 => k.saveBase.toNat
  | 0x030 => k.saveSize
  | 0x038 => ((k.firsts.head?).map fun f => f.2 % 256).getD 0 * 2 ^ 56 + b2n k.retryErr * 2 + b2n (!k.lines.isEmpty)
  | _ => 0

/-- A block of predicates (16 R354): `n` of them from index `first`, their VSTATs from offset `vs`. -/
def readPreds (m : Map Pred) (first n vs o : Nat) : Nat :=
  if o < 32 * n then readPredWord (mget m (first + o / 32) Pred.reset) (o % 32 / 8)
  else if vs ≤ o && o < vs + 8 * n then (mget m (first + (o - vs) / 8) Pred.reset).vstat
  else 0

/-- Debug block (16 Table 16-7). -/
def Stack.readDebug (k : Stack) (o : Nat) : Nat :=
  match o with
  | 0x000 => k.htgt.toNat
  | 0x010 => b2n k.atReg.isSome * 2 + b2n k.dbgErr
  | 0x018 => k.trcCores.toNat * 2 ^ 16 + b2n k.trcIdle * 4 + b2n k.trcWrap * 2 + b2n k.trcEn
  | 0x020 => k.trcBase.toNat
  | 0x028 => k.trcSize
  | 0x030 => k.trcHead % 2 ^ 64
  | 0x038 => k.trcLost % 2 ^ 64
  | 0x180 => k.dmpPkg * 2 + b2n k.dmpPeer
  | 0x188 => k.dmpPaddr.toNat
  | 0x190 => k.dmpPsize
  | 0x198 => k.dmpDrop % 2 ^ 64
  | _ =>
    if 0x80 ≤ o && o < 0x180 then (if o % 16 = 0 then (mget k.dmpBase ((o - 0x80) / 16) 0).toNat else mget k.dmpSize ((o - 0x80) / 16) 0)
    else if 0x200 ≤ o && o < 0x280 then mget k.dmpTail ((o - 0x200) / 8) 0 % 2 ^ 64
    else 0

/-- HQ_CTL (17 Table 17-2). -/
def HostQ.ctl (h : HostQ) : Nat := h.log2n * 2 ^ 10 + h.stack * 2 ^ 6 + h.pslot * 4 + b2n h.user * 2 + b2n h.en

/-- A host queue's registers (17 Table 17-2). -/
def State.readHq (s : State) (pkg q o : Nat) : Nat :=
  let h := s.hq pkg q
  match o with
  | 0x00 => h.base.toNat
  | 0x08 => h.ctl
  | 0x10 => h.tail
  | 0x18 => b2n h.err * 2 ^ 33 + h.head % 2 ^ 32
  | 0x20 => ((s.launch? h.last).map fun l => l.comp false).getD 0
  | 0x28 => ((s.launch? h.last).map (·.finfo)).getD 0
  | _ => 0

/-- HOST_STAT (17 Table 17-6). -/
def Pkg.hostStat (k : Pkg) : Nat := k.lostw % 2 ^ 32 * 2 ^ 32 + k.downs % 2 ^ 16 * 2 ^ 16 + b2n k.surprise * 2 + b2n k.linkUp

/-- BOOT_STAT (17 Table 17-4). -/
def Pkg.bootStat (k : Pkg) : Nat :=
  let st := match k.boot with
    | .testing => 0
    | .ready => 1
    | .safe => 2
  st * 2 ^ 62 + b2n k.endorsed * 2 ^ 61 + k.planesBad.toNat * 2 ^ 36 + k.failUnit % 16 * 2 ^ 32 + k.failStks.toNat * 2 ^ 16 + k.failCode % 2 ^ 16

/-- BOOT_STAT as configuration space mirrors it in a Designated Vendor-Specific Extended Capability, in every state (17 R382; log 105). -/
def Pkg.dvsec (k : Pkg) : Nat := k.bootStat

/-- Physical address of a package's almanac (17 R383). -/
def almanacPa (pkg : Nat) : Nat := paOf (16 * pkg) (Config.almanacAddr pkg % 0x1800000000)

/-- Bytes of an attestation report (17 R385). -/
def reportLen : Nat := 30496

/-- Boot block (17 R383, Tables 17-4 and 17-7). -/
def State.readBoot (s : State) (pkg o : Nat) : Nat :=
  let k := s.pkg pkg
  if o = 0 then k.bootStat
  else if 0x100 ≤ o && o < 0x300 then bits (mget k.mrs ((o - 0x100) / 64) 0).toNat (o % 64 * 8) 64
  else if o = 0x300 then almanacPa pkg
  else if o = 0x308 then k.almanac.length
  else if 0x400 ≤ o && o < 0x420 then bits k.attNonce.toNat ((o - 0x400) * 8) 64
  else if o = 0x420 then k.attBuf.toNat
  else if o = 0x428 then k.attEcode % 256 * 2 ^ 8 + b2n k.attErr * 8 + b2n k.attDone * 4 + b2n k.attBusy * 2
  else if o = 0x430 then k.attLen
  else 0

/-- A word of a notify slot (04 Table 4-9). -/
def State.readNotify (s : State) (gs key o : Nat) : Nat :=
  let n := mget (s.stk gs).nslots key NSlot.reset
  let l := s.launch? n.launch
  match o with
  | 0x10 => s.slotComp gs key
  | 0x18 => (l.map (·.finfo)).getD 0
  | 0x20 => (l.map fun l => l.emulated % 2 ^ 32 * 2 ^ 32 + l.skipped % 2 ^ 32).getD 0
  | _ => 0

/-- The aligned 8-byte register at an offset of a stack's aperture-3 window. -/
def State.regWord (s : State) (gs off : Nat) : Nat :=
  let k := s.stk gs
  let pkg := pkgOf gs
  let first := gs % 16 = 0
  let at_ (base : Nat) : Nat := off - base
  if 0x10000000 ≤ off then
    if off < 0x10000000 + 16 * 65536 then
      let p := at_ 0x10000000
      s.readNotify gs (nslotKey (p / 65536) (p % 65536 / 1024)) (p % 1024)
    else 0
  else if 0x300000 ≤ off && off < 0x480000 then rowBits (fun r => mget k.poisoned r false) (at_ 0x300000 / 8)
  else if 0x100000 ≤ off && off < 0x280000 then rowBits (fun r => !mget k.unclean r false) (at_ 0x100000 / 8)
  else match off / 65536 with
    | 1 => k.readXlat (at_ 0x10000)
    | 2 => k.readScrub (at_ 0x20000)
    | 3 => if off = 0x31000 then (if gs % 2 = 0 then (s.pkg pkg).planeStat (planeOf gs) else 0) else if first then s.readFab pkg (at_ 0x30000) else 0
    | 4 => s.readSched gs (at_ 0x40000)
    | 5 => k.readFault (at_ 0x50000)
    | 6 => if off < 0x60000 + 24 * 0x400 then readPreds (s.core (24 * gs + at_ 0x60000 / 0x400)).preds 0 16 0x200 (off % 0x400) else 0
    | 7 => readPreds k.preds 16 32 0x400 (at_ 0x70000)
    | 8 => k.readDebug (at_ 0x80000)
    | 9 =>
      if off < 0x90000 + 24 * 0x100 && off % 0x100 < 8 * 25 then mget (s.core (24 * gs + at_ 0x90000 / 0x100)).hist (off % 0x100 / 8) 0 else 0
    | 10 =>
      if !first then 0
      else if off < 0xA1000 then s.readHq pkg (at_ 0xA0000 / 64) (off % 64)
      else if off = 0xA1000 then (s.pkg pkg).hostStat else 0
    | 11 => if first then s.readBoot pkg (at_ 0xB0000) else 0
    | 12 => if first && off = 0xC0000 then (s.pkg pkg).capWanted.getD (s.pkg pkg).cap else 0
    | 13 => if off = 0xD0000 then k.privBase.toNat else if off = 0xD0008 then k.privSize else 0
    | _ => 0

/-- A read of `n` bytes of registers: 4, 8 or 16, aligned (09 Table 9-3). -/
def State.regRead (s : State) (gs off n : Nat) : Nat :=
  let w := s.regWord gs (off / 8 * 8)
  if n ≤ 4 then w / 2 ^ (8 * (off % 8)) % 2 ^ (8 * n)
  else if n ≤ 8 then w
  else w + s.regWord gs (off / 8 * 8 + 8) * 2 ^ 64

/-! ## Writing -/

/-- A write of an 8-byte register: the value with its written bytes, and which halves were written. -/
structure RegWrite where
  v : Nat
  lo : Bool
  hi : Bool
  deriving DecidableEq, Repr

/-- The register's new value where its old one stands in the bytes not written. -/
def RegWrite.over (w : RegWrite) (old : Nat) : Nat :=
  (if w.lo then w.v % 2 ^ 32 else old % 2 ^ 32) + (if w.hi then w.v / 2 ^ 32 % 2 ^ 32 else old / 2 ^ 32 % 2 ^ 32) * 2 ^ 32

/-- Translation block: the roots, XLAT_INV, and ERR (03 R57). -/
def State.writeXlat (s : State) (gs o : Nat) (w : RegWrite) : State :=
  if o < 0x80 then s.updStk gs fun k =>
    let v := w.over (mget k.xlatRoot (o / 8) 0).toNat
    { k with xlatRoot := mset k.xlatRoot (o / 8) (BitVec.ofNat 64 (field v 12 40 + v % 2)) 0 }
  else if o = 0x80 then (if w.lo then s.writeInv gs (bits w.v 4 2) (bits w.v 16 41) (bits w.v 0 4) else s)
  else if o = 0x88 then s.updStk gs fun k => { k with invErr := k.invErr && !(w.lo && nbit w.v 1) }
  else s

/-- Fabric block: STRIPE and REINC (05 R104). -/
def State.writeFab (s : State) (pkg o : Nat) (w : RegWrite) : State :=
  if o = 0 then (if w.lo then s.updPkg pkg fun k => { k with stripe := nbit w.v 0 } else s)
  else if 0x100 ≤ o && o < 0x300 && w.lo && nbit w.v 4 then
    s.updPkg pkg fun k => match mfind k.peers ((o - 0x100) / 8) with
      | some p => { k with peers := mput k.peers ((o - 0x100) / 8) { p with reinc := false } }
      | none => k
  else s

/-- Fault block (15 R332). -/
def State.writeFault (s : State) (gs o : Nat) (w : RegWrite) : State :=
  let k := s.stk gs
  match o with
  | 0x000 => let v := w.over k.stopBase.toNat; s.setStk gs { k with stopBase := BitVec.ofNat 64 (field v 17 25 + v % 2) }
  | 0x008 => let v := w.over k.flogBase.toNat; s.setStk gs { k with flogBase := BitVec.ofNat 64 (field v 18 24 + v % 2) }
  | 0x018 => s.setStk gs { k with flogTail := w.over k.flogTail % 2 ^ 32 }
  | 0x020 => if w.lo then s.writeRetry gs (w.v % 4096) else s
  | 0x028 => s.setStk gs { k with saveBase := BitVec.ofNat 64 (field (w.over k.saveBase.toNat) 16 26) }
  | 0x030 => s.setStk gs { k with saveSize := w.over k.saveSize % 65536 }
  | 0x038 => s.setStk gs { k with retryErr := k.retryErr && !(w.lo && nbit w.v 1) }
  | _ => s

/-- A block of predicates: their words, then their VSTATs (16 R353, R354). -/
def writePreds (m : Map Pred) (first last vs o : Nat) (w : RegWrite) : Map Pred :=
  let n := last + 1 - first
  if o < 32 * n then
    let i := first + o / 32
    writePredWord m first last i (o % 32 / 8) (w.over (readPredWord (mget m i Pred.reset) (o % 32 / 8)))
  else if vs ≤ o && o < vs + 8 * n && w.lo then writeVstat m (first + (o - vs) / 8) w.v
  else m

/-- Debug block (16 R360, R362, R371, R372). -/
def State.writeDebug (s : State) (gs o : Nat) (w : RegWrite) : State :=
  let k := s.stk gs
  match o with
  | 0x000 => s.setStk gs { k with htgt := BitVec.ofNat 64 (w.over k.htgt.toNat) }
  | 0x008 => if w.lo then s.writeHctl gs (w.v % 2 ^ 32) else s
  | 0x010 => s.setStk gs { k with dbgErr := k.dbgErr && !(w.lo && nbit w.v 0) }
  | 0x018 => s.writeTrc gs (w.over (k.trcCores.toNat * 2 ^ 16 + b2n k.trcWrap * 2 + b2n k.trcEn))
  | 0x020 => s.setStk gs { k with trcBase := BitVec.ofNat 64 (field (w.over k.trcBase.toNat) 12 30) }
  | 0x028 => s.setStk gs { k with trcSize := w.over k.trcSize % 2 ^ 32 }
  | 0x180 =>
    if w.lo then s.setStk gs { k with
      dmpPkg := bits w.v 1 6
      dmpPeer := nbit w.v 0 } else s
  | 0x188 => s.setStk gs { k with dmpPaddr := BitVec.ofNat 64 (w.over k.dmpPaddr.toNat % 2 ^ 52) }
  | 0x190 => s.setStk gs { k with dmpPsize := w.over k.dmpPsize % 65536 }
  | _ =>
    if 0x80 ≤ o && o < 0x180 then
      let i := (o - 0x80) / 16
      if o % 16 = 0 then s.setStk gs { k with dmpBase := mset k.dmpBase i (BitVec.ofNat 64 (field (w.over (mget k.dmpBase i 0).toNat) 16 26)) 0 }
      else s.setStk gs { k with dmpSize := mset k.dmpSize i (w.over (mget k.dmpSize i 0) % 65536) 0 }
    else if 0x200 ≤ o && o < 0x280 then
      let i := (o - 0x200) / 8
      s.setStk gs { k with dmpTail := mset k.dmpTail i (w.over (mget k.dmpTail i 0)) 0 }
    else s

/-- A write of HQ_CTL (17 R378): EN set from 0 makes HEAD equal TAIL and clears ERR. -/
def State.writeHqCtl (s : State) (pkg q value : Nat) : State :=
  let h := s.hq pkg q
  let on := nbit value 0 && !h.en
  s.setHq pkg q { h with
    log2n := bits value 10 4
    stack := bits value 6 4
    pslot := bits value 2 4
    user := nbit value 1
    en := nbit value 0
    head := if on then h.tail else h.head
    err := h.err && !on }

/-- A write of HQ_TAIL (17 R378, R379): ignored while EN is 0; one that puts TAIL - HEAD above the ring's entries sets ERR. -/
def State.writeHqTail (s : State) (pkg q value : Nat) : State :=
  let h := s.hq pkg q
  let t := value % 2 ^ 32
  if !h.en then s
  else s.setHq pkg q { h with
    tail := t
    err := h.err || decide (2 ^ h.log2n < (t + 2 ^ 32 - h.head % 2 ^ 32) % 2 ^ 32) }

/-- A host queue's registers. A base that is not 64-byte aligned is held and used as written (log 89, DESIGN CHOICE). -/
def State.writeHq (s : State) (pkg q o : Nat) (w : RegWrite) : State :=
  let h := s.hq pkg q
  match o with
  | 0x00 => s.setHq pkg q { h with base := BitVec.ofNat 64 (field (w.over h.base.toNat) 0 52) }
  | 0x08 => if w.lo then s.writeHqCtl pkg q w.v else s
  | 0x10 => if w.lo then s.writeHqTail pkg q w.v else s
  | _ => s

/-- May a report be written to a buffer (17 R385): aligned, and wholly in aperture-0 DRAM of stack 0 or in the host window? -/
def attBufOk (pkg buf : Nat) : Bool :=
  let loc := paLoc buf
  buf % 64 = 0 && paGs buf = 16 * pkg &&
    (decide (loc + reportLen ≤ 0x1800000000) || (decide (0x30000000000 ≤ loc) && decide (loc + reportLen ≤ 0x40000000000)))

/-- A write of ATT_CTL (17 R385): ERR and DONE fall where ones are written; GO starts a report, or fails for a bad buffer. -/
def State.writeAtt (s : State) (pkg value : Nat) : State :=
  let k := s.pkg pkg
  let k := { k with
    attErr := k.attErr && !nbit value 3
    attDone := k.attDone && !nbit value 2 }
  if !nbit value 0 || k.attBusy then s.setPkg pkg k
  else if !attBufOk pkg k.attBuf.toNat then s.setPkg pkg { k with
    attErr := true
    attEcode := 1 }
  else s.setPkg pkg { k with
    attBusy := true
    attErr := false
    attDone := false
    attEcode := 0
    attReqNonce := k.attNonce
    attReqBuf := k.attBuf }

/-- Boot block: the attestation mailbox (17 R385). -/
def State.writeBoot (s : State) (pkg o : Nat) (w : RegWrite) : State :=
  let k := s.pkg pkg
  if 0x400 ≤ o && o < 0x420 then
    let b := (o - 0x400) * 8
    s.setPkg pkg { k with attNonce := BitVec.ofNat 256 (setBits k.attNonce.toNat b 64 (w.over (bits k.attNonce.toNat b 64))) }
  else if o = 0x420 then s.setPkg pkg { k with attBuf := BitVec.ofNat 64 (w.over k.attBuf.toNat % 2 ^ 52) }
  else if o = 0x428 then (if w.lo then s.writeAtt pkg (w.v % 2 ^ 32) else s)
  else s

/-- A write of PWR_CTL (17 R387): codes 11-15 are ignored; a later write replaces one still in progress. -/
def State.writePwr (s : State) (pkg value : Nat) : State :=
  if bits value 0 4 ≤ 10 then s.updPkg pkg fun k => { k with capWanted := some (bits value 0 4) } else s

/-- A write of PRIV_BASE or PRIV_SIZE (17 R380), ignored while any group holds a window. -/
def State.writePriv (s : State) (gs o : Nat) (w : RegWrite) : State :=
  let k := s.stk gs
  if !k.privUsed.isEmpty then s
  else if o = 0 then s.setStk gs { k with privBase := BitVec.ofNat 64 (field (w.over k.privBase.toNat) 16 26) }
  else if o = 8 then s.setStk gs { k with privSize := w.over k.privSize % 65536 }
  else s

/-- A write to the 8-byte register at an offset. -/
def State.regPut (s : State) (gs off : Nat) (w : RegWrite) : State :=
  let pkg := pkgOf gs
  let first := gs % 16 = 0
  match off / 65536 with
  | 1 => s.writeXlat gs (off - 0x10000) w
  | 2 => if off = 0x20000 && w.lo then s.writeScrub gs w.v else s
  | 3 => if first then s.writeFab pkg (off - 0x30000) w else s
  | 4 => if off = 0x40000 && w.lo then s.writeSched gs w.v else s
  | 5 => s.writeFault gs (off - 0x50000) w
  | 6 =>
    if off < 0x60000 + 24 * 0x400 then
      s.updCore (24 * gs + (off - 0x60000) / 0x400) fun k => { k with preds := writePreds k.preds 0 15 0x200 (off % 0x400) w }
    else s
  | 7 => s.updStk gs fun k => { k with preds := writePreds k.preds 16 47 0x400 (off - 0x70000) w }
  | 8 => s.writeDebug gs (off - 0x80000) w
  | 9 =>
    if off < 0x90000 + 24 * 0x100 && off % 0x100 = 0xC8 && w.lo && nbit w.v 0 then
      s.updCore (24 * gs + (off - 0x90000) / 0x100) fun k => { k with hist := [] }
    else s
  | 10 =>
    if !first then s
    else if off < 0xA1000 then s.writeHq pkg ((off - 0xA0000) / 64) (off % 64) w
    else if off = 0xA1000 then s.updPkg pkg fun k => { k with surprise := k.surprise && !(w.lo && nbit w.v 1) }
    else s
  | 11 => if first then s.writeBoot pkg (off - 0xB0000) w else s
  | 12 => if first && off = 0xC0000 && w.lo then s.writePwr pkg w.v else s
  | 13 => s.writePriv gs (off - 0xD0000) w
  | _ => s

/-- A store to a notify slot (04 R83): an aligned 16-byte store to DOOR is a doorbell; any other store that touches DOOR is discarded with
DROP. -/
def State.writeNotify (s : State) (gs off n v : Nat) : State :=
  let p := off - 0x10000000
  let page := p / 65536
  let slot := p % 65536 / 1024
  if 16 ≤ page || 16 ≤ p % 1024 then s
  else if n = 16 && p % 1024 = 0 then s.ringDoor gs page slot (v % 2 ^ 64) (v / 2 ^ 64 % 2 ^ 64)
  else
    let key := nslotKey page slot
    s.updStk gs fun k => { k with nslots := mset k.nslots key { mget k.nslots key NSlot.reset with drop := true } NSlot.reset }

/-- Is a register open to writes: those of the boot block always, the others once self-test has ended well (17 R381, R382)? -/
def Pkg.regOpen (k : Pkg) (gs off : Nat) : Bool := k.boot = .ready || (gs % 16 = 0 && decide (0xB0000 ≤ off) && decide (off < 0xC0000))

/-- A write of `n` bytes of registers: 4, 8 or 16, aligned (09 Table 9-3, 00 R5); refused while the device is not ready (17 R381). -/
def State.regWrite (s : State) (gs off n v : Nat) : State :=
  if !(s.pkg (pkgOf gs)).regOpen gs off then s
  else if 0x10000000 ≤ off then s.writeNotify gs off n v
  else if n ≤ 4 then
    if off % 8 = 0 then s.regPut gs off ⟨v % 2 ^ 32, true, false⟩ else s.regPut gs (off / 8 * 8) ⟨v % 2 ^ 32 * 2 ^ 32, false, true⟩
  else if n ≤ 8 then s.regPut gs off ⟨v % 2 ^ 64, true, true⟩
  else (s.regPut gs off ⟨v % 2 ^ 64, true, true⟩).regPut gs (off + 8) ⟨v / 2 ^ 64 % 2 ^ 64, true, true⟩

/-- REGISTER_WRITE (00 R5): an aligned write of 4, 8 or 16 bytes to a register of a stack. -/
def execRegisterWrite (gs off size value : Nat) (s : State) : Out :=
  if (size = 4 || size = 8 || size = 16) && off % size = 0 then .next (s.regWrite gs off size value) else .next s

/-- HQ_CTL_WRITE (17 R378), refused until the device is ready (R381). -/
def execHqCtlWrite (pkg q value : Nat) (s : State) : Out :=
  .next (if q < 64 && (s.pkg pkg).boot = .ready then s.writeHqCtl pkg q value else s)

/-- HQ_TAIL_WRITE (17 R379), refused until the device is ready (R381). -/
def execHqTailWrite (pkg q value : Nat) (s : State) : Out :=
  .next (if q < 64 && (s.pkg pkg).boot = .ready then s.writeHqTail pkg q value else s)

/-- PRIV_AREA_WRITE (17 R380), refused until the device is ready (R381). -/
def execPrivAreaWrite (gs off value : Nat) (s : State) : Out :=
  .next (if (s.pkg (pkgOf gs)).boot = .ready then s.writePriv gs off ⟨value % 2 ^ 64, true, true⟩ else s)

/-- ATT_GO (17 R385). -/
def execAttGo (pkg value : Nat) (s : State) : Out := .next (s.writeAtt pkg value)

/-- PWR_CTL_WRITE (17 R387), refused until the device is ready (R381). -/
def execPwrCtlWrite (pkg value : Nat) (s : State) : Out := .next (if (s.pkg pkg).boot = .ready then s.writePwr pkg value else s)

end Sys2Proof.Machine
end

