-- ==== Sys2Proof/Machine/Host.lean ====
section
/-! DEFINITION. The host link, host queues, start-up, attestation and the power cap (17 R374-R387). -/

namespace Sys2Proof.Machine

/-! ## BAR windows (17 R375) -/

/-- What a BAR offset names. -/
inductive BarSpot where
  | regs (gs off : Nat)
  | dram (gs loc : Nat)
  | nothing
  deriving DecidableEq, Repr

/-- The window map. -/
def barSpot (pkg bar off n : Nat) : BarSpot :=
  if bar = 0 then
    let gs := 16 * pkg + off / 2 ^ 25
    let x := off % 2 ^ 25
    if 2 ^ 29 ≤ off then .nothing
    else if x + n ≤ 0x1000000 then .regs gs x
    else if 0x1000000 ≤ x && x + n ≤ 0x1100000 then .regs gs (0x10000000 + (x - 0x1000000))
    else .nothing
  else if bar = 2 then
    let y := off % 2 ^ 37
    if off < 2 ^ 41 && y + n ≤ 0x1800000000 then .dram (16 * pkg + off / 2 ^ 37) y else .nothing
  else .nothing

/-- Does a window answer: the boot block always, the rest once self-test has ended well (17 R381, R382)? -/
def Pkg.answers (k : Pkg) (b : BarSpot) : Bool :=
  match b with
  | .regs gs off => k.regOpen gs off
  | _ => k.boot = .ready

/-- Is a register access of a size the block takes? -/
def barSize (off n : Nat) : Bool := (n = 4 || n = 8 || n = 16) && off % n = 0

/-- May a request forwarded from stack 0 perform at a home: nothing older on its channel, a host write held there among it (08 R162, R176)? -/
def State.hostTurn (s : State) (pkg gs : Nat) : Bool := !(s.chan.any fun m => m.src = 16 * pkg && m.dst = gs)

/-- Is a bank of a span taken? -/
def State.spanBusy (s : State) (ref n : Nat) : Bool := (refBlocks ref n).any fun b => s.refBusy b

/-- A host write waits at its home, held by a firing (16 R355). -/
def State.holdHost (s : State) (src gs ev : Nat) (b : MsgBody) : State :=
  let (i, s) := s.fresh
  { s with chan := s.chan ++ [⟨i, src, gs, b, some ev, false, true, false⟩] }

/-- HOST_WRITE (17 R375; 08 R176; 16 R350): forwarded from stack 0 and performed at its home. One that a precise firing holds stays there, and
later traffic of its channel with it, until its issuer, the event's other units, resumes (16 R355). -/
def execHostWrite (pkg bar off : Nat) (data : List Byte) (s : State) : Out :=
  let k := s.pkg pkg
  let n := data.length
  let b := barSpot pkg bar off n
  if !k.linkUp || !k.answers b then .next s else
  match b with
  | .nothing => .next s
  | .regs gs x => .next (if barSize x n && s.hostTurn pkg gs then s.regWrite gs x n (ofBytes data) else s)
  | .dram gs loc =>
    if !s.hostTurn pkg gs || s.spanBusy (paOf gs loc) n then .next s else
    let (p, s) := s.free
    match s.perform .nobody false ⟨1, 0, n, p % 16, none, 0⟩ (paOf gs loc) n (.write (ofBytes data)) with
    | (s, .held ev) => .next (s.holdHost (16 * pkg) gs ev (.hostWrite (p % 16) (paOf gs loc) data none))
    | (s, _) => .next s

/-- HOST_READ (17 R375): the completion's bytes; none for an Unsupported Request. -/
def execHostRead (pkg bar off size : Nat) (s : State) : Out :=
  let k := s.pkg pkg
  let b := barSpot pkg bar off size
  let answer (s : State) (bs : List Byte) : State := s.updPkg pkg fun k => { k with hostReads := k.hostReads ++ [(bar, off, bs)] }
  if !k.linkUp then .next s
  else if !k.answers b then .next (answer s [])
  else match b with
    | .nothing => .next (answer s [])
    | .regs gs x =>
      if !s.hostTurn pkg gs then .next s
      else .next (answer s (if barSize x size then bytesOf size (s.regRead gs x size) else []))
    | .dram gs loc =>
      if !s.hostTurn pkg gs || s.spanBusy (paOf gs loc) size then .next s
      else .next (answer (s.touchRow (paOf gs loc)) (s.refBytes (paOf gs loc) size))

/-! ## The link (17 R376, R377) -/

/-- LINK_DOWN (17 R376, R377): accesses to host memory see the link down from now on. -/
def execLinkDown (pkg : Nat) (surprise : Bool) (s : State) : Out :=
  let k := s.pkg pkg
  if !k.linkUp then .next s
  else .next (s.setPkg pkg { k with
    linkUp := false
    downs := (k.downs + 1) % 65536
    surprise := surprise })

/-- LINK_UP (17 R376). -/
def execLinkUp (pkg : Nat) (s : State) : Out := .next (s.updPkg pkg fun k => { k with linkUp := true })

/-! ## Host queues (17 R378, R379) -/

/-- A queue entry (17 Table 17-3), as the number of its 64 bytes. -/
abbrev Entry := Nat

def Entry.kind (e : Entry) : Nat := bits e 0 8
def Entry.vector (e : Entry) : Nat := bits e 8 6
def Entry.irq (e : Entry) : Bool := nbit e 14
def Entry.khandle (e : Entry) : Nat := bits e 64 64
def Entry.args (e : Entry) : Nat := bits e 128 64
def Entry.value (e : Entry) : Nat := bits e 192 64
def Entry.addr (e : Entry) : Nat := bits e 256 64

/-- A bad KIND or a non-zero reserved field. -/
def Entry.bad (e : Entry) : Bool := decide (3 ≤ e.kind) || bits e 15 49 ≠ 0 || bits e 320 192 ≠ 0

/-- The entry a queue takes next: it runs, the link is up, and entries are there. -/
def State.hqEntry (s : State) (pkg q : Nat) : Option Entry :=
  let k := s.pkg pkg
  let h := s.hq pkg q
  if q < 64 && k.boot = .ready && k.linkUp && h.en && !h.err && h.log2n ≠ 0 && h.head ≠ h.tail then
    some (s.num (h.base.toNat + 64 * (h.head % 2 ^ h.log2n)) 64)
  else none

/-- Is the queue's previous launch still QUEUED or RUNNING? -/
def State.hqBusy (s : State) (pkg q : Nat) : Bool := ((s.launch? (s.hq pkg q).last).map Launch.busy).getD false

/-- The queue stops at its entry. -/
def State.hqStop (s : State) (pkg q : Nat) : State := s.setHq pkg q { s.hq pkg q with err := true }

/-- HQ_NOP (17 R379). -/
def execHqNop (pkg q : Nat) (s : State) : Out :=
  match s.hqEntry pkg q with
  | some e => .next (if !e.bad && e.kind = 0 then s.hqTake pkg q else s)
  | none => .next s

/-- HQ_LAUNCH (17 R379; 14 R309): the launch enters the dispatcher of STACK once the previous one has ended. -/
def execHqLaunch (pkg q : Nat) (s : State) : Out :=
  match s.hqEntry pkg q with
  | some e =>
    if e.bad || e.kind ≠ 1 || s.hqBusy pkg q then .next s else
    let h := s.hq pkg q
    let (key, s) := s.accept (.queue pkg q) (16 * pkg + h.stack) e.khandle e.args h.pslot h.user
    .next ((s.setHq pkg q { s.hq pkg q with last := key }).hqTake pkg q)
  | none => .next s

/-- Is the store of a queue's SIGNAL held at its home (16 R355)? -/
def State.signalHeld (s : State) (pkg q : Nat) : Bool :=
  s.chan.any fun m => pkgOf m.src = pkg && match m.body with
    | .hostWrite _ _ _ (some x) => x.1 = q
    | _ => false

/-- HQ_SIGNAL (17 R379): VALUE is stored to ADDR under PSLOT, and VECTOR raised where IRQ asks it; a store that faults stops the queue. -/
def execHqSignal (pkg q : Nat) (s : State) : Out :=
  match s.hqEntry pkg q with
  | some e =>
    if e.bad || e.kind ≠ 2 || s.hqBusy pkg q || s.signalHeld pkg q then .next s else
    let h := s.hq pkg q
    let gs0 := 16 * pkg
    let vector := if e.irq then some e.vector else none
    if e.addr % 8 ≠ 0 then .next (s.hqStop pkg q) else
    match s.probeVa ⟨gs0, none, h.pslot, h.user⟩ ⟨2, 8, true, true, false⟩ e.addr with
    | (s, .error _) => .next (s.hqStop pkg q)
    | (s, .ok (r, ap)) =>
      let gs := paGs (refPa r)
      if !s.reaches gs0 gs then .next (s.hqStop pkg q)
      else if !s.canSend gs0 gs (planeOf gs0) || !s.hostTurn pkg gs || s.refAbsent r 8 || s.refBusy r then .next s
      else if ap = 3 then .next ((s.regWrite gs (paLoc r - 0x24000000000) 8 e.value).signalled pkg q vector)
      else
        match s.perform .nobody false ⟨1, 0, 8, h.pslot, none, 0⟩ r 8 (.write e.value) with
        | (s, .held ev) => .next (s.holdHost gs0 gs ev (.hostWrite h.pslot r (bytesOf 8 e.value) (some (q, vector))))
        | (s, _) => .next ((s.signalled pkg q vector).sendFlit gs0 gs (planeOf gs0) 1 0)
  | none => .next s

/-- HQ_BAD_ENTRY (17 R379). -/
def execHqBadEntry (pkg q : Nat) (s : State) : Out :=
  match s.hqEntry pkg q with
  | some e => .next (if e.bad then s.hqStop pkg q else s)
  | none => .next s

/-! ## Reset (17 R381; 05 R99) and measured start (17 R383, R384) -/

/-- Bytes of an almanac entry (17 Table 17-5). -/
def Almanac.bytes (a : Almanac) : List Byte :=
  bytesOf 8 (a.index % 2 ^ 32 + a.mr % 16 * 2 ^ 32 + a.image % 256 * 2 ^ 36 + b2n a.sigOk * 2 ^ 44) ++ bytesOf 8 a.version ++
    bytesOf 64 a.digest.toNat ++ bytesOf 48 0

/-- SHAKE256 with 512 bits of output. -/
def shake (bs : List Byte) : BitVec 512 := BitVec.ofNat 512 (Config.shake256 bs)

/-- Does an image's signature over its digest verify, against the key whose digest is fused in the device (17 R384)? -/
def imageVerified (i : FwImage) (d : BitVec 512) : Bool :=
  shake (bytesOf 64 i.key.toNat) = BitVec.ofNat 512 Config.fusedKeyDigest && match i.signature with
    | some g => Config.slhVerifies i.key.toNat d.toNat g
    | none => false

/-- One image is measured: its register is extended and the almanac takes an entry. -/
def Pkg.measure (k : Pkg) (i : FwImage) : Pkg :=
  let d := shake i.bytes
  let mr := mget k.mrs (i.mr % 8) 0
  { k with
    mrs := mset k.mrs (i.mr % 8) (shake (bytesOf 64 mr.toNat ++ bytesOf 64 d.toNat)) 0
    almanac := k.almanac ++ [⟨k.almanac.length, i.mr % 8, i.image, imageVerified i d, i.version, d⟩] }

/-- The count after one more reset (05 R99). -/
def nextInc (n : Nat) : Nat := if 65535 ≤ n then 1 else n + 1

/-- Is a stack, or a core, of a package? -/
def ofPkg (pkg gs : Nat) : Bool := pkgOf gs = pkg

/-- A context on a package that is reset: gone; one of another package's launch, or whose landing is not acknowledged elsewhere, leaves
what its source or its launch learns of it when the peer is found lost (05 Table 5-4). -/
def State.resetCtx (s : State) (pkg : Nat) (kc : Nat × Ctx) : Option (Nat × Ctx) :=
  if !ofPkg pkg (gsOf kc.2.gc) then some kc
  else
    let foreign := ((s.launch? kc.2.launch).map fun l => decide (l.pkg ≠ pkg)).getD false
    let owed := s.landAcks.any fun a => a.ctx = kc.1 && !ofPkg pkg (gsOf a.srcGc)
    if foreign || owed then some (kc.1, { kc.2 with place := .ended }) else none

/-- What a group still running elsewhere keeps of its launch. -/
def Launch.orphan (l : Launch) : Launch :=
  { l with
    state := .done
    killed := true
    nextTeam := l.total
    ended := l.total }

/-- What it keeps of its team: no lines, no slots, no image. -/
def Team.orphan (t : Team) : Team :=
  { t with
    scratch := 0
    mslots := []
    saved := none
    batches := []
    bars := []
    joins := [] }

/-- Is a stop's unit on a package, or a context that is no more? -/
def State.stopGone (s : State) (pkg : Nat) (u : UnitId) : Bool :=
  let dead (c : Nat) : Bool := !((s.ctx? c).map Ctx.alive).getD false
  match u with
  | .group c => dead c
  | .path c _ => dead c
  | .copyEngine gc => ofPkg pkg (gsOf gc)
  | .matrixUnit gc => ofPkg pkg (gsOf gc)
  | .valueRun gc => ofPkg pkg (gsOf gc)
  | .bankUnits gs => ofPkg pkg gs
  | .bankRun gs _ => ofPkg pkg gs
  | .stackLine gs => ofPkg pkg gs

/-- The package on which a post's group stands, where that is not the one reset. -/
def State.standsElsewhere (s : State) (pkg team gidx part gen : Nat) : Option Nat :=
  (s.ownerOf team gidx part gen).bind fun kc => if ofPkg pkg (gsOf kc.2.gc) then none else some (pkgOf (gsOf kc.2.gc))

/-- Does an acknowledgement survive the reset of a package: it does not end there, or its group has gone on and another package will find its way
lost (07 R154)? -/
def State.ackStays (s : State) (pkg : Nat) (a : Ack) : Bool :=
  !ofPkg pkg a.dest || ((s.standsElsewhere pkg a.team a.gidx a.part a.splitGen).isSome && (a.lost || !ofPkg pkg a.src))

/-- Posts and acknowledgements that were within a package when it was reset, of groups that have gone on to another: their acknowledgements, lost,
each with the package that counts it (05 Table 5-4, 07 R154). -/
def State.resetAcks (s : State) (pkg : Nat) : List (Nat × Ack) :=
  (s.acks.filterMap fun a =>
    if ofPkg pkg a.dest && ofPkg pkg a.src && !a.lost then
      (s.standsElsewhere pkg a.team a.gidx a.part a.splitGen).map fun p => (p, { a with lost := true, dropped := false })
    else none) ++
  s.chan.filterMap fun m => match m.body with
    | .post q => if ofPkg pkg m.src && !m.lost then
        (s.standsElsewhere pkg q.team q.gidx q.part q.splitGen).map fun p => (p, ⟨m.id, m.src, q.team, q.gidx, q.part, q.splitGen, m.src, true, false⟩)
      else none
    | _ => none

/-- Everything of a package at its reset: units, memory, and what runs or travels from it. -/
def State.clearPkg (s : State) (pkg : Nat) : State :=
  let keepPa (pa : Nat) : Bool := !ofPkg pkg (paGs pa) || locKind (paGs pa) (paLoc pa) = .host
  let ctxs := s.ctxs.filterMap (s.resetCtx pkg)
  let lives (f : Ctx → Bool) : Bool := ctxs.any fun kc => kc.2.alive && f kc.2
  let launches := s.launches.filterMap fun (kl : Nat × Launch) =>
    if kl.2.pkg ≠ pkg then some kl
    else if lives (fun c => c.launch = kl.1) then some (kl.1, kl.2.orphan) else none
  let teams := s.teams.filterMap fun (kt : Nat × Team) =>
    if !ofPkg pkg (gsOf kt.2.baseGc) then some kt
    else if lives (fun c => c.team = kt.1) then some (kt.1, kt.2.orphan) else none
  let based (tk : Nat) : Bool := ((s.team? tk).map fun t => ofPkg pkg (gsOf t.baseGc)).getD true
  let lost := s.resetAcks pkg
  let s := lost.foldl (fun s x => s.countLost x.1) s
  let s : State := { s with
        mem := s.mem.filter fun c => keepPa c.1
        poison := s.poison.filter fun k => keepPa (k.1 * 32)
        absent := s.absent.filter fun k => keepPa (k.1 * 128)
        stks := s.stks.filter fun k => !ofPkg pkg k.1
        cores := s.cores.filter fun k => !ofPkg pkg (gsOf k.1)
        ctxs := ctxs
        launches := launches
        teams := teams
        chan := s.chan.filter fun m => !ofPkg pkg m.src
        acks := s.acks.filter (s.ackStays pkg) ++ lost.map (·.2)
        landAcks := s.landAcks.filter fun a => !ofPkg pkg (gsOf a.srcGc)
        notices := s.notices.filter fun n => !based n.team
        bars := s.bars.filter fun b => !based b.team
        reports := s.reports.filter fun r => !based r.team
        cmds := s.cmds.filter fun c => !ofPkg pkg (gsOf c.gc)
        saves := s.saves.filter fun i => !ofPkg pkg i.gs
        dumps := s.dumps.filter fun d => !ofPkg pkg d.gs }
  let alive (k : Nat) : Bool := ((s.ctx? k).map Ctx.alive).getD false
  { s with
    accs := s.accs.filter fun a => alive a.ctx
    joinks := s.joinks.filter fun j => alive j.ctx
    rels := s.rels.filter fun r => alive r.ctx && !ofPkg pkg r.src
    stops := s.stops.filter fun m => !s.stopGone pkg m.target }

/-- DEVICE_RESET (17 R381, R383, R384; 05 R99): the incarnation count rises, memory and registers are at reset, the images are measured, and
self-test begins. -/
def execDeviceReset (pkg : Nat) (images : List FwImage) (s : State) : Out :=
  let n := nextInc (s.pkg pkg).incStored
  let k := images.foldl Pkg.measure { Pkg.reset with
    inc := n
    incStored := n
    endorsed := images.all fun i => imageVerified i (shake i.bytes) }
  .next (((s.clearPkg pkg).setPkg pkg k).setBytes (almanacPa pkg) (k.almanac.flatMap Almanac.bytes))

/-- SELF_TEST_END (17 R381, R382): a failure of SRAM, DRAM or mesh leaves the safe state; a plane's failure does not. -/
def execSelfTestEnd (pkg stks unit code planes : Nat) (s : State) : Out :=
  let k := s.pkg pkg
  if k.boot ≠ .testing || 3 < unit then .next s
  else
    let k := { k with planesBad := BitVec.ofNat 8 planes }
    .next (s.setPkg pkg (if unit = 0 then { k with boot := .ready } else { k with
      boot := .safe
      failUnit := unit
      failStks := BitVec.ofNat 16 stks
      failCode := code % 65536 }))

/-! ## Attestation (17 R385, R386) -/

/-- Bytes 0x000-0x2BF of a report (17 Table 17-8). -/
def State.reportBody (s : State) (pkg nonce : Nat) : List Byte :=
  let k := s.pkg pkg
  let n := k.almanac.length
  let alm := shake (s.bytes (almanacPa pkg) (128 * n))
  bytesOf 8 1 ++ bytesOf 32 nonce ++ (List.range 8).flatMap (fun i => bytesOf 64 (mget k.mrs i 0).toNat) ++ bytesOf 64 alm.toNat ++
    bytesOf 8 (b2n k.endorsed + pkg % 64 * 2 ^ 8 + k.inc % 65536 * 2 ^ 16 + n % 2 ^ 32 * 2 ^ 32) ++ bytesOf 64 Config.attPublicKey ++ bytesOf 16 0

/-- The report with its signature. -/
def State.reportBytes (s : State) (pkg nonce : Nat) : List Byte :=
  let body := s.reportBody pkg nonce
  body ++ bytesOf 29792 (Config.attSignature (ofBytes body))

/-- ATT_REPORT_DONE (17 R385): the report is written, then DONE is set and vector 0 raised; a buffer that cannot be written gives ECODE 2. -/
def execAttReportDone (pkg : Nat) (s : State) : Out :=
  let k := s.pkg pkg
  if !k.attBusy then .next s
  else if isHostRef k.attReqBuf.toNat && !k.linkUp then .next (s.setPkg pkg { k with
    attBusy := false
    attErr := true
    attEcode := 2 })
  else
    let s := s.refStore k.attReqBuf.toNat (s.reportBytes pkg k.attReqNonce.toNat)
    .next (s.updPkg pkg fun k => { k with
      attBusy := false
      attDone := true
      attLen := reportLen
      msix := k.msix ++ [0] })

/-- MCTP_ATTEST_REQUEST (17 R385): the report of the request's nonce, in the response; the mailbox is not touched. -/
def execMctpAttestRequest (pkg nonce : Nat) (s : State) : Out :=
  .next (s.updPkg pkg fun k => { k with mctpOut := k.mctpOut ++ [s.reportBytes pkg nonce] })

/-! ## Power cap (17 R387) -/

/-- CAP_EFFECT (17 R387): the cap last written takes effect. -/
def execCapEffect (pkg : Nat) (s : State) : Out :=
  match (s.pkg pkg).capWanted with
  | none => .next s
  | some n => .next (s.updPkg pkg fun k => { k with
    cap := n
    capWanted := none })

end Sys2Proof.Machine
end

