-- ==== Sys2Proof/Machine/Perform.lean ====
section
/-! DEFINITION. Memory words performing at their homes after issue (08 R157-R162; 09 R182-R185, R190; 03 R62): loads, stores and atomics, lane
by lane. -/

namespace Sys2Proof.Machine

/-- Does a message carry an earlier post of the access's agent, sent from the stack it stands on, to the location (08 R158)? A part of a split
group is an agent of its own until the join, and its posts are none of the group's (08 R157, 18 R390). -/
def Msg.ownPost (m : Msg) (a : Access) (c : Ctx) (x : LaneAcc) : Bool :=
  match m.body with
  | .post p => decide (m.id < a.id) && m.src = gsOf c.gc && p.ofCtx c && decide (c.joinedAt ≤ m.id) && overlaps p.pa (postBytes p.op) x.pa x.n
  | _ => false

/-- May an element of an access perform: its line present, its bank free, no earlier access of its group to the location nor an earlier
post from the same stack, and of its own word no lower sector of the lane and no lower lane at the location still to perform (08
R158-R160; 09 R190)? `before` holds the lower elements still to perform. -/
def State.elemFree (s : State) (a : Access) (c : Ctx) (before : List LaneAcc) (x : LaneAcc) : Bool :=
  let earlier := s.accs.any fun b => b.ctx = a.ctx && b.id < a.id && b.lanes.any fun y => overlaps y.pa y.n x.pa x.n
  let posted := s.chan.any fun m => m.ownPost a c x
  let lower := before.any fun y => y.lane = x.lane || overlaps y.pa y.n x.pa x.n
  !s.refAbsent x.pa x.n && !s.refBusy x.pa && !earlier && !posted && !lower

/-- `n` words of a number, lowest first. -/
def wordsOf : Nat → Nat → List Nat
  | 0, _ => []
  | n + 1, v => v % 2 ^ 32 :: wordsOf n (v / 2 ^ 32)

/-- The registers' values of a loaded datum (09 Table 9-2; 16 stands for a sector of an LDT). -/
def loadWords (sz v : Nat) : List Nat :=
  match sz with
  | 1 => [wrap 32 (sint 8 v)]
  | 3 => [wrap 32 (sint 16 v)]
  | 16 => wordsOf 8 v
  | _ => wordsOf (ldRegs sz) v

/-- Write consecutive registers of a lane. -/
def Ctx.setRun (c : Ctx) (r l : Nat) (ws : List Nat) : Ctx := (ws.zipIdx).foldl (fun c w => c.setV (r + w.2) l w.1) c

/-- An element has performed. -/
def State.dropElem (s : State) (id : Nat) (x : LaneAcc) : State :=
  { s with accs := s.accs.map fun a => if a.id = id then { a with lanes := a.lanes.filter fun y => y ≠ x } else a }

/-- A loaded datum reaches its registers, and the value predicates of the core see it (16 R348). -/
def State.loadInto (s : State) (a : Access) (c : Ctx) (x : LaneAcc) (v : Nat) : State :=
  let s := s.updCtx a.ctx fun c => c.setRun x.reg x.lane (loadWords a.sz v)
  let fld (lo k : Nat) : Nat := v / 2 ^ (8 * (lo - refPa x.pa)) % 2 ^ (8 * k)
  let (s, fs) := s.watchCore c.gc false ⟨0, refPa x.pa, x.n, c.pslot, some (x.lane, c.gidx, a.region), 0⟩ fld
  (s.fire fs (gsOf c.gc) (.path a.ctx a.entry) c.pslot (refPa x.pa) (laneBit x.lane)).1

/-- What an element asks of its home. -/
def Access.op (a : Access) (x : LaneAcc) : HomeOp :=
  match a.kind with
  | .load => .read
  | .store => .write x.data
  | .atom => .atom a.sz x.data
  | .cas => .cas x.cmp x.data

/-- Its class bit (16 Table 16-1). -/
def Access.cls (a : Access) : Nat :=
  match a.kind with
  | .load => 0
  | .store => 1
  | _ => 2

/-- The value an element brings back: a load's datum, or an atomic's old value with its flags (02 R36). -/
def State.deliver (s : State) (a : Access) (c : Ctx) (x : LaneAcc) (v : Nat) (fl : Flags) : State :=
  match a.kind with
  | .load => s.loadInto a c x v
  | .store => s
  | _ => (s.updCtx a.ctx fun c => c.setRun x.reg x.lane (wordsOf (x.n / 4) v)).raiseFlags a.ctx a.entry x.lane a.region fl

/-- Perform one element: at a register, in host memory with the link down, which answers all ones in every 32 bits of the destination (17 R376, 05
Table 5-4), or at its bank. -/
def State.elemDo (s : State) (a : Access) (c : Ctx) (x : LaneAcc) : State :=
  let gs := paGs (refPa x.pa)
  let off := paLoc (refPa x.pa) - 0x24000000000
  if locKind gs (paLoc (refPa x.pa)) = .regs then
    match a.kind with
    | .store => (s.dropElem a.id x).regWrite gs off x.n x.data
    | _ => (s.dropElem a.id x).deliver a c x (s.regRead gs off x.n) 0
  else if isHostRef x.pa && !s.hostUp gs then
    match a.kind with
    | .store => (s.dropElem a.id x).loseWrite gs
    | _ => ((s.dropElem a.id x).updCtx a.ctx Ctx.setErr42).deliver a c x (2 ^ (8 * max 4 x.n) - 1) 0
  else
    match s.perform (.path a.ctx a.entry) x.shown ⟨a.cls, 0, x.n, c.pslot, some (x.lane, c.gidx, a.region), 0⟩ x.pa x.n (a.op x) with
    | (s, .held ev) =>
      let look (y : LaneAcc) : LaneAcc := if y = x then { y with shown := true } else y
      { s with accs := s.accs.map fun b => if b.id = a.id then { b with held := some ev, lanes := b.lanes.map look } else b }
    | (s, .fatal code) => (s.dropElem a.id x).fatalGroup a.ctx a.entry (plainReport code (c.path a.entry).pc (laneBit x.lane)) false
    | (s, .done v fl) => (s.dropElem a.id x).deliver a c x v fl

/-- Perform the elements of the lanes of a mask, in order, those that may. -/
def State.runElems (s : State) (id : Nat) (m : Mask) : List LaneAcc → List LaneAcc → State
  | [], _ => s
  | x :: xs, before =>
    match s.accs.find? fun a => a.id = id with
    | none => s
    | some a =>
      match s.ctx? a.ctx with
      | none => s
      | some c =>
        if a.held.isSome then s
        else if m.getLsbD x.lane && s.elemFree a c before x then (s.elemDo a c x).runElems id m xs before
        else s.runElems id m xs (before ++ [x])

/-- With no element left the word is complete: its slot falls, and a step it ended stops again (06 R122, 13 R306). -/
def State.accDone (s : State) (id : Nat) : State :=
  match s.accs.find? fun a => a.id = id with
  | none => s
  | some a =>
    if !a.lanes.isEmpty then s else
    let s : State := { s with accs := s.accs.filter fun b => b.id ≠ id }
    let s := match a.slot with
      | some k => s.updCtx a.ctx fun c => { c with wslot := mset c.wslot k (mget c.wslot k 0 - 1) 0 }
      | none => s
    s.endStep a.ctx

/-- Perform elements of an access of a kind. -/
def State.performAcc (s : State) (op : Nat) (lanes : Mask) (ok : AccKind → Bool) : State :=
  match s.accs.find? fun a => a.id = op with
  | none => s
  | some a => if ok a.kind then (s.runElems op lanes a.lanes []).accDone op else s

/-- LOAD_RESULT (09 R182, R183, R190): the lanes' data are read at the home and written to the registers. -/
def execLoadResult (op : Nat) (lanes : Mask) (s : State) : Out := .next (s.performAcc op lanes fun k => k = .load)

/-- STORE_PERFORM (09 R182, R183, R190): the lanes' data are written at the home. -/
def execStorePerform (op : Nat) (lanes : Mask) (s : State) : Out := .next (s.performAcc op lanes fun k => k = .store)

/-- ATOMIC_PERFORM (03 R62; 09 R184, R185; 08 R159): the lowest lane still to perform reads, computes and writes in one step. -/
def execAtomicPerform (op : Nat) (s : State) : Out :=
  match (s.accs.find? fun a => a.id = op).bind fun a => a.lanes.head? with
  | none => .next s
  | some x => .next (s.performAcc op (laneBit x.lane) fun k => k = .atom || k = .cas)

end Sys2Proof.Machine
end

