-- ==== Sys2Proof/Machine/Dispatch.lean ====
section
/-! DEFINITION. What each instruction does: one arm per constructor, one direct call of its meaning. -/

namespace Sys2Proof.Machine

/-- The meaning of every instruction of the opcode table. -/
def exec (i : Instr) (s : State) : Host.Outcome State Fault Refusal :=
  match i with
  | .iadd f => Sys2Proof.Machine.execIadd f s
  | .isub f => Sys2Proof.Machine.execIsub f s
  | .imul f => Sys2Proof.Machine.execImul f s
  | .imulh f x => Sys2Proof.Machine.execImulh f x s
  | .imad f x => Sys2Proof.Machine.execImad f x s
  | .imadw f x => Sys2Proof.Machine.execImadw f x s
  | .imin f x => Sys2Proof.Machine.execImin f x s
  | .imax f x => Sys2Proof.Machine.execImax f x s
  | .iabs f => Sys2Proof.Machine.execIabs f s
  | .andW f => Sys2Proof.Machine.execAnd f s
  | .orW f => Sys2Proof.Machine.execOr f s
  | .xorW f => Sys2Proof.Machine.execXor f s
  | .andn f => Sys2Proof.Machine.execAndn f s
  | .shl f => Sys2Proof.Machine.execShl f s
  | .shr f => Sys2Proof.Machine.execShr f s
  | .sar f => Sys2Proof.Machine.execSar f s
  | .rotl f => Sys2Proof.Machine.execRotl f s
  | .bfx f => Sys2Proof.Machine.execBfx f s
  | .bfi f x => Sys2Proof.Machine.execBfi f x s
  | .popc f => Sys2Proof.Machine.execPopc f s
  | .clz f => Sys2Proof.Machine.execClz f s
  | .brev f => Sys2Proof.Machine.execBrev f s
  | .iset f x => Sys2Proof.Machine.execIset f x s
  | .sel f x => Sys2Proof.Machine.execSel f x s
  | .mov f => Sys2Proof.Machine.execMov f s
  | .movi f => Sys2Proof.Machine.execMovi f s
  | .moviH f => Sys2Proof.Machine.execMoviH f s
  | .movx f => Sys2Proof.Machine.execMovx f s
  | .movxw f => Sys2Proof.Machine.execMovxw f s
  | .lea f x => Sys2Proof.Machine.execLea f x s
  | .fadd f => Sys2Proof.Machine.execFadd f s
  | .fmul f => Sys2Proof.Machine.execFmul f s
  | .ffma f x => Sys2Proof.Machine.execFfma f x s
  | .fmin f => Sys2Proof.Machine.execFmin f s
  | .fmax f => Sys2Proof.Machine.execFmax f s
  | .fset f x => Sys2Proof.Machine.execFset f x s
  | .fclass f => Sys2Proof.Machine.execFclass f s
  | .frnd f x => Sys2Proof.Machine.execFrnd f x s
  | .fscale f => Sys2Proof.Machine.execFscale f s
  | .duadd f x => Sys2Proof.Machine.execDuadd f x s
  | .dumul f x => Sys2Proof.Machine.execDumul f x s
  | .dufma f x => Sys2Proof.Machine.execDufma f x s
  | .dumin f x => Sys2Proof.Machine.execDumin f x s
  | .dumax f x => Sys2Proof.Machine.execDumax f x s
  | .duset f x => Sys2Proof.Machine.execDuset f x s
  | .cvt f x => Sys2Proof.Machine.execCvt f x s
  | .zpk f x => Sys2Proof.Machine.execZpk f x s
  | .zupk f x => Sys2Proof.Machine.execZupk f x s
  | .mxpk f x => Sys2Proof.Machine.execMxpk f x s
  | .mxupk f x => Sys2Proof.Machine.execMxupk f x s
  | .fdot4 f x => Sys2Proof.Machine.execFdot4 f x s
  | .idot4 f x => Sys2Proof.Machine.execIdot4 f x s
  | .sadd f => Sys2Proof.Machine.execSadd f s
  | .ssub f => Sys2Proof.Machine.execSsub f s
  | .smul f => Sys2Proof.Machine.execSmul f s
  | .sand f => Sys2Proof.Machine.execSand f s
  | .sor f => Sys2Proof.Machine.execSor f s
  | .sxor f => Sys2Proof.Machine.execSxor f s
  | .sshl f => Sys2Proof.Machine.execSshl f s
  | .sshr f => Sys2Proof.Machine.execSshr f s
  | .ssetEq f => Sys2Proof.Machine.execSsetEq f s
  | .ssetNe f => Sys2Proof.Machine.execSsetNe f s
  | .ssetLt f => Sys2Proof.Machine.execSsetLt f s
  | .ssetGe f => Sys2Proof.Machine.execSsetGe f s
  | .ssetLtu f => Sys2Proof.Machine.execSsetLtu f s
  | .ssetGeu f => Sys2Proof.Machine.execSsetGeu f s
  | .smov f => Sys2Proof.Machine.execSmov f s
  | .smovi f => Sys2Proof.Machine.execSmovi f s
  | .smoviH f => Sys2Proof.Machine.execSmoviH f s
  | .saddImm f => Sys2Proof.Machine.execSaddImm f s
  | .sandImm f => Sys2Proof.Machine.execSandImm f s
  | .sshlImm f => Sys2Proof.Machine.execSshlImm f s
  | .sshrImm f => Sys2Proof.Machine.execSshrImm f s
  | .rcp f => Sys2Proof.Machine.execRcp f s
  | .rsq f => Sys2Proof.Machine.execRsq f s
  | .sqrt f => Sys2Proof.Machine.execSqrt f s
  | .ex2 f => Sys2Proof.Machine.execEx2 f s
  | .lg2 f => Sys2Proof.Machine.execLg2 f s
  | .sin f => Sys2Proof.Machine.execSin f s
  | .cos f => Sys2Proof.Machine.execCos f s
  | .tanh f => Sys2Proof.Machine.execTanh f s
  | .plop f x => Sys2Proof.Machine.execPlop f x s
  | .p2v f => Sys2Proof.Machine.execP2v f s
  | .v2p f => Sys2Proof.Machine.execV2p f s
  | .shfl f x => Sys2Proof.Machine.execShfl f x s
  | .vote f x => Sys2Proof.Machine.execVote f x s
  | .redx f x => Sys2Proof.Machine.execRedx f x s
  | .scan f x => Sys2Proof.Machine.execScan f x s
  | .matchW f x => Sys2Proof.Machine.execMatch f x s
  | .v2s f => Sys2Proof.Machine.execV2s f s
  | .ld f => Sys2Proof.Machine.execLd f s
  | .st f => Sys2Proof.Machine.execSt f s
  | .atom f => Sys2Proof.Machine.execAtom f s
  | .cas f => Sys2Proof.Machine.execCas f s
  | .post f => Sys2Proof.Machine.execPost f s
  | .migrate f => Sys2Proof.Machine.execMigrate f s
  | .migrateOne f => Sys2Proof.Machine.execMigrateOne f s
  | .home f => Sys2Proof.Machine.execHome f s
  | .ldt f => Sys2Proof.Machine.execLdt f s
  | .stt f => Sys2Proof.Machine.execStt f s
  | .cpy f c => Sys2Proof.Machine.execCpy f c s
  | .cpyi f c => Sys2Proof.Machine.execCpyi f c s
  | .cpys f => Sys2Proof.Machine.execCpys f s
  | .gath f c => Sys2Proof.Machine.execGath f c s
  | .scat f c => Sys2Proof.Machine.execScat f c s
  | .fill f => Sys2Proof.Machine.execFill f s
  | .seal f => Sys2Proof.Machine.execSeal f s
  | .waitb f => Sys2Proof.Machine.execWaitb f s
  | .mma f x => Sys2Proof.Machine.execMma f x s
  | .mloop f c => Sys2Proof.Machine.execMloop f c s
  | .mld f => Sys2Proof.Machine.execMld f s
  | .mldt f => Sys2Proof.Machine.execMldt f s
  | .mst f c => Sys2Proof.Machine.execMst f c s
  | .mvacc f x => Sys2Proof.Machine.execMvacc f x s
  | .maccv f x => Sys2Proof.Machine.execMaccv f x s
  | .mzero f => Sys2Proof.Machine.execMzero f s
  | .mscl f => Sys2Proof.Machine.execMscl f s
  | .vrset f c => Sys2Proof.Machine.execVrset f c s
  | .vrrun f => Sys2Proof.Machine.execVrrun f s
  | .vract f => Sys2Proof.Machine.execVract f s
  | .bra f => Sys2Proof.Machine.execBra f s
  | .brc f => Sys2Proof.Machine.execBrc f s
  | .call f => Sys2Proof.Machine.execCall f s
  | .brx a => Sys2Proof.Machine.execBrx a s
  | .callr a => Sys2Proof.Machine.execCallr a s
  | .ret => Sys2Proof.Machine.execRet s
  | .jmpt a b => Sys2Proof.Machine.execJmpt a b s
  | .exitW => Sys2Proof.Machine.execExit s
  | .nop => Sys2Proof.Machine.execNop s
  | .yield => Sys2Proof.Machine.execYield s
  | .elect => Sys2Proof.Machine.execElect s
  | .ende => Sys2Proof.Machine.execEnde s
  | .lbrk => Sys2Proof.Machine.execLbrk s
  | .leave => Sys2Proof.Machine.execLeave s
  | .loop a l => Sys2Proof.Machine.execLoop a l s
  | .enter i1 => Sys2Proof.Machine.execEnter i1 s
  | .grow n => Sys2Proof.Machine.execGrow n s
  | .shrink n => Sys2Proof.Machine.execShrink n s
  | .bar d a k o => Sys2Proof.Machine.execBar d a k o s
  | .arrive a k o => Sys2Proof.Machine.execArrive a k o s
  | .await d k o => Sys2Proof.Machine.execAwait d k o s
  | .join k => Sys2Proof.Machine.execJoin k s
  | .joink d a => Sys2Proof.Machine.execJoink d a s
  | .trap c => Sys2Proof.Machine.execTrap c s
  | .tret => Sys2Proof.Machine.execTret s
  | .gets d i1 => Sys2Proof.Machine.execGets d i1 s
  | .sets i1 b => Sys2Proof.Machine.execSets i1 b s
  | .halt c => Sys2Proof.Machine.execHalt c s
  | .replay => Sys2Proof.Machine.execReplay s
  | .dump c => Sys2Proof.Machine.execDump c s
  | .step d a b => Sys2Proof.Machine.execStep d a b s
  | .rdctx d a b => Sys2Proof.Machine.execRdctx d a b s
  | .wrctx d a b => Sys2Proof.Machine.execWrctx d a b s
  | .resume d a b => Sys2Proof.Machine.execResume d a b s
  | .clauseFetch ctx entry => Sys2Proof.Machine.execClauseFetch ctx entry s
  | .tableWalk gc pslot va => Sys2Proof.Machine.execTableWalk gc pslot va s
  | .loadResult op lanes => Sys2Proof.Machine.execLoadResult op lanes s
  | .storePerform op lanes => Sys2Proof.Machine.execStorePerform op lanes s
  | .atomicPerform op => Sys2Proof.Machine.execAtomicPerform op s
  | .postPerform msg => Sys2Proof.Machine.execPostPerform msg s
  | .postAck ack => Sys2Proof.Machine.execPostAck ack s
  | .waitLineWake ctx => Sys2Proof.Machine.execWaitLineWake ctx s
  | .invPage gs vpage pslot => Sys2Proof.Machine.execInvPage gs vpage pslot s
  | .invSlot gs pslot => Sys2Proof.Machine.execInvSlot gs pslot s
  | .invAll gs => Sys2Proof.Machine.execInvAll gs s
  | .invalidationDropEnd gs => Sys2Proof.Machine.execInvalidationDropEnd gs s
  | .migrationDepart ctx => Sys2Proof.Machine.execMigrationDepart ctx s
  | .landingOffer src dst => Sys2Proof.Machine.execLandingOffer src dst s
  | .landingGrant gs => Sys2Proof.Machine.execLandingGrant gs s
  | .grantReturn gs src => Sys2Proof.Machine.execGrantReturn gs src s
  | .contextLanding msg => Sys2Proof.Machine.execContextLanding msg s
  | .landingAck ack => Sys2Proof.Machine.execLandingAck ack s
  | .contextPlace ctx => Sys2Proof.Machine.execContextPlace ctx s
  | .coreToCoreArrival ctx => Sys2Proof.Machine.execCoreToCoreArrival ctx s
  | .groupSplit ctx => Sys2Proof.Machine.execGroupSplit ctx s
  | .visitChainLeg ctx => Sys2Proof.Machine.execVisitChainLeg ctx s
  | .joinArrival ctx => Sys2Proof.Machine.execJoinArrival ctx s
  | .rstackExtensionClaim ctx => Sys2Proof.Machine.execRstackExtensionClaim ctx s
  | .doorbell gs page slot khandle args => Sys2Proof.Machine.execDoorbell gs page slot khandle args s
  | .bankLaunchStart gs => Sys2Proof.Machine.execBankLaunchStart gs s
  | .bankPassStart gs => Sys2Proof.Machine.execBankPassStart gs s
  | .bankColumnCycle gs => Sys2Proof.Machine.execBankColumnCycle gs s
  | .bankPassEnd gs => Sys2Proof.Machine.execBankPassEnd gs s
  | .rowEmulationEnd gs => Sys2Proof.Machine.execRowEmulationEnd gs s
  | .bankLaunchComplete gs => Sys2Proof.Machine.execBankLaunchComplete gs s
  | .scrubVisitStart gs bank => Sys2Proof.Machine.execScrubVisitStart gs bank s
  | .scrubVisitEnd gs bank => Sys2Proof.Machine.execScrubVisitEnd gs bank s
  | .seasonBoundary gs => Sys2Proof.Machine.execSeasonBoundary gs s
  | .dramRefresh gs bank => Sys2Proof.Machine.execDramRefresh gs bank s
  | .scrubCtlWrite gs value => Sys2Proof.Machine.execScrubCtlWrite gs value s
  | .meshUncorrectable pkg owner => Sys2Proof.Machine.execMeshUncorrectable pkg owner s
  | .channelFlitReceive ch flit => Sys2Proof.Machine.execChannelFlitReceive ch flit s
  | .ackSendTimer ch => Sys2Proof.Machine.execAckSendTimer ch s
  | .replayTimeout ch => Sys2Proof.Machine.execReplayTimeout ch s
  | .spareSwitch ch => Sys2Proof.Machine.execSpareSwitch ch s
  | .spareSwitchEnd ch => Sys2Proof.Machine.execSpareSwitchEnd ch s
  | .retrain ch ok => Sys2Proof.Machine.execRetrain ch ok s
  | .training ch inc => Sys2Proof.Machine.execTraining ch inc s
  | .lossOfLight ch => Sys2Proof.Machine.execLossOfLight ch s
  | .peerDown pkg peer => Sys2Proof.Machine.execPeerDown pkg peer s
  | .tileReadServe msg => Sys2Proof.Machine.execTileReadServe msg s
  | .tileWriteServe msg => Sys2Proof.Machine.execTileWriteServe msg s
  | .copyStart cmd => Sys2Proof.Machine.execCopyStart cmd s
  | .copySectorIssue cmd => Sys2Proof.Machine.execCopySectorIssue cmd s
  | .copySectorLand cmd sector => Sys2Proof.Machine.execCopySectorLand cmd sector s
  | .kStepEnd cmd => Sys2Proof.Machine.execKStepEnd cmd s
  | .mloopStepStart cmd => Sys2Proof.Machine.execMloopStepStart cmd s
  | .mloopFetchSector cmd => Sys2Proof.Machine.execMloopFetchSector cmd s
  | .mldStart cmd => Sys2Proof.Machine.execMldStart cmd s
  | .tileWordComplete cmd => Sys2Proof.Machine.execTileWordComplete cmd s
  | .mstStart cmd => Sys2Proof.Machine.execMstStart cmd s
  | .mstCaptureEnd cmd => Sys2Proof.Machine.execMstCaptureEnd cmd s
  | .epilogueStoreSector cmd sector => Sys2Proof.Machine.execEpilogueStoreSector cmd sector s
  | .vrsetStart cmd => Sys2Proof.Machine.execVrsetStart cmd s
  | .vractStart cmd => Sys2Proof.Machine.execVractStart cmd s
  | .vrrunStart cmd => Sys2Proof.Machine.execVrrunStart cmd s
  | .vrRowHandoff cmd => Sys2Proof.Machine.execVrRowHandoff cmd s
  | .vrRowDone cmd row => Sys2Proof.Machine.execVrRowDone cmd row s
  | .vrResultPerform cmd row => Sys2Proof.Machine.execVrResultPerform cmd row s
  | .barrierArrival msg => Sys2Proof.Machine.execBarrierArrival msg s
  | .barrierRelease ctx entry => Sys2Proof.Machine.execBarrierRelease ctx entry s
  | .joinHoldTimeout ctx entry => Sys2Proof.Machine.execJoinHoldTimeout ctx entry s
  | .loopIteration ctx => Sys2Proof.Machine.execLoopIteration ctx s
  | .ninthPathRelease ctx entry => Sys2Proof.Machine.execNinthPathRelease ctx entry s
  | .groupEnd ctx => Sys2Proof.Machine.execGroupEnd ctx s
  | .joinkAnswer joink => Sys2Proof.Machine.execJoinkAnswer joink s
  | .reportDelivery report => Sys2Proof.Machine.execReportDelivery report s
  | .landingNotice notice => Sys2Proof.Machine.execLandingNotice notice s
  | .launchCheck launch => Sys2Proof.Machine.execLaunchCheck launch s
  | .priorityAging launch => Sys2Proof.Machine.execPriorityAging launch s
  | .teamPlace gs => Sys2Proof.Machine.execTeamPlace gs s
  | .coreHot gc temp => Sys2Proof.Machine.execCoreHot gc temp s
  | .coreCool gc temp => Sys2Proof.Machine.execCoreCool gc temp s
  | .droopEvent gc => Sys2Proof.Machine.execDroopEvent gc s
  | .avoidExpiry gc => Sys2Proof.Machine.execAvoidExpiry gc s
  | .schedCtlWrite gs value => Sys2Proof.Machine.execSchedCtlWrite gs value s
  | .preempt gs => Sys2Proof.Machine.execPreempt gs s
  | .groupEvict ctx => Sys2Proof.Machine.execGroupEvict ctx s
  | .evictionSaveEnd save => Sys2Proof.Machine.execEvictionSaveEnd save s
  | .groupReturn save => Sys2Proof.Machine.execGroupReturn save s
  | .restoreEnd save => Sys2Proof.Machine.execRestoreEnd save s
  | .activeFill gc => Sys2Proof.Machine.execActiveFill gc s
  | .pendingExchange gc => Sys2Proof.Machine.execPendingExchange gc s
  | .pathPromotion ctx entry => Sys2Proof.Machine.execPathPromotion ctx entry s
  | .growEviction gc => Sys2Proof.Machine.execGrowEviction gc s
  | .faultRetry gs place => Sys2Proof.Machine.execFaultRetry gs place s
  | .faultKill gs place => Sys2Proof.Machine.execFaultKill gs place s
  | .haltLineArrival stop => Sys2Proof.Machine.execHaltLineArrival stop s
  | .partitionKill pkg pslot => Sys2Proof.Machine.execPartitionKill pkg pslot s
  | .vctlArm gs core pred value => Sys2Proof.Machine.execVctlArm gs core pred value s
  | .vctlDisarm gs core pred value => Sys2Proof.Machine.execVctlDisarm gs core pred value s
  | .stopArrival stop => Sys2Proof.Machine.execStopArrival stop s
  | .haltRequest gs value => Sys2Proof.Machine.execHaltRequest gs value s
  | .haltAtRegion gs value => Sys2Proof.Machine.execHaltAtRegion gs value s
  | .dumpRequest gs value => Sys2Proof.Machine.execDumpRequest gs value s
  | .traceEnable gs value => Sys2Proof.Machine.execTraceEnable gs value s
  | .traceDisable gs value => Sys2Proof.Machine.execTraceDisable gs value s
  | .traceDrainEnd gs => Sys2Proof.Machine.execTraceDrainEnd gs s
  | .histClr gc => Sys2Proof.Machine.execHistClr gc s
  | .dumpImageWritten dump => Sys2Proof.Machine.execDumpImageWritten dump s
  | .dumpPeerAck dump => Sys2Proof.Machine.execDumpPeerAck dump s
  | .hostWrite pkg bar off data => Sys2Proof.Machine.execHostWrite pkg bar off data s
  | .hostRead pkg bar off size => Sys2Proof.Machine.execHostRead pkg bar off size s
  | .linkDown pkg surprise => Sys2Proof.Machine.execLinkDown pkg surprise s
  | .linkUp pkg => Sys2Proof.Machine.execLinkUp pkg s
  | .hqCtlWrite pkg q value => Sys2Proof.Machine.execHqCtlWrite pkg q value s
  | .hqTailWrite pkg q value => Sys2Proof.Machine.execHqTailWrite pkg q value s
  | .hqNop pkg q => Sys2Proof.Machine.execHqNop pkg q s
  | .hqLaunch pkg q => Sys2Proof.Machine.execHqLaunch pkg q s
  | .hqSignal pkg q => Sys2Proof.Machine.execHqSignal pkg q s
  | .hqBadEntry pkg q => Sys2Proof.Machine.execHqBadEntry pkg q s
  | .privAreaWrite gs off value => Sys2Proof.Machine.execPrivAreaWrite gs off value s
  | .deviceReset pkg images => Sys2Proof.Machine.execDeviceReset pkg images s
  | .selfTestEnd pkg stks unit code planes => Sys2Proof.Machine.execSelfTestEnd pkg stks unit code planes s
  | .attGo pkg value => Sys2Proof.Machine.execAttGo pkg value s
  | .attReportDone pkg => Sys2Proof.Machine.execAttReportDone pkg s
  | .mctpAttestRequest pkg nonce => Sys2Proof.Machine.execMctpAttestRequest pkg nonce s
  | .pwrCtlWrite pkg value => Sys2Proof.Machine.execPwrCtlWrite pkg value s
  | .capEffect pkg => Sys2Proof.Machine.execCapEffect pkg s
  | .registerWrite gs off size value => Sys2Proof.Machine.execRegisterWrite gs off size value s
  | .softError gs bank row col uncorrectable => Sys2Proof.Machine.execSoftError gs bank row col uncorrectable s
  | .rdctxCopyComplete cmd => Sys2Proof.Machine.execRdctxCopyComplete cmd s
  | .wrctxWriteEnd cmd => Sys2Proof.Machine.execWrctxWriteEnd cmd s
  | .coreCycle gc => Sys2Proof.Machine.execCoreCycle gc s

end Sys2Proof.Machine
end

