-- ==== Sys2Proof/Machine/Agents.lean ====
section
/-! DEFINITION. Who moves: the issue stage running the word its best path holds next, the other agents' events, and the order the model
takes where the manual leaves the order open (log 18, DESIGN CHOICE). -/

namespace Sys2Proof.Machine

/-- Is the instruction a word, so that it issues only through a core? -/
def isWord (i : Instr) : Bool := !(encode i).isEmpty

/-- The word a path holds next runs; where it is no instruction, its fault. -/
def wordOf (s : State) (cid e : Nat) : Out :=
  match ((s.ctx? cid).map (·.path e)).bind Path.nextInstr with
  | some i => exec i s
  | none => execIllegal s

/-- Did the word issue that took `s` to `t`? -/
def State.sent (s t : State) (cid e : Nat) : Bool :=
  match s.ctx? cid, t.ctx? cid with
  | some c, some d => wordIssued c d e
  | some _, none => true
  | none, _ => false

/-- Aim at a path's word and run it. A word that issues is first seen by the execute predicates, of which a precise firing stops its issuer before
it, and traced where it opens a clause (16 R345, R355, Table 16-5). One that is held, migrates or parks is not seen. -/
def runWord (s : State) (gc cid e : Nat) (second : Bool) : Out :=
  let p := ((s.ctx? cid).map (·.path e)).getD freePath
  let s := s.aim cid e second
  let finish (o : Out) : Out := match o with
    | .next t => .next (t.issued gc cid e s.nextId p)
    | .fault r => .fault r
    | .refused r => .refused r
  match wordOf s cid e with
  | .next t =>
    if !s.sent t cid e then finish (.next t)
    else match s.watchExecute cid e with
      | (u, true) => .next u
      | (u, false) => finish (wordOf (u.traceHeader cid e) cid e)
  | o => o

/-- Was the word held at issue: nothing of its group changed but the stall reason, and nothing was sent? -/
def heldAtIssue (s t : State) (cid : Nat) : Bool :=
  match s.ctx? cid, t.ctx? cid with
  | some c, some d => t.nextId = s.nextId && { d with stall := c.stall, sPrev := c.sPrev } = c
  | _, _ => false

/-- Would the word of a path be held at issue? -/
def holdsWord (s : State) (gc : Nat) (k : Nat × Nat) : Bool :=
  match runWord s gc k.1 k.2 false with
  | .next t => heldAtIssue s t k.1
  | _ => false

/-- Width of a context, and class of the word a path issues next. -/
def State.widthOf (s : State) (cid : Nat) : Nat := ((s.ctx? cid).map Ctx.width).getD 64
def State.classOf (s : State) (k : Nat × Nat) : Nat := ((s.ctx? k.1).map fun c => (c.path k.2).nextClass).getD 0

/-- The word of position 1 beside position 0's (14 R324-R326): the next path of the group, or, where it has none and its width is 32 or
less, the best path of the next group that fits beside it. Both are chosen before either runs; a pair of one class waits. -/
def pairFor (s : State) (gc : Nat) (k : Nat × Nat) (rest : List (Nat × Nat)) : Option (Nat × Nat) :=
  let apart (j : Nat × Nat) : Option (Nat × Nat) := if classClash (s.classOf k) (s.classOf j) then none else some j
  match rest.find? fun j => j.1 = k.1 && !holdsWord s gc j with
  | some j => apart j
  | none =>
    let w := s.widthOf k.1
    if 32 < w then none
    else (rest.find? fun j => j.1 ≠ k.1 && decide (w + s.widthOf j.1 ≤ 64) && !holdsWord s gc j).bind apart

/-- Issue position 0: the first path in order whose word is not held at issue; the stall reasons of those passed over stand (14 R324). -/
def issueFirst (gc : Nat) : List (Nat × Nat) → State → Out
  | [], s => .next s
  | (cid, e) :: rest, s =>
    match runWord s gc cid e false with
    | .next t =>
      if heldAtIssue s t cid then
        issueFirst gc rest (s.updCtx cid fun c => { c with stall := ((t.ctx? cid).map (·.stall)).getD c.stall })
      else .next { t with cursor := { t.cursor with pair := pairFor s gc (cid, e) rest } }
    | .fault r => .fault r
    | .refused r => .refused r

/-- May the word chosen for position 1 still issue: its path holds it, and its group was neither stopped, parked nor sent away by the word of
position 0? -/
def State.mayPair (s : State) (gc cid e : Nat) : Bool :=
  match s.ctx? cid with
  | some c => c.gc = gc && c.runnable e && c.parked.isNone && (c.stop.isNone || c.step.isSome) && !s.frozen c && !s.departing cid c e &&
      ((c.path e).clause.any fun k => !k.words.isEmpty)
  | none => false

/-- Issue position 1: a word held at issue waits a cycle. -/
def issueSecond (gc : Nat) (s : State) : Out :=
  match s.cursor.pair with
  | none => .next s
  | some (cid, e) =>
    let s : State := { s with cursor := { s.cursor with pair := none } }
    if !s.mayPair gc cid e then .next s else
    match runWord s gc cid e true with
    | .next t => if heldAtIssue s t cid then .next s else .next t
    | .fault r => .fault r
    | .refused r => .refused r

/-- One move of an agent. -/
def runMove (m : Move) (s : State) : Out :=
  match m with
  | .issue gc => issueFirst gc (s.ranked gc) s
  | .issueSecond gc => issueSecond gc s
  | .event i => if isWord i then .refused .notAnEvent else exec i s

/-! ## What may happen next -/

/-- An access under way performs. -/
def Access.next (a : Access) : Instr :=
  let m := maskOf (a.lanes.map (·.lane))
  match a.kind with
  | .load => .loadResult a.id m
  | .store => .storePerform a.id m
  | _ => .atomicPerform a.id

/-- A message reaches its destination; a dump's is taken by its own event, and a held host write performs as soon as it may. -/
def Msg.next (m : Msg) : Option Instr :=
  match m.body with
  | .post _ => some (.postPerform m.id)
  | .context _ _ => some (.contextLanding m.id)
  | .tileRead _ _ => some (.tileReadServe m.id)
  | .tileWrite _ _ => some (.tileWriteServe m.id)
  | .dump .. => none
  | .hostWrite .. => none

/-- What a context may do besides issuing. -/
def ctxNext (cid : Nat) (c : Ctx) : List Instr :=
  let offer := match c.depart with
    | some d => [Instr.landingOffer (gsOf c.gc) d.gs]
    | none => []
  [.waitLineWake cid, .groupSplit cid] ++ offer ++
    [.migrationDepart cid, .coreToCoreArrival cid, .contextPlace cid, .visitChainLeg cid, .joinArrival cid, .groupEnd cid, .groupEvict cid,
      .rstackExtensionClaim cid, .loopIteration cid] ++
    (List.range c.paths.length).flatMap fun e =>
      [.ninthPathRelease cid e, .barrierRelease cid e, .joinHoldTimeout cid e, .pathPromotion cid e, .clauseFetch cid e]

/-- What an engine command may do. -/
def Cmd.next (c : Cmd) : List Instr :=
  let sectors := List.range c.sectors.length
  match c.kind with
  | .copy _ => [.copyStart c.id, .copySectorIssue c.id] ++ sectors.map (.copySectorLand c.id ·)
  | .mma .. => [.kStepEnd c.id]
  | .mloop .. => [.mloopFetchSector c.id, .mloopStepStart c.id, .kStepEnd c.id]
  | .tile _ => [.mldStart c.id, .tileWordComplete c.id]
  | .mst .. => [.mstStart c.id, .mstCaptureEnd c.id] ++ sectors.map (.epilogueStoreSector c.id ·)
  | .vrset .. => [.vrsetStart c.id]
  | .vract .. => [.vractStart c.id]
  | .vrrun _ _ _ _ _ rows _ =>
    ((List.range rows.length).flatMap fun r => [.vrResultPerform c.id r, .vrRowDone c.id r]) ++ [.vrRowHandoff c.id, .vrrunStart c.id]
  | .rdctx .. => [.rdctxCopyComplete c.id]
  | .wrctx .. => [.wrctxWriteEnd c.id]

/-- What a stack's own units may do. -/
def stackNext (gs : Nat) (k : Stack) : List Instr :=
  (if k.invQueue.isEmpty then [] else [.invalidationDropEnd gs]) ++ (if k.offers.isEmpty then [] else [.landingGrant gs]) ++
    if k.bankQueue.isEmpty then []
    else [.bankLaunchStart gs, .bankPassStart gs, .bankColumnCycle gs, .rowEmulationEnd gs, .bankPassEnd gs, .bankLaunchComplete gs]

/-- What a package's host queues and mailbox may do. -/
def pkgNext (pkg : Nat) (k : Pkg) : List Instr :=
  (k.queues.flatMap fun q => [Instr.hqNop pkg q.1, .hqLaunch pkg q.1, .hqSignal pkg q.1, .hqBadEntry pkg q.1]) ++
    (if k.attBusy then [.attReportDone pkg] else []) ++ if k.capWanted.isSome then [.capEffect pkg] else []

/-- What a launch not yet done may do. -/
def launchNext (key : Nat) (l : Launch) : List Instr :=
  if l.state = .queued || l.state = .running then
    let all := (List.range 16).map (16 * l.pkg + ·)
    [.launchCheck key] ++ (if l.checked && !l.bank && decide (l.nextTeam < l.total) then all.map .teamPlace ++ all.map .preempt else [])
  else []

/-- Cores with a context, in order. -/
def State.busyCores (s : State) : List Nat :=
  (s.ctxs.filter fun kc => kc.2.residentOn kc.2.gc).foldl (fun l kc => addNew l kc.2.gc) []

/-- What the channel carrying the flits held in `l` may do (05 R95, R98): the flit its receiver expects arrives, the receiver
acknowledges, and the acknowledgement arrives. -/
def State.linkNext (s : State) (ch : Nat) (l : Link) : List Instr :=
  let back := chBack ch
  let r := s.chan? back
  let flit (dst : Nat) (f : Flit) : List Instr := if f.inc = s.pinc (chPkg dst) (chPeer dst) then [.channelFlitReceive dst f.word] else []
  if l.retry.isEmpty then []
    else (if s.exchanged back then ((l.retry.find? (·.seq = r.expect)).map (flit back)).getD [] else []) ++ [.ackSendTimer back] ++
      ((r.out.getLast?.filter (·.kind = 6)).map (flit ch)).getD []

/-- The events that may happen, of every agent but the issue stages. -/
def State.events (s : State) : List Instr :=
  (s.stops.flatMap fun m => [if m.line then Instr.haltLineArrival m.id else Instr.stopArrival m.id]) ++ s.accs.map Access.next ++ s.chan.filterMap Msg.next ++
    s.acks.map (fun a => .postAck a.id) ++ s.landAcks.map (fun a => .landingAck a.id) ++ s.notices.map (fun n => .landingNotice n.id) ++
    s.bars.map (fun b => .barrierArrival b.id) ++ s.joinks.map (fun j => .joinkAnswer j.id) ++ s.reports.map (fun r => .reportDelivery r.id) ++
    (s.ctxs.flatMap fun kc => ctxNext kc.1 kc.2) ++ s.cmds.flatMap Cmd.next ++ (s.stks.flatMap fun kk => stackNext kk.1 kk.2) ++
    (s.launches.flatMap fun kl => launchNext kl.1 kl.2) ++ (s.pkgs.flatMap fun kp => pkgNext kp.1 kp.2) ++
    (s.pkgs.flatMap fun kp => kp.2.links.flatMap fun kl => s.linkNext (512 * kp.1 + kl.1) kl.2) ++
    (s.busyCores.flatMap fun gc => [.activeFill gc, .pendingExchange gc]) ++
    (s.saves.flatMap fun i => [Instr.evictionSaveEnd i.id, .groupReturn i.id, .restoreEnd i.id]) ++
    (s.dumps.flatMap fun d => [Instr.dumpImageWritten d.id, .dumpPeerAck d.id]) ++ s.busyCores.map .growEviction

/-- The core whose position 0 has issued, with a word chosen for position 1 (14 R324-R326). -/
def State.secondDue (s : State) : Option Nat := s.cursor.pair.bind fun k => (s.ctx? k.1).map (·.gc)

/-- Has the core issued in this cycle? -/
def State.issuedNow (s : State) (gc : Nat) : Bool := (s.residents gc).any fun kc => kc.2.lastIssue = s.now gc

/-- The next move of a core: a cycle passes between its issues. -/
def State.coreNext (s : State) (gc : Nat) : Move := if s.issuedNow gc then .event (.coreCycle gc) else .issue gc

/-- Moves in the model's order, those that come before the issue stages'. -/
def State.firstMoves (s : State) : List Move := (s.secondDue.map Move.issueSecond).toList ++ s.events.map .event

/-- Moves of the cores with a word to issue, the core that has run least first. -/
def State.coreMoves (s : State) : List Move :=
  (sortBy (fun gc => [s.now gc]) (s.busyCores.filter fun gc => (s.choose gc).isSome)).map s.coreNext

/-- A cycle passes on the core that has run least, of those with a context. -/
def State.idleMove (s : State) : Move := .event (.coreCycle ((sortBy (fun gc => [s.now gc]) s.busyCores).headD 0))

/-- Does a move change anything? -/
def moves (s : State) (m : Move) : Bool :=
  match runMove m s with
  | .next t => t ≠ s
  | _ => true

/-- Who moves when the agenda is empty: the first event in the model's order that changes the state, then the core that has run least,
and with nothing to do a cycle passes. -/
def defaultMove (s : State) : Move :=
  match s.firstMoves.find? (moves s) with
  | some m => m
  | none => (s.coreMoves.find? (moves s)).getD s.idleMove

end Sys2Proof.Machine
end

