-- ==== Sys2Proof/Machine/Step.lean ====
section
/-! DEFINITION. One step of the pod: the head of the agenda moves, or with nothing agreed the agent the model's order names. -/

namespace Sys2Proof.Machine

/-- One step of the pod. -/
def step (s : State) : Host.Outcome State Fault Refusal :=
  match s.agenda with
  | m :: rest => runMove m { s with agenda := rest }
  | [] => runMove (defaultMove s) s

/-! ## Placing an instruction where step fetches it -/

/-- A launch whose fields are all zero but for its process slot's and its handles. -/
def blankDesc : Desc where
  width := 16
  regs := 64
  team := 1
  pair := false
  quad := false
  debug := false
  agent := false
  killsib := false
  priority := 0
  ceiling := 0
  split := 1
  code := 0
  entry := 0
  trap := 0xFFFFFFFF
  scratch := 0
  priv := 0
  gx := 1
  gy := 1
  gz := 1
  hstride := 0
  hintarg := 0
  hinten := false

/-- The words of an instruction whose table bits are `w`: two, the second used where the opcode takes one. -/
def tableWords (nbits w : Nat) : List Word :=
  let v := w % 2 ^ nbits
  [BitVec.ofNat 32 v, BitVec.ofNat 32 (v / 2 ^ 32)]

/-- The first core of stack 0 on which no group stands. -/
def State.idleCore (s : State) : Nat := ((List.range 24).find? fun gc => (s.residents gc).isEmpty).getD 0

/-- The state with an instruction where the next step takes it: a group of one path of 16 lanes stands active on an idle core, the
instruction's words are in that path's clause buffer, and the core's issue stage moves next (log 19, DESIGN CHOICE). -/
def State.withFetchWord (s : State) (nbits w : Nat) : State :=
  let gc := s.idleCore
  let k := s.nextId
  let ws := tableWords nbits w
  let cls := ((ws.head?).bind wordClass).getD 0
  let lanes : Mask := 0xFFFF
  let path : Path := { freePath with
    v := true
    pc := 4
    mask := lanes
    clause := some ⟨0, cls, 0, 0, 0xFF, ws, []⟩ }
  let launch : Launch := ⟨.queue 0 0, 0, 0, 0, 0, 0, 0, false, .running, 0, 0, true, false, blankDesc, 0, 0, 0, 1, 0, false, false, 0, 0, 0⟩
  let team : Team := ⟨k, 0, 0, 0, 0, gc, false, 0, 0, [], 1, [0], [], [], [], [], [], [], none⟩
  let c : Ctx := { birthCtx with
    team := k + 1
    launch := k
    birthGc := gc
    baseGc := gc
    lanes := lanes
    paths := path :: List.replicate 7 freePath
    place := .active
    gc := gc }
  { s with
    launches := mput s.launches k launch
    teams := mput s.teams (k + 1) team
    ctxs := mput s.ctxs (k + 2) c
    nextId := k + 3
    agenda := .issue gc :: s.agenda }

end Sys2Proof.Machine
end

