-- ==== Sys2Proof/Safety.lean ====
section
/-! DEFINITION. The terms in which claims are made: what a safe step is, and what a word that completes leaves. -/

namespace Sys2Proof.Machine

/-- The step from a state answers a next state. -/
def State.goesOn (s : State) : Prop := ∃ t, step s = .next t

/-- The memory invariant: the list of cells is canonical. -/
def State.memInv (s : State) : Prop := Memory.wf s.mem

/-! ## What a word that completes leaves -/

/-- Operand `code` of the issuing word in lane `l`, as a 32-bit word. -/
def opnd (e : Env) (code : BitVec 7) (l : Nat) : Word := BitVec.ofNat 32 (e.read .i32 code.toNat l)

/-- Scalar operand `code` of the issuing word. -/
def sopnd (e : Env) (code : BitVec 7) : Word := BitVec.ofNat 32 (e.read .i32 code.toNat 0)

/-- The operand at a position has no defect (06 R107, R108, R110, R116). -/
def Readable (e : Env) (p : Pos) (code : BitVec 7) : Prop := e.srcDefects p code.toNat = []

/-- The vector destination has no defect. -/
def Writable (e : Env) (wide : Bool) (d : BitVec 6) : Prop := e.dstDefects wide d.toNat = []

/-- No register read carries a dead mark in a lane of the word (07 R143); marks stand only in groups of a debug launch. -/
def NoDead (e : Env) (act : Mask) (regs : List Nat) : Prop := e.deadReg act regs = none

/-- `t` is `s` but for what context `cid` holds, now `c'`: every byte of memory, every other context and every other unit is as
before. -/
def OnlyCtx (s t : State) (cid : Nat) (c' : Ctx) : Prop :=
  t.ctx? cid = some c' ∧ (∀ k, k ≠ cid → t.ctx? k = s.ctx? k) ∧ (∀ a, t.byte a = s.byte a) ∧ { t with ctxs := s.ctxs } = s

/-- A context without what moving a path on to its next word may change: the path table, loop levels that close, the windows a clause leaves
live, the leader's entry, the entries of posts kept for a visit, the cycle of the last issue and the stall reason. What remains is every register, predicate, scalar, flag, return
stack, mode, region and report register, and where the context is. -/
def Ctx.body (c : Ctx) : Ctx :=
  { c with
    paths := []
    loops := []
    loopRegs := []
    lastIssue := 0
    stall := 0
    live := 0
    leaderPath := 0
    visits := [] }

/-- Two contexts with the same body. -/
def SameBut (c c' : Ctx) : Prop := c'.body = c.body

/-- Where words of the clause remain, the path stands `nw` words on in the same clause and its latches moved by one, `L` now the first
(06 R110). -/
def StepsOn (e : Env) (c' : Ctx) (nw : Nat) (L : Option Latch → Prop) : Prop :=
  ∀ k, e.p.clause = some k → k.words.drop nw ≠ [] →
    ∃ t, L t ∧ (c'.path e.e).pc = e.p.pc + 4 * nw ∧ (c'.path e.e).clause = some { k with words := k.words.drop nw, wait := 0 } ∧
      (c'.path e.e).latches = (t :: e.p.latches).take 8 ∧ (c'.path e.e).mask = e.p.mask

/-- The word is past: the path stepped on, holding no latch of this word. -/
def NoLatch (e : Env) (c' : Ctx) (nw : Nat) : Prop := StepsOn e c' nw fun t => t = none

/-- A vector result: `res` gives value and flags of each active lane. Without NWB the destination (a pair where `wide`) holds the
values in the active lanes; every other register of every lane is unchanged; each active lane's flags are ORed into its FSTAT; SCNT
grows by `draws`; the latch holds the result, and in the path's lanes outside `act` the destination's unchanged value, zero with NWB (06
R110). -/
def VectorResult (e : Env) (c' : Ctx) (nw : Nat) (wide nwb : Bool) (d : Nat) (act : Mask) (draws : Nat) (res : Nat → Nat × Flags) : Prop :=
  (∀ l, act.getLsbD l = true → nwb = false → c'.v d l = BitVec.ofNat 32 (res l).1 ∧
    (wide = true → c'.v (d + 1) l = BitVec.ofNat 32 ((res l).1 / 2 ^ 32))) ∧
  (∀ r l, l < 64 → (nwb = true ∨ act.getLsbD l = false ∨ (r ≠ d ∧ (wide = true → r ≠ d + 1))) → c'.v r l = e.c.v r l) ∧
  (∀ l, mget c'.fstat l 0 = mget e.c.fstat l 0 ||| (if act.getLsbD l = true then (res l).2 else 0)) ∧
  SameBut { e.c with
    vregs := c'.vregs
    dead := c'.dead
    fstat := c'.fstat
    scnt := e.c.scnt + BitVec.ofNat 32 draws } c' ∧
  StepsOn e c' nw fun t => ∃ x, t = some x ∧ x.wide = wide ∧ x.scalar = false ∧
    (∀ l, act.getLsbD l = true → x.read l = (res l).1 % 2 ^ 64) ∧
    ∀ l, e.lanes.getLsbD l = true → act.getLsbD l = false → x.read l =
      if nwb = true then 0 else (e.c.v d l).toNat + if wide = true then (e.c.v (d + 1) l).toNat * 2 ^ 32 else 0

/-- The word `i` completes with a vector result; the flags its lanes raise are then shown to the exception predicates of the core
(16 R349), which changes nothing where none is raised or none is armed. -/
def GivesVector (i : Instr) (s : State) (e : Env) (nw : Nat) (wide nwb : Bool) (d : Nat) (act : Mask) (draws : Nat)
    (res : Nat → Nat × Flags) : Prop :=
  ∃ t c', exec i s = .next (t.watchAll e.cid e.e ((lanesOf act).map fun l => (l, (res l).2))) ∧ OnlyCtx s t e.cid c' ∧
    VectorResult e c' nw wide nwb d act draws res

/-- The word `i` completes with a predicate result: bit by bit in the active lanes of predicate `d`; p0 stays true; every other bit
of every predicate, and every register, is unchanged; the latch holds the bits, and in the path's lanes outside `act` the predicate's unchanged
ones, zero with NWB (06 R110). -/
def GivesPredicate (i : Instr) (s : State) (e : Env) (nw : Nat) (nwb : Bool) (d : Nat) (act : Mask) (res : Nat → Bool × Flags) : Prop :=
  ∃ t c', exec i s = .next (t.watchAll e.cid e.e ((lanesOf act).map fun l => (l, (res l).2))) ∧ OnlyCtx s t e.cid c' ∧
    (∀ k l, l < 64 → (c'.pred k).getLsbD l =
      if k = d ∧ k ≠ 0 ∧ nwb = false ∧ act.getLsbD l = true then (res l).1 else (e.c.pred k).getLsbD l) ∧
    (∀ l, mget c'.fstat l 0 = mget e.c.fstat l 0 ||| (if act.getLsbD l = true then (res l).2 else 0)) ∧
    SameBut { e.c with preds := c'.preds, fstat := c'.fstat } c' ∧
    StepsOn e c' nw fun t => ∃ x, t = some x ∧ x.scalar = false ∧
      (∀ l, act.getLsbD l = true → e.lanes.getLsbD l = true → x.read l = b2n (res l).1) ∧
      ∀ l, e.lanes.getLsbD l = true → act.getLsbD l = false → x.read l = if nwb = true then 0 else b2n ((e.c.pred d).getLsbD l)

/-- The word `i` completes with a scalar result in scalar register `d`; every other scalar, and every vector register, is
unchanged, and no flag is raised. -/
def GivesScalar (i : Instr) (s : State) (e : Env) (nw : Nat) (nwb : Bool) (d : Nat) (v : Nat) : Prop :=
  ∃ t c', exec i s = .next t ∧ OnlyCtx s t e.cid c' ∧
    (∀ k, c'.sreg k = if k = d ∧ nwb = false then BitVec.ofNat 32 v else e.c.sreg k) ∧
    SameBut { e.c with sregs := c'.sregs } c' ∧
    StepsOn e c' nw fun t => ∃ x, t = some x ∧ x.scalar = true ∧ ∀ l, x.read l = v % 2 ^ 64

/-- The word `i` takes a precise fault of its group with a code: the earlier words stand, and of the word itself nothing happens but
the trap, whose report names the word and its lanes (06 R134, 15 R329, R330). -/
def Faults (i : Instr) (s : State) (e : Env) (code : Nat) : Prop :=
  exec i s = .next (s.takeTrap e.cid e.e e.p.nextHeader (plainReport code e.p.pc e.lanes))

end Sys2Proof.Machine
end

