-- ==== Sys2Proof/Certificates/Slice0/Obligations.lean ====
section
/-! DEFINITION. The statements for the provers. Each takes its states and operands as they come; what a word needs to complete stands in its
hypotheses. -/

namespace Sys2Proof.Certificates

open Sys2Proof Sys2Proof.Machine

/-- Source modifiers on an integer of a signed or unsigned type: absolute value first, then negation, both wrapping (06 R128, 10 R206). -/
def imod {w : Nat} (signed abs neg : Bool) (v : BitVec w) : BitVec w :=
  let u := if signed && abs && v.msb then -v else v
  if neg then -u else u

/-- The number a 32-bit word stands for in type 0 (s32) or type 1 (u32). -/
def num32 (ty : BitVec 5) (v : Word) : Int := if ty = 0 then v.toInt else (v.toNat : Int)

/-- Is a number outside type 0 (s32) or 1 (u32)? -/
def outside32 (ty : BitVec 5) (x : Int) : Bool :=
  if ty = 0 then decide (x < -2147483648) || decide (2147483647 < x) else decide (x < 0) || decide (4294967295 < x)

/-- Destination and sources of a word with one source are without defect and without a dead mark. -/
def Ready1 (e : Env) (f : FmtA) (wide : Bool) (p : Pos) : Prop :=
  Writable e wide f.d ∧ Readable e p f.a ∧ NoDead e (e.active f) (srcRegs p f.a.toNat)

/-- The same of a word with two sources. -/
def Ready2 (e : Env) (f : FmtA) (wide : Bool) (p q : Pos) : Prop :=
  Writable e wide f.d ∧ Readable e p f.a ∧ Readable e q f.b ∧ NoDead e (e.active f) (srcRegs p f.a.toNat ++ srcRegs q f.b.toNat)

/-- The same of a word with three sources. -/
def Ready3 (e : Env) (f : FmtA) (x : FmtX) (wide : Bool) (p q r : Pos) : Prop :=
  Writable e wide f.d ∧ Readable e p f.a ∧ Readable e q f.b ∧ Readable e r x.sc ∧
    NoDead e (e.active f) (srcRegs p f.a.toNat ++ srcRegs q f.b.toNat ++ srcRegs r x.sc.toNat)

/-- The same of a word with two sources and a predicate destination. -/
def ReadyP (e : Env) (f : FmtA) (p : Pos) : Prop :=
  f.d.toNat < 8 ∧ Readable e p f.a ∧ Readable e p f.b ∧ NoDead e (e.active f) (srcRegs p f.a.toNat ++ srcRegs p f.b.toNat)

/-- A word with one source completes with the result `r` of it in a 32-bit destination. -/
def Word1 (s : State) (e : Env) (f : FmtA) (nw : Nat) (i : Instr) (r : Word → Word × Flags) : Prop :=
  GivesVector i s e nw false f.n f.d.toNat (e.active f) 0 fun l => ((r (opnd e f.a l)).1.toNat, (r (opnd e f.a l)).2)

/-- A word with two sources. -/
def Word2 (s : State) (e : Env) (f : FmtA) (nw : Nat) (i : Instr) (r : Word → Word → Word × Flags) : Prop :=
  GivesVector i s e nw false f.n f.d.toNat (e.active f) 0 fun l =>
    ((r (opnd e f.a l) (opnd e f.b l)).1.toNat, (r (opnd e f.a l) (opnd e f.b l)).2)

/-- A word with three sources. -/
def Word3 (s : State) (e : Env) (f : FmtA) (x : FmtX) (i : Instr) (r : Word → Word → Word → Word × Flags) : Prop :=
  GivesVector i s e 2 false f.n f.d.toNat (e.active f) 0 fun l =>
    ((r (opnd e f.a l) (opnd e f.b l) (opnd e x.sc l)).1.toNat, (r (opnd e f.a l) (opnd e f.b l) (opnd e x.sc l)).2)

/-- Position and length of a field control (10 R213). -/
def fieldPos (b : Word) : Nat := (b.extractLsb' 0 5).toNat
def fieldLen (b : Word) : Nat := min (b.extractLsb' 8 6).toNat 32

/-- BFX of a value under a field control (10 R213). -/
def fieldOut (a b : Word) : Word :=
  let u := a.toNat / 2 ^ fieldPos b % 2 ^ fieldLen b
  if b.getLsbD 16 = true ∧ 0 < fieldLen b ∧ 2 ^ (fieldLen b - 1) ≤ u then BitVec.ofNat 32 (u + 2 ^ 32 - 2 ^ fieldLen b) else BitVec.ofNat 32 u

/-- BFI of a value into another under a field control (10 R213). -/
def fieldIn (a b c : Word) : Word :=
  let m : Word := BitVec.ofNat 32 ((2 ^ fieldLen b - 1) * 2 ^ fieldPos b)
  (c &&& ~~~m) ||| ((a <<< fieldPos b) &&& m)

/-- The conditions of 10 Table 10-4 on two numbers, and on the same operands read unsigned for codes 6 and 7. -/
def holds (cond : Nat) (x y : Int) (u v : Nat) : Bool :=
  match cond with
  | 0 => x == y
  | 1 => x != y
  | 2 => decide (x < y)
  | 3 => decide (y ≤ x)
  | 4 => decide (y < x)
  | 5 => decide (x ≤ y)
  | 6 => decide (u < v)
  | _ => decide (v ≤ u)

end Sys2Proof.Certificates

open Sys2Proof Sys2Proof.Machine Sys2Proof.Certificates in
/-- 10 R212 (Table 10-3): IADD, ISUB, IMUL and IABS deliver the wrapped result and raise OVER where the exact s32 value is out of range;
only the destination's active lanes, their FSTAT, the latch and the pc change.
10 R212 (Table 10-3): AND, OR, XOR, ANDN, SHL, SHR, SAR, ROTL, POPC, CLZ, BREV, and MOV of R215, set no flag and deliver these values. -/
def Obligations.IntegerAndBitWordsComplete : Prop :=
  (
  ∀ (s : State) (e : Env) (f : FmtA), s.issuer = some e →
    (Ready2 e f false .i32 .i32 →
      Word2 s e f 1 (.iadd f) (fun a b => (a + b, if BitVec.saddOverflow a b then flOver else 0)) ∧
      Word2 s e f 1 (.isub f) (fun a b => (a - b, if BitVec.ssubOverflow a b then flOver else 0)) ∧
      Word2 s e f 1 (.imul f) (fun a b => (a * b, if BitVec.smulOverflow a b then flOver else 0))) ∧
    (Ready1 e f false .i32 →
      Word1 s e f 1 (.iabs f) (fun a => (if a.msb then -a else a, if a = 0x80000000#32 then flOver else 0)))) ∧
  (
  ∀ (s : State) (e : Env) (f : FmtA), s.issuer = some e →
    (Ready2 e f false .i32 .i32 →
      Word2 s e f 1 (.andW f) (fun a b => (a &&& b, 0)) ∧
      Word2 s e f 1 (.orW f) (fun a b => (a ||| b, 0)) ∧
      Word2 s e f 1 (.xorW f) (fun a b => (a ^^^ b, 0)) ∧
      Word2 s e f 1 (.andn f) (fun a b => (a &&& ~~~b, 0)) ∧
      Word2 s e f 1 (.shl f) (fun a b => (if b.toNat < 32 then a <<< b.toNat else 0, 0)) ∧
      Word2 s e f 1 (.shr f) (fun a b => (if b.toNat < 32 then a >>> b.toNat else 0, 0)) ∧
      Word2 s e f 1 (.sar f) (fun a b => (a.sshiftRight (min b.toNat 31), 0)) ∧
      Word2 s e f 1 (.rotl f) (fun a b => (a.rotateLeft (b.toNat % 32), 0))) ∧
    (Ready1 e f false .i32 →
      Word1 s e f 1 (.popc f) (fun a => (BitVec.ofNat 32 ((List.range 32).filter fun i => a.getLsbD i).length, 0)) ∧
      Word1 s e f 1 (.clz f) (fun a => (BitVec.ofNat 32 (((List.range 32).find? fun i => a.getLsbD (31 - i)).getD 32), 0)) ∧
      Word1 s e f 1 (.brev f) (fun a => (a.reverse, 0)) ∧
      Word1 s e f 1 (.mov f) (fun a => (a, 0))))

open Sys2Proof Sys2Proof.Machine Sys2Proof.Certificates in
/-- 10 R213: BFX extracts the field its control names, sign-extended where the control asks it; BFI puts a field into C. -/
def Obligations.BitFieldWordsComplete : Prop :=
  ∀ (s : State) (e : Env) (f : FmtA) (x : FmtX), s.issuer = some e →
    (Ready2 e f false .i32 .i32 → Word2 s e f 1 (.bfx f) (fun a b => (fieldOut a b, 0))) ∧
    (Ready3 e f x false .i32 .i32 .i32 → Word3 s e f x (.bfi f x) (fun a b c => (fieldIn a b c, 0)))

open Sys2Proof Sys2Proof.Machine Sys2Proof.Certificates in
/-- 10 R212 (Table 10-3) in TYPE 0 (s32) and 1 (u32), sources after their modifiers: IMULH, IMIN, IMAX, IMAD wrapping and saturating,
IMADW into a pair. -/
def Obligations.TypedIntegerWordsComplete : Prop :=
  ∀ (s : State) (e : Env) (f : FmtA) (x : FmtX), s.issuer = some e → (x.ty = 0 ∨ x.ty = 1) →
    (let A : Word → Word := imod (x.ty = 0) x.absa x.nega
     let B : Word → Word := imod (x.ty = 0) x.absb x.negb
     let C : Word → Word := imod (x.ty = 0) x.absc x.negc
     let N : Word → Int := num32 x.ty
     (Ready2 e f false .i32 .i32 →
      Word2 s e f 2 (.imulh f x) (fun a b => (((BitVec.ofInt 64 (N (A a) * N (B b))) >>> 32).setWidth 32, 0)) ∧
      Word2 s e f 2 (.imin f x) (fun a b => (if N (A a) ≤ N (B b) then A a else B b, 0)) ∧
      Word2 s e f 2 (.imax f x) (fun a b => (if N (B b) ≤ N (A a) then A a else B b, 0))) ∧
     (Ready3 e f x false .i32 .i32 .i32 →
      Word3 s e f x (.imad f x) (fun a b c =>
        let t := N (A a) * N (B b) + N (C c)
        let lo : Int := if x.ty = 0 then -2147483648 else 0
        let hi : Int := if x.ty = 0 then 2147483647 else 4294967295
        if x.sat then (BitVec.ofInt 32 (max lo (min hi t)), if outside32 x.ty t then flSat else 0)
        else (BitVec.ofInt 32 t, if outside32 x.ty t then flOver else 0))) ∧
     (Ready3 e f x true .i32 .i32 .i64 →
      GivesVector (.imadw f x) s e 2 true f.n f.d.toNat (e.active f) 0 (fun l =>
        let c : BitVec 64 := BitVec.ofNat 64 (e.read .i64 x.sc.toNat l)
        let t := N (A (opnd e f.a l)) * N (B (opnd e f.b l)) + (if x.ty = 0 then c.toInt else (c.toNat : Int))
        let out := if x.ty = 0 then decide (t < -2 ^ 63) || decide (2 ^ 63 - 1 < t) else decide (t < 0) || decide (2 ^ 64 - 1 < t)
        ((BitVec.ofInt 64 t).toNat, if out then flOver else 0))))

open Sys2Proof Sys2Proof.Machine Sys2Proof.Certificates in
/-- 10 R214 (ISET in 32-bit and pair types; under codes 6 and 7 read and modified unsigned whatever TYPE is), R216 (SEL) and R217 (PLOP, P2V, V2P): predicates from comparisons, a choice by a predicate, and
predicates by a truth table; a write of p0 is discarded. -/
def Obligations.CompareSelectAndPredicateWordsComplete : Prop :=
  ∀ (s : State) (e : Env) (f : FmtA) (x : FmtX), s.issuer = some e →
    ((x.ty = 0 ∨ x.ty = 1) → x.sub.toNat < 8 → ReadyP e f .i32 →
      GivesPredicate (.iset f x) s e 2 f.n f.d.toNat (e.active f) (fun l =>
        let a := imod (x.ty = 0 && x.sub.toNat < 6) x.absa x.nega (opnd e f.a l)
        let b := imod (x.ty = 0 && x.sub.toNat < 6) x.absb x.negb (opnd e f.b l)
        (holds x.sub.toNat (num32 x.ty a) (num32 x.ty b) a.toNat b.toNat, 0))) ∧
    ((x.ty = 6 ∨ x.ty = 7) → x.sub.toNat < 8 → ReadyP e f .i64 →
      GivesPredicate (.iset f x) s e 2 f.n f.d.toNat (e.active f) (fun l =>
        let a := imod (x.ty = 6 && x.sub.toNat < 6) x.absa x.nega (BitVec.ofNat 64 (e.read .i64 f.a.toNat l))
        let b := imod (x.ty = 6 && x.sub.toNat < 6) x.absb x.negb (BitVec.ofNat 64 (e.read .i64 f.b.toNat l))
        (holds x.sub.toNat (if x.ty = 6 then a.toInt else a.toNat) (if x.ty = 6 then b.toInt else b.toNat) a.toNat b.toNat, 0))) ∧
    (x.sub.toNat < 16 → Ready2 e f false .i32 .i32 →
      GivesVector (.sel f x) s e 2 false f.n f.d.toNat (e.active f) 0 (fun l =>
        ((if (e.c.pred (x.sub.toNat % 8)).getLsbD l != x.sub.getLsbD 3 then opnd e f.a l else opnd e f.b l).toNat, 0))) ∧
    (f.d.toNat < 8 → f.a.toNat < 8 → f.b.toNat < 8 →
      GivesPredicate (.plop f x) s e 2 f.n f.d.toNat (e.active f) (fun l =>
        (x.sub.getLsbD (2 * (if (e.c.pred f.a.toNat).getLsbD l then 1 else 0) + (if (e.c.pred f.b.toNat).getLsbD l then 1 else 0)), 0))) ∧
    (Writable e false f.d → f.a.toNat < 8 →
      GivesVector (.p2v f) s e 1 false f.n f.d.toNat (e.active f) 0 (fun l => (if (e.c.pred f.a.toNat).getLsbD l then 1 else 0, 0))) ∧
    (f.d.toNat < 8 → Readable e .i32 f.a → NoDead e (e.active f) (srcRegs .i32 f.a.toNat) →
      GivesPredicate (.v2p f) s e 1 f.n f.d.toNat (e.active f) (fun l => (opnd e f.a l != 0, 0)))

open Sys2Proof Sys2Proof.Machine Sys2Proof.Certificates in
/-- 10 R215 (Table 10-5): MOVI and MOVI.H, which reads D, in every lane of the path, MOVX from a computed register, LEA's scaled address sum.
10 R215: MOVXW writes B into register d + A of each active lane, and nothing else (with NWB no register). In MOVX or MOVXW a computed register
that names a destination of a long-latency word still under way in the clause is fault 0x03 in any active lane, and one at or above the
allocation fault 0x04, with no effect in any lane; that the report names only the lanes that reach such a register is the model's reading of 15
Table 15-2 (log 59, DEDUCED). -/
def Obligations.MoveWordsComplete : Prop :=
  (
  ∀ (s : State) (e : Env), s.issuer = some e →
    (∀ f : FmtI, Writable e false f.d →
      GivesVector (.movi f) s e 1 false f.n f.d.toNat e.lanes 0 (fun _ => ((f.imm.signExtend 32).toNat, 0)) ∧
      (NoDead e e.lanes [f.d.toNat] → GivesVector (.moviH f) s e 1 false f.n f.d.toNat e.lanes 0 (fun l =>
        ((f.imm ++ (e.c.v f.d.toNat l).extractLsb' 0 14 : BitVec 32).toNat, 0)))) ∧
    (∀ (f : FmtA), Writable e false f.d → Readable e .i32 f.a → f.b.toNat < 64 → e.c.unalloc f.b.toNat = false →
      (∀ l, (e.active f).getLsbD l = true → e.c.unalloc (f.b.toNat + (opnd e f.a l).toNat) = false ∧
        f.b.toNat + (opnd e f.a l).toNat ∉ e.longDst) →
      NoDead e (e.active f) (srcRegs .i32 f.a.toNat ++ (lanesOf (e.active f)).map fun l => f.b.toNat + (opnd e f.a l).toNat) →
      GivesVector (.movx f) s e 1 false f.n f.d.toNat (e.active f) 0 (fun l => ((e.c.v (f.b.toNat + (opnd e f.a l).toNat) l).toNat, 0))) ∧
    (∀ (f : FmtA) (x : FmtX), (x.ty = 0 ∨ x.ty = 1) → x.sub.toNat < 8 → Ready2 e f true .i64 .i32 →
      GivesVector (.lea f x) s e 2 true f.n f.d.toNat (e.active f) 0 (fun l =>
        let b := opnd e f.b l
        ((BitVec.ofNat 64 (e.read .i64 f.a.toNat l) + ((if x.ty = 0 then b.signExtend 64 else b.setWidth 64) <<< x.sub.toNat)).toNat, 0)))) ∧
  (
  ∀ (s : State) (e : Env) (f : FmtA), s.issuer = some e → Writable e false f.d → Readable e .i32 f.a →
    (let act := e.active f
     let dst (l : Nat) : Nat := f.d.toNat + (opnd e f.a l).toNat
     let src (l : Nat) : Nat := f.b.toNat + (opnd e f.a l).toNat
     let high (k : Nat → Nat) : Mask := maskOf ((lanesOf act).filter fun l => e.c.unalloc (k l))
     let late (k : Nat → Nat) : Mask := maskOf ((lanesOf act).filter fun l => e.longDst.contains (k l))
     (Readable e .i32 f.b → NoDead e act (srcRegs .i32 f.a.toNat ++ srcRegs .i32 f.b.toNat) →
      (∀ l, act.getLsbD l = true → e.c.unalloc (dst l) = false ∧ dst l ∉ e.longDst) →
      ∃ t c', exec (.movxw f) s = .next t ∧ OnlyCtx s t e.cid c' ∧
        (∀ l, act.getLsbD l = true → f.n = false → c'.v (dst l) l = opnd e f.b l) ∧
        (∀ r l, l < 64 → (f.n = true ∨ act.getLsbD l = false ∨ r ≠ dst l) → c'.v r l = e.c.v r l) ∧
        SameBut { e.c with vregs := c'.vregs, dead := c'.dead } c' ∧
        StepsOn e c' 1 (fun t => ∃ x, t = some x ∧ ∀ l, act.getLsbD l = true → x.read l = (opnd e f.b l).toNat)) ∧
     (Readable e .i32 f.b → (∀ l, act.getLsbD l = true → dst l ∉ e.longDst) → (∃ l, act.getLsbD l = true ∧ e.c.unalloc (dst l) = true) →
      exec (.movxw f) s = .next (s.takeTrap e.cid e.e e.p.nextHeader (plainReport 4 e.p.pc (high dst)))) ∧
     (f.b.toNat < 64 → e.c.unalloc f.b.toNat = false → (∀ l, act.getLsbD l = true → src l ∉ e.longDst) →
      (∃ l, act.getLsbD l = true ∧ e.c.unalloc (src l) = true) →
      exec (.movx f) s = .next (s.takeTrap e.cid e.e e.p.nextHeader (plainReport 4 e.p.pc (high src)))) ∧
     (f.b.toNat < 64 → (∃ l, act.getLsbD l = true ∧ src l ∈ e.longDst) →
      exec (.movx f) s = .next (s.takeTrap e.cid e.e e.p.nextHeader (plainReport 3 e.p.pc (late src)))) ∧
     (f.n = false → Readable e .i32 f.b → (∃ l, act.getLsbD l = true ∧ dst l ∈ e.longDst) →
      exec (.movxw f) s = .next (s.takeTrap e.cid e.e e.p.nextHeader (plainReport 3 e.p.pc (late dst))))))
namespace Sys2Proof.Certificates

open Sys2Proof Sys2Proof.Machine

/-- FP32 operand `code` of the issuing word in lane `l`, a subnormal flushed to zero of its sign under FMODE.FTZ (02 R29). -/
def fopnd (e : Env) (code : BitVec 7) (l : Nat) : Nat := flushIn e.c.ftz (e.read .f32 code.toNat l)

/-- A FP32 operand after its sign modifiers (06 R128), then flushed. -/
def fmopnd (e : Env) (abs neg : Bool) (code : BitVec 7) (l : Nat) : Nat := flushIn e.c.ftz (fMods 8 abs neg (e.read .f32 code.toNat l))

/-- The class of a FP32 value: the bit of 10 Table 10-8. -/
def classBit (code : Nat) : Nat :=
  match fDecode 8 code with
  | .nan => 8
  | .inf neg => if neg then 0 else 7
  | .fin neg m _ =>
    if m = 0 then (if neg then 3 else 4) else if m < 2 ^ 23 then (if neg then 2 else 5) else (if neg then 1 else 6)

/-- Both 16-bit elements of a packed result, their flags ORed (02 R17, 10 R221). -/
def packed (r0 r1 : Nat × Flags) : Nat × Flags := (r0.1 + 2 ^ 16 * r1.1, r0.2 ||| r1.2)

/-- Element `i` of a packed operand as a value of its type, sign modifiers applied. -/
def elem (e : Env) (t : Nat) (abs neg : Bool) (code : BitVec 7) (l i : Nat) : FVal :=
  fDecode t (fMods t abs neg (e.read (.p16 t) code.toNat l / 2 ^ (16 * i) % 2 ^ 16))

/-- The same as a code. -/
def elemCode (e : Env) (t : Nat) (abs neg : Bool) (code : BitVec 7) (l i : Nat) : Nat :=
  fMods t abs neg (e.read (.p16 t) code.toNat l / 2 ^ (16 * i) % 2 ^ 16)

/-- Four 8-bit products and C as terms of one sum (10 R226). -/
def dotTerms (e : Env) (f : FmtA) (x : FmtX) (l : Nat) : List FTerm :=
  let t := x.ty.toNat
  let a (i : Nat) : FVal := fDecode t (fMods t false x.nega (e.read (.f8 t) f.a.toNat l / 2 ^ (8 * i) % 2 ^ 8))
  let b (i : Nat) : FVal := fDecode t (fMods t false x.negb (e.read (.f8 t) f.b.toNat l / 2 ^ (8 * i) % 2 ^ 8))
  [fMulX (a 0) (b 0), fMulX (a 1) (b 1), fMulX (a 2) (b 2), fMulX (a 3) (b 3),
    .val (fDecode 8 (fMods 8 x.absc x.negc (e.read .f32 x.sc.toNat l)))]

/-- Byte `i` of an integer operand as s8 (TYPE 4) or n8 (TYPE 5). -/
def byteNum (ty : BitVec 5) (v i : Nat) : Int :=
  let b : BitVec 8 := BitVec.ofNat 8 (v / 2 ^ (8 * i))
  if ty = 4 then b.toInt else (b.toNat : Int)

/-- The real number a finite value stands for. -/
def ratOf : FVal → ℚ
  | .fin neg m e => (if neg then -1 else 1) * (m : ℚ) * (2 : ℚ) ^ e
  | _ => 0

/-- Is a value finite? -/
def finite : FVal → Bool
  | .fin .. => true
  | _ => false

end Sys2Proof.Certificates

open Sys2Proof Sys2Proof.Machine Sys2Proof.Certificates in
/-- 10 R218-R220: FADD, FMUL, FFMA, FMIN, FMAX, FSET, FCLASS, FRND and FSCALE complete; each rounds its one exact result once, sources and
result flushed under FMODE.FTZ (but for FCLASS), and FCLASS gives the one bit of its operand's class. -/
def Obligations.FloatingWordsComplete : Prop :=
  ∀ (s : State) (e : Env) (f : FmtA) (x : FmtX), s.issuer = some e →
    (let z := e.c.ftz
     let V : Nat → Instr → (Nat → Nat × Flags) → Prop := fun nw i r => GivesVector i s e nw false f.n f.d.toNat (e.active f) 0 r
     (Ready2 e f false .f32 .f32 →
       V 1 (.fadd f) (fun l => flushOut z (fSum 8 0 0 false [.val (fDecode 8 (fopnd e f.a l)), .val (fDecode 8 (fopnd e f.b l))])) ∧
       V 1 (.fmul f) (fun l => flushOut z (fSum 8 0 0 false [fMulX (fDecode 8 (fopnd e f.a l)) (fDecode 8 (fopnd e f.b l))])) ∧
       V 1 (.fmin f) (fun l => fMinMax 8 false (fopnd e f.a l) (fopnd e f.b l)) ∧
       V 1 (.fmax f) (fun l => fMinMax 8 true (fopnd e f.a l) (fopnd e f.b l))) ∧
     (Ready3 e f x false .f32 .f32 .f32 →
       V 2 (.ffma f x) (fun l => flushOut z (fSum 8 x.rnd.toNat 0 x.sat
         [fMulX (fDecode 8 (fmopnd e x.absa x.nega f.a l)) (fDecode 8 (fmopnd e x.absb x.negb f.b l)),
          .val (fDecode 8 (fmopnd e x.absc x.negc x.sc l))]))) ∧
     (Ready1 e f false .f32 →
       V 1 (.fclass f) (fun l => (2 ^ classBit (e.read .f32 f.a.toNat l), 0)) ∧
       V 2 (.frnd f x) (fun l => frndOp x.rnd.toNat (fmopnd e x.absa x.nega f.a l))) ∧
     (Ready2 e f false .f32 .i32 →
       V 1 (.fscale f) (fun l => flushOut z (fscaleOp (fopnd e f.a l) (opnd e f.b l).toNat))) ∧
     (ReadyP e f .f32 → GivesPredicate (.fset f x) s e 2 f.n f.d.toNat (e.active f) (fun l =>
       fCond 8 x.sub.toNat (fmopnd e x.absa x.nega f.a l) (fmopnd e x.absb x.negb f.b l))))

open Sys2Proof Sys2Proof.Machine Sys2Proof.Certificates in
/-- 10 R221, R222: the packed 16-bit words act on both elements alone in BF16 or FP16 and OR their flags; DUSET takes element 0, element 1,
both or either. -/
def Obligations.PackedWordsComplete : Prop :=
  ∀ (s : State) (e : Env) (f : FmtA) (x : FmtX), s.issuer = some e → (x.ty = 9 ∨ x.ty = 10) →
    (let t := x.ty.toNat
     let V : Instr → (Nat → Nat → Nat × Flags) → Prop := fun i r =>
       GivesVector i s e 2 false f.n f.d.toNat (e.active f) 0 (fun l => packed (r l 0) (r l 1))
     (Ready2 e f false (.p16 t) (.p16 t) →
       V (.duadd f x) (fun l i => fSum t x.rnd.toNat 0 x.sat [.val (elem e t x.absa x.nega f.a l i), .val (elem e t x.absb x.negb f.b l i)]) ∧
       V (.dumul f x) (fun l i => fSum t x.rnd.toNat 0 x.sat [fMulX (elem e t x.absa x.nega f.a l i) (elem e t x.absb x.negb f.b l i)]) ∧
       V (.dumin f x) (fun l i => fMinMax t false (elemCode e t x.absa x.nega f.a l i) (elemCode e t x.absb x.negb f.b l i)) ∧
       V (.dumax f x) (fun l i => fMinMax t true (elemCode e t x.absa x.nega f.a l i) (elemCode e t x.absb x.negb f.b l i))) ∧
     (Ready3 e f x false (.p16 t) (.p16 t) (.p16 t) →
       V (.dufma f x) (fun l i => fSum t x.rnd.toNat 0 x.sat
         [fMulX (elem e t x.absa x.nega f.a l i) (elem e t x.absb x.negb f.b l i), .val (elem e t x.absc x.negc x.sc l i)])) ∧
     (ReadyP e f (.p16 t) → GivesPredicate (.duset f x) s e 2 f.n f.d.toNat (e.active f) (fun l =>
       let r (i : Nat) : Bool × Flags := fCond t (x.sub.toNat % 8) (elemCode e t x.absa x.nega f.a l i) (elemCode e t x.absb x.negb f.b l i)
       (match x.sub.toNat / 8 % 4 with
         | 0 => (r 0).1
         | 1 => (r 1).1
         | 2 => (r 0).1 && (r 1).1
         | _ => (r 0).1 || (r 1).1, (r 0).2 ||| (r 1).2))))

open Sys2Proof Sys2Proof.Machine Sys2Proof.Certificates in
/-- 10 R223: CVT converts one source into a 32-bit or 64-bit destination, two into a 16-bit or 8-bit one, in the low or (SUBOP[5]) the high
half; a stochastic one counts its draws. -/
def Obligations.ConversionWordsComplete : Prop :=
  ∀ (s : State) (e : Env) (f : FmtA) (x : FmtX), s.issuer = some e →
    (let t := x.ty.toNat
     let src := x.sub.toNat % 32
     let w := elemBits t
     let cv (l k : Nat) (code : BitVec 7) (ab ng : Bool) : Nat × Flags :=
       convert t src (cvtSrc src ab ng (e.read (cvtPos src) code.toNat l)) x.rnd.toNat (draw e.c.seed e.c.scnt l k) x.sat
     let ra (l : Nat) := cv l 0 f.a x.absa x.nega
     let rb (l : Nat) := cv l 1 f.b x.absb x.negb
     t ≤ 12 → src ≤ 12 →
     (32 ≤ w → Ready1 e f (decide (w = 64)) (cvtPos src) → x.sub.getLsbD 5 = false →
       GivesVector (.cvt f x) s e 2 (decide (w = 64)) f.n f.d.toNat (e.active f) (if x.rnd = 5 then 1 else 0) ra) ∧
     (w < 32 → Ready2 e f false (cvtPos src) (cvtPos src) → x.sub.getLsbD 5 = false →
       GivesVector (.cvt f x) s e 2 false f.n f.d.toNat (e.active f) (if x.rnd = 5 then 2 else 0)
         (fun l => ((rb l).1 * 2 ^ w + (ra l).1, (ra l).2 ||| (rb l).2))) ∧
     (w = 8 → Ready2 e f false (cvtPos src) (cvtPos src) → x.sub.getLsbD 5 = true → NoDead e (e.active f) [f.d.toNat] →
       GivesVector (.cvt f x) s e 2 false f.n f.d.toNat (e.active f) (if x.rnd = 5 then 2 else 0)
         (fun l => (((rb l).1 * 2 ^ 8 + (ra l).1) * 2 ^ 16 + (e.c.v f.d.toNat l).toNat % 2 ^ 16, (ra l).2 ||| (rb l).2))))

open Sys2Proof Sys2Proof.Machine Sys2Proof.Certificates in
/-- 10 R224, R225: ZPK and MXPK pack each block's active lanes, others as +0, into field words and a scale word; ZUPK and MXUPK read each
lane's element back under the lane's own scale. -/
def Obligations.BlockPackWordsComplete : Prop :=
  ∀ (s : State) (e : Env) (f : FmtA) (x : FmtX), s.issuer = some e →
    (∀ l, (e.active f).getLsbD l = true → l < e.c.width) → (e.c.width = 16 ∨ e.c.width = 32 ∨ e.c.width = 64) →
    (let t := x.ty.toNat
     let act := e.active f
     let val (l : Nat) : FVal × Nat :=
       (if act.getLsbD l = true then fDecode 8 (fMods 8 x.absa x.nega (e.read .f32 f.a.toNat l)) else .fin false 0 0,
        draw e.c.seed e.c.scnt l 0)
     let block (k l : Nat) : List (FVal × Nat) := (List.range k).map fun i => val (l / k * k + i)
     let sat (cs : List (Nat × Flags)) : Flags := if cs.any (fun c => c.2 &&& flSat ≠ 0) = true then flSat else 0
     let fieldAt (k n l : Nat) : Nat := ((List.range n).map fun i =>
       (if act.getLsbD (l / k * k + i) = true then e.read .i32 f.a.toNat (l / k * k + i) else 0) * 2 ^ (32 * i)).foldl (· + ·) 0
     (Ready1 e f false .f32 →
       GivesVector (.zpk f x) s e 2 false f.n f.d.toNat act (if x.rnd = 5 then 1 else 0) (fun l =>
         let r := zbPack t x.rnd.toNat (block 16 l)
         (if l % 16 < zbWords t then zbField t (r.2.map (·.1)) / 2 ^ (32 * (l % 16)) % 2 ^ 32 else if l % 16 = 15 then r.1 else 0,
          (r.2.getD (l % 16) (0, 0)).2 ||| sat r.2)) ∧
       (e.c.width ≠ 16 → GivesVector (.mxpk f x) s e 2 false f.n f.d.toNat act (if x.rnd = 5 then 1 else 0) (fun l =>
         let r := mxPack t x.rnd.toNat (block 32 l)
         (if l % 32 < mxBits t then mxField t (r.2.map (·.1)) / 2 ^ (32 * (l % 32)) % 2 ^ 32 else if l % 32 = 31 then r.1 else 0,
          (r.2.getD (l % 32) (0, 0)).2 ||| sat r.2)))) ∧
     (Ready2 e f false .i32 .i32 →
       GivesVector (.zupk f x) s e 2 false f.n f.d.toNat act 0 (fun l =>
         fDeliver 8 0 0 false (zbValue t (fieldAt 16 (zbWords t) l) (l % 16) (opnd e f.b l).toNat)) ∧
       (e.c.width ≠ 16 → GivesVector (.mxupk f x) s e 2 false f.n f.d.toNat act 0 (fun l =>
         fDeliver 8 0 0 x.sat (mxValue t (fieldAt 32 (mxBits t) l / 2 ^ (mxBits t * (l % 32)) % 2 ^ mxBits t) ((opnd e f.b l).toNat % 256))))))

open Sys2Proof Sys2Proof.Machine Sys2Proof.Certificates in
/-- 10 R226: FDOT4 rounds the exact sum of four 8-bit products and C once to FP32; IDOT4 forms it exactly in integers and wraps or saturates. -/
def Obligations.DotWordsComplete : Prop :=
  ∀ (s : State) (e : Env) (f : FmtA) (x : FmtX), s.issuer = some e →
    ((x.ty = 11 ∨ x.ty = 12) → Ready3 e f x false (.f8 x.ty.toNat) (.f8 x.ty.toNat) .f32 →
      GivesVector (.fdot4 f x) s e 2 false f.n f.d.toNat (e.active f) 0 (fun l => fSum 8 x.rnd.toNat 0 x.sat (dotTerms e f x l))) ∧
    ((x.ty = 4 ∨ x.ty = 5) → Ready3 e f x false (.i8 x.ty.toNat) (.i8 x.ty.toNat) .i32 →
      GivesVector (.idot4 f x) s e 2 false f.n f.d.toNat (e.active f) 0 (fun l =>
        let a (i : Nat) : Int := byteNum x.ty (e.read (.i8 x.ty.toNat) f.a.toNat l) i
        let b (i : Nat) : Int := byteNum x.ty (e.read (.i8 x.ty.toNat) f.b.toNat l) i
        let v := a 0 * b 0 + a 1 * b 1 + a 2 * b 2 + a 3 * b 3 + (imod true x.absc x.negc (opnd e x.sc l)).toInt
        let out := outside32 0 v
        if x.sat then ((BitVec.ofInt 32 (max (-2147483648) (min 2147483647 v))).toNat, if out then flSat else 0)
        else ((BitVec.ofInt 32 v).toNat, if out then flOver else 0)))

open Sys2Proof Sys2Proof.Machine Sys2Proof.Certificates in
/-- 10 R227: RCP, RSQ, SQRT, EX2, LG2, SIN, COS and TANH complete with the function's one rounded value, source and result flushed under
FMODE.FTZ. -/
def Obligations.SpecialFunctionWordsComplete : Prop :=
  ∀ (s : State) (e : Env) (f : FmtA), s.issuer = some e → Ready1 e f false .f32 →
    (let V : Instr → Nat → Prop := fun i opc => GivesVector i s e 1 false f.n f.d.toNat (e.active f) 0
       (fun l => flushOut e.c.ftz (special opc (fopnd e f.a l)))
     V (.rcp f) 0x40 ∧ V (.rsq f) 0x41 ∧ V (.sqrt f) 0x42 ∧ V (.ex2 f) 0x43 ∧ V (.lg2 f) 0x44 ∧ V (.sin f) 0x45 ∧ V (.cos f) 0x46 ∧
       V (.tanh f) 0x47)

open Sys2Proof Sys2Proof.Machine Sys2Proof.Certificates in
/-- 10 R228: the results of Table 10-11, column by column, with only the flags it names. -/
def Obligations.SpecialFunctionsOfSpecialInputs : Prop :=
  (special 0x40 0 = (0x7F800000, flDivZ) ∧ special 0x40 0x80000000 = (0xFF800000, flDivZ) ∧
    special 0x40 0x7F800000 = (0, 0) ∧ special 0x40 0xFF800000 = (0x80000000, 0)) ∧
  (special 0x41 0 = (0x7F800000, flDivZ) ∧ special 0x41 0x80000000 = (0xFF800000, flDivZ) ∧
    special 0x41 0x7F800000 = (0, 0) ∧ special 0x41 0xFF800000 = (0x7FC00000, flInvalid)) ∧
  (special 0x42 0 = (0, 0) ∧ special 0x42 0x80000000 = (0x80000000, 0) ∧
    special 0x42 0x7F800000 = (0x7F800000, 0) ∧ special 0x42 0xFF800000 = (0x7FC00000, flInvalid)) ∧
  (special 0x43 0 = (0x3F800000, 0) ∧ special 0x43 0x80000000 = (0x3F800000, 0) ∧
    special 0x43 0x7F800000 = (0x7F800000, 0) ∧ special 0x43 0xFF800000 = (0, 0)) ∧
  (special 0x44 0 = (0xFF800000, flDivZ) ∧ special 0x44 0x80000000 = (0xFF800000, flDivZ) ∧
    special 0x44 0x7F800000 = (0x7F800000, 0) ∧ special 0x44 0xFF800000 = (0x7FC00000, flInvalid)) ∧
  (special 0x45 0 = (0, 0) ∧ special 0x45 0x80000000 = (0x80000000, 0) ∧
    special 0x45 0x7F800000 = (0x7FC00000, flInvalid) ∧ special 0x45 0xFF800000 = (0x7FC00000, flInvalid)) ∧
  (special 0x46 0 = (0x3F800000, 0) ∧ special 0x46 0x80000000 = (0x3F800000, 0) ∧
    special 0x46 0x7F800000 = (0x7FC00000, flInvalid) ∧ special 0x46 0xFF800000 = (0x7FC00000, flInvalid)) ∧
  (special 0x47 0 = (0, 0) ∧ special 0x47 0x80000000 = (0x80000000, 0) ∧
    special 0x47 0x7F800000 = (0x3F800000, 0) ∧ special 0x47 0xFF800000 = (0xBF800000, 0)) ∧
  (∀ code m q, fDecode 8 code = .fin true m q → m ≠ 0 →
    special 0x41 code = (0x7FC00000, flInvalid) ∧ special 0x42 code = (0x7FC00000, flInvalid) ∧ special 0x44 code = (0x7FC00000, flInvalid)) ∧
  (∀ code, fDecode 8 code = .nan → ∀ opc, 0x40 ≤ opc → opc ≤ 0x47 → special opc code = (0x7FC00000, flNanIn))

open Sys2Proof Sys2Proof.Machine Sys2Proof.Certificates in
/-- 02 R37: the sum that is rounded is exact: the value of finite terms before rounding is the sum of their values; and a product is exact.
02 R31, R32: any NaN among the terms of a sum gives the canonical NaN with NANIN (alone too where other terms are invalid:
the model's choice, log 71); otherwise infinities of both signs, or a product of
zero and infinity, give it with INVALID; infinities of one sign give that infinity; zeros that cancel give +0, but -0 toward minus
infinity, and terms that are all zeros of one sign give that zero. -/
def Obligations.SumsAndProductsAreExact : Prop :=
  (
  (∀ (mode : Nat) (vs : List FVal), (∀ v ∈ vs, finite v = true) →
    finite (fSumX mode (vs.map .val)).1 = true ∧ ratOf (fSumX mode (vs.map .val)).1 = (vs.map ratOf).foldl (· + ·) 0 ∧
      (fSumX mode (vs.map .val)).2 = 0) ∧
  (∀ a b : FVal, finite a = true → finite b = true → ∃ c, fMulX a b = .val c ∧ finite c = true ∧ ratOf c = ratOf a * ratOf b ∧
    c.sign = (a.sign != b.sign))) ∧
  (
  ∀ (t mode u : Nat) (sat : Bool) (ts : List FTerm),
    (FTerm.val .nan ∈ ts → fSum t mode u sat ts = (fmtNan t, flNanIn)) ∧
    (FTerm.val .nan ∉ ts → (FTerm.bad ∈ ts ∨ (FTerm.val (.inf false) ∈ ts ∧ FTerm.val (.inf true) ∈ ts)) →
      fSum t mode u sat ts = (fmtNan t, flInvalid)) ∧
    (FTerm.val .nan ∉ ts → FTerm.bad ∉ ts → ∀ neg, FTerm.val (.inf neg) ∈ ts → FTerm.val (.inf (!neg)) ∉ ts → fmtHasInf t = true →
      fSum t mode u sat ts = (withSign t neg (fmtMax t + 1), 0)) ∧
    (∀ (m : Nat) (q : Int), m ≠ 0 → fSum t mode u sat [.val (.fin false m q), .val (.fin true m q)] = (withSign t (decide (mode = 3)) 0, 0)) ∧
    (∀ (neg : Bool) (n : Nat), fSum t mode u sat (List.replicate (n + 1) (.val (.fin neg 0 0))) = (withSign t neg 0, 0)))

open Sys2Proof Sys2Proof.Machine Sys2Proof.Certificates in
/-- 02 R26, Table 2-4: rounding to a whole number of units keeps a whole number, and otherwise goes to nearest with ties to even, toward zero,
up, down, or to nearest with ties away from zero, as the mode says; a stochastic rounding goes up when its draw lies below the rest's
share of 2^32 (R27).
02 R16, R18, R19: every finite code of FP32, BF16, FP16, E4M3 and E5M2 is the rounding, in every mode, of the value it stands for, with no
flag. -/
def Obligations.RoundingModes : Prop :=
  (
  ∀ (neg : Bool) (u m : Nat) (e q : Int),
    (q ≤ e → ∀ mode, roundUnits mode neg u m e q = (m * 2 ^ (e - q).toNat, false)) ∧
    (e < q →
      (let den := 2 ^ (q - e).toNat
       let r (mode : Nat) : Nat := (roundUnits mode neg u m e q).1
       (∀ mode, (roundUnits mode neg u m e q).2 = decide (¬ den ∣ m)) ∧
       (∀ mode, den ∣ m → r mode = m / den) ∧
       (2 * (if r 0 * den ≤ m then m - r 0 * den else r 0 * den - m) ≤ den ∧ (2 * m = (2 * (m / den) + 1) * den → r 0 % 2 = 0)) ∧
       (r 1 * den ≤ m ∧ m < (r 1 + 1) * den) ∧
       (r 2 = if neg = false ∧ ¬ den ∣ m then m / den + 1 else m / den) ∧
       (r 3 = if neg = true ∧ ¬ den ∣ m then m / den + 1 else m / den) ∧
       (2 * (if r 4 * den ≤ m then m - r 4 * den else r 4 * den - m) ≤ den ∧ (2 * m = (2 * (m / den) + 1) * den → r 4 = m / den + 1)) ∧
       (r 5 = if u < m % den * 2 ^ 32 / den then m / den + 1 else m / den)))) ∧
  (
  ∀ (t mode u code : Nat) (sat neg : Bool) (m : Nat) (q : Int), 8 ≤ t → t ≤ 12 → code < 2 ^ (fmtSign t + 1) →
    fDecode t code = .fin neg m q → fRound t mode u sat neg m q false = (code, 0))

open Sys2Proof Sys2Proof.Machine Sys2Proof.Certificates in
/-- 10 R219: FSET treats zeros of both signs as equal, and with a NaN only `.ne` holds and NANIN is set; the comparison of finite values is
that of the numbers they stand for. -/
def Obligations.FsetComparesNumbers : Prop :=
  ∀ (cond a b : Nat), cond < 6 →
    ((fDecode 8 a = .nan ∨ fDecode 8 b = .nan) → fCond 8 cond a b = (decide (cond = 1), flNanIn)) ∧
    (finite (fDecode 8 a) = true → finite (fDecode 8 b) = true →
      (let x := ratOf (fDecode 8 a)
       let y := ratOf (fDecode 8 b)
       fCond 8 cond a b = (match cond with
         | 0 => decide (x = y)
         | 1 => decide (x ≠ y)
         | 2 => decide (x < y)
         | 3 => decide (y ≤ x)
         | 4 => decide (y < x)
         | _ => decide (x ≤ y), 0)))

namespace Sys2Proof.Certificates

open Sys2Proof Sys2Proof.Machine

/-- The lanes a scan's result in lane `l` covers, in ascending order: those of ACTIVE below it, and itself unless exclusive. -/
def seenBy (act : Mask) (excl : Bool) (l : Nat) : List Nat := (lanesOf act).filter fun j => decide (j < l) || (!excl && decide (j = l))

/-- An integer reduction of TYPE 0 or 1 over the operands of lanes (10 R231): value, and OVER where an add's exact sum is outside TYPE. -/
def intReduce (op : Nat) (ty : BitVec 5) (vs : List Word) : Nat × Flags :=
  let lo : Word := if ty = 0 then 0x80000000#32 else 0
  let hi : Word := if ty = 0 then 0x7FFFFFFF#32 else 0xFFFFFFFF#32
  match op with
  | 0 =>
    let t := (vs.map (num32 ty)).foldl (· + ·) 0
    ((BitVec.ofInt 32 t).toNat, if outside32 ty t then flOver else 0)
  | 1 => ((vs.foldl (fun a v => if num32 ty v < num32 ty a then v else a) hi).toNat, 0)
  | 2 => ((vs.foldl (fun a v => if num32 ty a < num32 ty v then v else a) lo).toNat, 0)
  | 3 => ((vs.foldl (· &&& ·) (0xFFFFFFFF#32)).toNat, 0)
  | 4 => ((vs.foldl (· ||| ·) (0#32)).toNat, 0)
  | _ => ((vs.foldl (· ^^^ ·) (0#32)).toNat, 0)

/-- A FP32 reduction (10 R231): one rounding a step under `mode` for add, the flags of every step taken. -/
def floatReduce (op mode : Nat) (vs : List Nat) : Nat × Flags :=
  vs.foldl (fun a v =>
    let r := if op = 0 then fSum 8 mode 0 false [.val (fDecode 8 a.1), .val (fDecode 8 v)] else fMinMax 8 (decide (op = 2)) a.1 v
    (r.1, a.2 ||| r.2)) (match op with
      | 0 => 0
      | 1 => 0x7F800000
      | _ => 0xFF800000, 0)

/-- Destination and scalar sources of a scalar word are without defect. -/
def ScalarReadable (e : Env) (a : BitVec 7) : Prop := e.scalarDefects .i32 a.toNat = []

end Sys2Proof.Certificates

open Sys2Proof Sys2Proof.Machine Sys2Proof.Certificates in
/-- 10 R229, R230, R232: SHFL reads a source lane of its own ACTIVE set below the width, or the lane itself; VOTE gives every active lane one
result; MATCH gives each the lanes with its own bits. Only lanes of ACTIVE are read. -/
def Obligations.CrossLaneWordsComplete : Prop :=
  ∀ (s : State) (e : Env) (f : FmtA) (x : FmtX), s.issuer = some e →
    (let act := e.active f
     let wide : Bool := decide (x.ty = 6)
     let p : Pos := if x.ty = 6 then .i64 else .i32
     ((x.ty = 0 ∨ x.ty = 6) → x.sub.toNat < 4 → Writable e wide f.d → Readable e p f.a → Readable e .i32 f.b →
       NoDead e act (srcRegs p f.a.toNat ++ srcRegs .i32 f.b.toNat) →
       GivesVector (.shfl f x) s e 2 wide f.n f.d.toNat act 0 (fun l =>
         let b := (opnd e f.b l).toNat
         let src : Int := match x.sub.toNat with
           | 0 => (b : Int)
           | 1 => (l : Int) - b
           | 2 => (l : Int) + b
           | _ => ((l ^^^ b : Nat) : Int)
         (if 0 ≤ src ∧ src < e.c.width ∧ act.getLsbD src.toNat = true then e.read p f.a.toNat src.toNat else e.read p f.a.toNat l, 0))) ∧
     (x.sub.toNat < 5 → Ready1 e f false .i32 →
       (let yes : List Nat := (lanesOf act).filter fun l => opnd e f.a l ≠ 0
        GivesVector (.vote f x) s e 2 false f.n f.d.toNat act 0 (fun _ =>
          (match x.sub.toNat with
            | 0 => if yes = [] then 0 else 1
            | 1 => if ∀ l ∈ lanesOf act, opnd e f.a l ≠ 0 then 1 else 0
            | 2 => (maskOf yes).toNat % 2 ^ 32
            | 3 => (maskOf yes).toNat / 2 ^ 32
            | _ => yes.length, 0)))) ∧
     ((x.ty = 0 ∨ x.ty = 6) → x.sub.toNat < 2 → Writable e false f.d → Readable e p f.a → NoDead e act (srcRegs p f.a.toNat) →
       GivesVector (.matchW f x) s e 2 false f.n f.d.toNat act 0 (fun l =>
         let m := maskOf ((lanesOf act).filter fun j => e.read p f.a.toNat j = e.read p f.a.toNat l)
         (if x.sub = 0 then m.toNat % 2 ^ 32 else m.toNat / 2 ^ 32, 0))))

open Sys2Proof Sys2Proof.Machine Sys2Proof.Certificates in
/-- 10 R231: REDX gives every active lane the reduction over all of them in ascending order, SCAN each lane the reduction over the lanes up to
it (exclusive: below it), with OVER where an integer sum delivered is out of range. -/
def Obligations.ReductionsAndScansComplete : Prop :=
  ∀ (s : State) (e : Env) (f : FmtA) (x : FmtX), s.issuer = some e →
    (let act := e.active f
     let op := x.sub.toNat / 2 % 8
     let excl := x.sub.getLsbD 4
     ((x.ty = 0 ∨ x.ty = 1) → op < 6 → Ready1 e f false .i32 →
       GivesVector (.redx f x) s e 2 false f.n f.d.toNat act 0 (fun _ => intReduce op x.ty ((lanesOf act).map (opnd e f.a))) ∧
       GivesVector (.scan f x) s e 2 false f.n f.d.toNat act 0 (fun l => intReduce op x.ty ((seenBy act excl l).map (opnd e f.a)))) ∧
     (x.ty = 8 → op < 3 → Ready1 e f false .f32 →
       GivesVector (.redx f x) s e 2 false f.n f.d.toNat act 0
         (fun _ => floatReduce op x.rnd.toNat ((lanesOf act).map fun l => e.read .f32 f.a.toNat l)) ∧
       GivesVector (.scan f x) s e 2 false f.n f.d.toNat act 0
         (fun l => floatReduce op x.rnd.toNat ((seenBy act excl l).map fun l => e.read .f32 f.a.toNat l))))

open Sys2Proof Sys2Proof.Machine Sys2Proof.Certificates in
/-- 10 R233: V2S copies A of the lane its scalar names, or of the lowest active lane, to a scalar register; with no active lane the register
keeps its value. -/
def Obligations.VectorToScalarCompletes : Prop :=
  ∀ (s : State) (e : Env) (f : FmtA), s.issuer = some e → f.d.toNat < 32 → Readable e .i32 f.a → ScalarReadable e f.b →
    NoDead e (e.active f) (srcRegs .i32 f.a.toNat) →
    (let act := e.active f
     let k := (sopnd e f.b).toNat
     (act ≠ 0 → ∃ low, act.getLsbD low = true ∧ (∀ j, j < low → act.getLsbD j = false) ∧
       GivesScalar (.v2s f) s e 1 f.n f.d.toNat
         (if k < e.c.width ∧ act.getLsbD k = true then opnd e f.a k else opnd e f.a low).toNat) ∧
     (act = 0 → GivesScalar (.v2s f) s e 1 true f.d.toNat (e.c.sreg f.d.toNat).toNat))

open Sys2Proof Sys2Proof.Machine Sys2Proof.Certificates in
/-- 10 R234 (Table 10-12): the scalar words, once for the group, with no flag and a scalar latch. -/
def Obligations.ScalarWordsComplete : Prop :=
  ∀ (s : State) (e : Env), s.issuer = some e →
    (∀ f : FmtS, f.d.toNat < 32 → ScalarReadable e f.a →
      (let a := sopnd e f.a
       let b := sopnd e f.b
       let R : Instr → Word → Prop := fun i v => GivesScalar i s e 1 f.n f.d.toNat v.toNat
       R (.smov f) a ∧
       (ScalarReadable e f.b →
         R (.sadd f) (a + b) ∧ R (.ssub f) (a - b) ∧ R (.smul f) (a * b) ∧
         R (.sand f) (a &&& b) ∧ R (.sor f) (a ||| b) ∧ R (.sxor f) (a ^^^ b) ∧
         R (.sshl f) (if b.toNat < 32 then a <<< b.toNat else 0) ∧ R (.sshr f) (if b.toNat < 32 then a >>> b.toNat else 0) ∧
         R (.ssetEq f) (if a = b then 1 else 0) ∧ R (.ssetNe f) (if a = b then 0 else 1) ∧
         R (.ssetLt f) (if a.slt b then 1 else 0) ∧ R (.ssetGe f) (if a.slt b then 0 else 1) ∧
         R (.ssetLtu f) (if a.ult b then 1 else 0) ∧ R (.ssetGeu f) (if a.ult b then 0 else 1)))) ∧
    (∀ f : FmtI, f.d.toNat < 32 →
      GivesScalar (.smovi f) s e 1 f.n f.d.toNat (f.imm.signExtend 32).toNat ∧
      GivesScalar (.smoviH f) s e 1 f.n f.d.toNat (f.imm ++ (e.sreg f.d.toNat).extractLsb' 0 14 : BitVec 32).toNat) ∧
    (∀ f : FmtIS, f.d.toNat < 32 → ScalarReadable e f.a →
      (let a := sopnd e f.a
       let i : Word := f.imm.signExtend 32
       let R : Instr → Word → Prop := fun i v => GivesScalar i s e 1 f.n f.d.toNat v.toNat
       R (.saddImm f) (a + i) ∧ R (.sandImm f) (a &&& i) ∧
         (f.imm.toNat < 32 → R (.sshlImm f) (a <<< f.imm.toNat) ∧ R (.sshrImm f) (a >>> f.imm.toNat))))

namespace Sys2Proof.Certificates

open Sys2Proof Sys2Proof.Machine

/-- Lane `l` stands in a valid path whose pc is `pc`. -/
def LaneAt (c : Ctx) (l pc : Nat) : Prop := ∃ k, (c.path k).v = true ∧ (c.path k).mask.getLsbD l = true ∧ (c.path k).pc = pc

/-- `t` is `s` but for context `cid`, now `c'`, and for lookup buffers of stacks and cores that translations filled: every byte of memory
and every other context is as before. -/
def OnlyCtxProbed (s t : State) (cid : Nat) (c' : Ctx) : Prop :=
  t.ctx? cid = some c' ∧ (∀ k, k ≠ cid → t.ctx? k = s.ctx? k) ∧ (∀ a, t.byte a = s.byte a) ∧
    { t with ctxs := s.ctxs, stks := s.stks, cores := s.cores } = s

/-- The lane whose operands decide where lane `l` goes: itself, or the leader while ELECT holds its path (13 R290). -/
def actor (e : Env) (l : Nat) : Nat :=
  match e.c.leader with
  | some k => if e.c.leaderPath = e.e then k else l
  | none => l

/-- Lanes in which the condition of a format B word holds (13 R282). -/
def takes (e : Env) (f : FmtB) (l : Nat) : Bool :=
  e.lanes.getLsbD (actor e l) && ((e.c.pred f.cpred.toNat).getLsbD (actor e l) != f.cneg)

/-- The targets that lanes take translate and are headers (06 R121, R406): `ds` lists lane, target and join mark. -/
def TargetsOk (e : Env) (ds : List (Nat × Nat × Bool)) : Prop := (e.s.checkTargets e.c e.p.pc (e.spread ds)).2 = none

/-- Entries suffice for every destination of the path's lanes (13 R279, R281). -/
def RoomFor (e : Env) (dest : Nat → Nat × Bool) : Prop :=
  ((lanesOf e.p.mask).map dest).dedup.length ≤ e.c.freePaths.length + 1

/-- A control word completes: lane `l` of the path goes to `dest l`; its return stack is then `stk l`; only the path table, the return
stacks with their extension, and loop levels change. -/
def Goes (i : Instr) (s : State) (e : Env) (dest : Nat → Nat) (stk : Nat → List Word) : Prop :=
  ∃ t c', exec i s = .next t ∧ OnlyCtxProbed s t e.cid c' ∧ (∀ l, e.p.mask.getLsbD l = true → LaneAt c' l (dest l)) ∧
    (∀ l, mget c'.rstack l [] = stk l) ∧ SameBut { e.c with rstack := c'.rstack, ext := c'.ext } c'

/-- A lane's return stack. -/
def stackOf (e : Env) (l : Nat) : List Word := mget e.c.rstack l []

/-- The acting lanes of `m` have room for a push (13 R284) and windows for the extension where it is needed (07 R141). -/
def PushOk (e : Env) (ls : List Nat) : Prop :=
  (∀ l ∈ ls, (stackOf e l).length < 64) ∧ (e.needExt ls = true → 6 * e.c.gran ≤ e.s.freeG e.c.gc)

end Sys2Proof.Certificates

open Sys2Proof Sys2Proof.Machine Sys2Proof.Certificates in
/-- 13 R279, R282: BRA sends each lane whose condition holds to the target and the others on to the next header, splitting the path where
lanes differ; BRC sends all lanes where the condition holds in any lane of the path; CALL is BRA whose lanes push the next header. Under
ELECT every lane of the path follows its leader (log 72, DEDUCED). -/
def Obligations.BranchWordsComplete : Prop :=
  ∀ (s : State) (e : Env) (f : FmtB), s.issuer = some e → e.lanes ≠ 0 →
    (let T := (BitVec.ofNat 32 e.p.pc + (f.off.signExtend 32 <<< 2) : Word).toNat
     let F := e.p.nextHeader
     let act := lanesOf e.lanes
     let all := lanesOf e.p.mask
     let tk := act.filter (takes e f)
     (TargetsOk e (tk.map fun l => (l, T, false)) →
       ((∃ l ∈ act, takes e f l = true) → (∃ l ∈ act, takes e f l = false) → (T ≠ F ∨ e.c.endsBody e.e F = true) → e.c.freePaths ≠ []) →
       Goes (.bra f) s e (fun l => if takes e f l then T else F) (stackOf e) ∧
       (PushOk e (all.filter (takes e f)) →
         Goes (.call f) s e (fun l => if takes e f l then T else F)
           (fun l => if l ∈ all.filter (takes e f) then stackOf e l ++ [BitVec.ofNat 32 F] else stackOf e l))) ∧
     (let any := all.any fun l => (e.c.pred f.cpred.toNat).getLsbD l != f.cneg
      TargetsOk e (if any then all.map fun l => (l, T, false) else []) →
       Goes (.brc f) s e (fun _ => if any then T else F) (stackOf e)))

open Sys2Proof Sys2Proof.Machine Sys2Proof.Certificates in
/-- 13 R283, R285, R287: BRX and CALLR send each lane to its own target, CALLR pushing the next header; RET pops each lane's top entry and
sends it there; JMPT sends a lane to its entry of the table, pushing the join offset with its mark, and a lane out of range to the join;
LBRK leaves the innermost loop. Every lane of the path pushes, pops and goes as its leader does under ELECT (13 R290; log 72, DEDUCED). -/
def Obligations.ComputedJumpWordsComplete : Prop :=
  ∀ (s : State) (e : Env), s.issuer = some e → e.lanes ≠ 0 →
    (let F := e.p.nextHeader
     let act := lanesOf e.lanes
     let all := lanesOf e.p.mask
     (∀ a : BitVec 7, Readable e .i32 a → NoDead e e.lanes (srcRegs .i32 a.toNat) →
       (let dest (l : Nat) : Nat := (opnd e a (actor e l)).toNat
        TargetsOk e (act.map fun l => (l, dest l, false)) → RoomFor e (fun l => (dest l, false)) →
        Goes (.brx a) s e dest (stackOf e) ∧
        (PushOk e all → Goes (.callr a) s e dest (fun l => if l ∈ all then stackOf e l ++ [BitVec.ofNat 32 F] else stackOf e l)))) ∧
     ((let top (l : Nat) : Nat := e.c.top (actor e l)
       (∀ l ∈ all, stackOf e l ≠ []) → TargetsOk e (act.map fun l => (l, top l / 4 * 4, nbit (top l) 0)) →
       RoomFor e (fun l => (top l / 4 * 4, nbit (top l) 0)) →
       Goes .ret s e (fun l => top l / 4 * 4) (fun l => if l ∈ all then (stackOf e l).dropLast else stackOf e l))) ∧
     (∀ (a b : BitVec 7) (n j : Word) (tg : Nat → Word), Readable e .i32 a → ScalarReadable e b → NoDead e e.lanes (srcRegs .i32 a.toNat) →
       (let tab := (sopnd e b).toNat
        let idx (l : Nat) : Nat := (opnd e a l).toNat
        let ins := act.filter fun l => decide (idx l < n.toNat)
        let push := all.filter fun l => decide (idx (actor e l) < n.toNat)
        let dest (l : Nat) : Nat × Bool := if idx (actor e l) < n.toNat then ((tg (actor e l)).toNat, false) else (j.toNat, true)
        (e.s.codeWords e.c [tab, tab + 4]).2 = .ok [n, j] → 0 < n.toNat → n.toNat ≤ 256 →
        (((e.s.codeWords e.c [tab, tab + 4]).1).codeWords e.c (ins.map fun l => tab + 8 + 4 * idx l)).2 = .ok (ins.map tg) →
        TargetsOk { e with s := (((e.s.codeWords e.c [tab, tab + 4]).1).codeWords e.c (ins.map fun l => tab + 8 + 4 * idx l)).1 }
          (ins.map (fun l => (l, (tg l).toNat, false)) ++ (act.filter fun l => decide (n.toNat ≤ idx l)).map fun l => (l, j.toNat, true)) →
        RoomFor e dest → PushOk e push →
        Goes (.jmpt a b) s e (fun l => (dest l).1)
          (fun l => if l ∈ push then stackOf e l ++ [BitVec.ofNat 32 (j.toNat / 4 * 4 + 1)] else stackOf e l))) ∧
     (∀ k : LoopLevel, e.c.loops.getLast? = some k →
       Goes .lbrk s e (fun _ => k.fin) (stackOf e)))

open Sys2Proof Sys2Proof.Machine Sys2Proof.Certificates in
/-- 13 R284, R287, R290, 15 R330: where control words trap: RET with a lane of depth 0, and a push at depth 64, raise 0x09 in the lanes
concerned; LBRK with no level open, ENDE without ELECT of its path, ELECT within one and EXIT within one raise 0x01. -/
def Obligations.ControlWordsTrap : Prop :=
  ∀ (s : State) (e : Env), s.issuer = some e →
    ((∃ l, e.p.mask.getLsbD l = true ∧ e.c.depth l = 0) →
      exec .ret s = .next (s.takeTrap e.cid e.e e.p.nextHeader
        (plainReport 0x09 e.p.pc (maskOf ((lanesOf e.p.mask).filter fun l => decide (e.c.depth l = 0)))))) ∧
    (∀ a : BitVec 7, Readable e .i32 a → NoDead e e.lanes (srcRegs .i32 a.toNat) → (∃ l, e.p.mask.getLsbD l = true ∧ 64 ≤ e.c.depth l) →
      exec (.callr a) s = .next (s.takeTrap e.cid e.e e.p.nextHeader
        (plainReport 0x09 e.p.pc (maskOf ((lanesOf e.p.mask).filter fun l => decide (64 ≤ e.c.depth l)))))) ∧
    (e.c.loops = [] → Faults .lbrk s e 0x01) ∧
    ((e.c.leader = none ∨ e.c.leaderPath ≠ e.e) → Faults .ende s e 0x01) ∧
    (∀ k, e.c.leader = some k → Faults .exitW s e 0x01) ∧
    (∀ k, e.c.leader = some k → e.c.leaderPath = e.e → Faults .elect s e 0x01)

open Sys2Proof Sys2Proof.Machine Sys2Proof.Certificates in
/-- 13 R286: LOOP with a count of 0 goes to the end of its body; otherwise it opens a level with that count and the path goes to the body's
first header. A fourth level is fault 0x09; a body end that is no header, or that is outside the enclosing body, is 0x03. -/
def Obligations.LoopWordCompletes : Prop :=
  ∀ (s : State) (e : Env) (a : BitVec 7) (l : BitVec 8), s.issuer = some e → ScalarReadable e a →
    (let n := (sopnd e a).toNat
     let start := e.p.nextHeader
     let fin := start + 4 * (l.toNat + 1)
     let inside : Prop := ∀ k, e.c.loops.getLast? = some k → k.start ≤ start ∧ fin ≤ k.fin
     (3 ≤ e.c.loops.length → Faults (.loop a l) s e 0x09) ∧
     (∀ w, e.c.loops.length < 3 → (e.s.codeWord e.c fin).2 = .ok w → isHeader w = true → inside →
       (∃ t c', exec (.loop a l) s = .next t ∧ OnlyCtxProbed s t e.cid c' ∧ SameBut e.c c' ∧
         (∀ i, e.p.mask.getLsbD i = true → LaneAt c' i (if n = 0 then fin else start)) ∧
         (n ≠ 0 → c'.loops = e.c.loops ++ [⟨n, start, l.toNat⟩]))) ∧
     (∀ w, e.c.loops.length < 3 → (e.s.codeWord e.c fin).2 = .ok w → (isHeader w = false ∨ ¬ inside) →
       exec (.loop a l) s = .next ((e.s.codeWord e.c fin).1.takeTrap e.cid e.e start (plainReport 0x03 e.p.pc e.lanes))))

open Sys2Proof Sys2Proof.Machine Sys2Proof.Certificates in
/-- 13 R288-R290, R296, R297: NOP has no effect; YIELD leaves the active set at its boundary, unless a path of the group is held at a matrix meeting (11 R248); ELECT makes the lowest lane of its path the leader
and ENDE ends that; ENTER and LEAVE push and pop the region stack; SHRINK discards the top windows and GROW adds windows that are free, which read as zero.
EXIT ends the lanes of its path.
13 R297: GROW by 0, by more than 8 or past eight windows, and SHRINK by 0, by more than 8 or to fewer than one, raise 0x02; a GROW whose windows
are not free waits with stall reason wait-grow. -/
def Obligations.GroupStateAndWindowWordsComplete : Prop :=
  (
  ∀ (s : State) (e : Env), s.issuer = some e →
    (∃ t c', exec .nop s = .next t ∧ OnlyCtx s t e.cid c' ∧ SameBut e.c c' ∧ NoLatch e c' 1) ∧
    (∃ t c', OnlyCtx s t e.cid c' ∧ c'.stall = 8 ∧ SameBut { e.c with place := c'.place, since := c'.since } c' ∧ NoLatch e c' 1 ∧
      if e.c.place = .active ∧ (∀ k ∈ c'.validPaths, (c'.path k).wait ≠ .matrix) then
        exec .yield s = .next (t.trace e.cid 8 8) ∧ c'.place = .pending ∧ c'.since = e.now
      else exec .yield s = .next t ∧ c'.place = e.c.place ∧ c'.since = e.c.since) ∧
    (e.c.leader = none → ∃ t c' low, exec .elect s = .next t ∧ OnlyCtx s t e.cid c' ∧ NoLatch e c' 1 ∧
      (e.p.mask ≠ 0 → e.p.mask.getLsbD low = true ∧ ∀ j, j < low → e.p.mask.getLsbD j = false) ∧
      SameBut { e.c with leader := some low } c') ∧
    (∀ k, e.c.leader = some k → e.c.leaderPath = e.e → ∃ t c', exec .ende s = .next t ∧ OnlyCtx s t e.cid c' ∧ NoLatch e c' 1 ∧
      SameBut { e.c with leader := none } c') ∧
    (∀ i : BitVec 16, ∃ t c', exec (.enter i) s = .next (State.regionStop (t.trace e.cid 6 (i.toNat + 2 ^ 16 + c'.rdepth * 2 ^ 17)) e.cid e.e i.toNat) ∧
      OnlyCtx s t e.cid c' ∧ NoLatch e c' 1 ∧
      (e.c.rdepth < 8 → mget c'.region e.c.rdepth 0 = i) ∧ (∀ k, (8 ≤ e.c.rdepth ∨ k ≠ e.c.rdepth) → mget c'.region k 0 = mget e.c.region k 0) ∧
      SameBut { e.c with region := c'.region, rdepth := min (e.c.rdepth + 1) 255 } c') ∧
    (e.c.rdepth = 0 → ∃ t c', exec .leave s = .next t ∧ OnlyCtx s t e.cid c' ∧ NoLatch e c' 1 ∧ SameBut e.c c') ∧
    (0 < e.c.rdepth → ∃ t c' top, exec .leave s = .next (State.regionStop (t.trace e.cid 6 (top + c'.rdepth * 2 ^ 17)) e.cid e.e top) ∧
      OnlyCtx s t e.cid c' ∧ NoLatch e c' 1 ∧ top = (if e.c.rdepth ≤ 8 then (mget e.c.region (e.c.rdepth - 1) 0).toNat else 0) ∧
      SameBut { e.c with rdepth := e.c.rdepth - 1 } c') ∧
    (∀ n : BitVec 4, 1 ≤ n.toNat → n.toNat ≤ 8 → n.toNat < e.c.walloc →
      ∃ t c', exec (.shrink n) s = .next t ∧ OnlyCtx s t e.cid c' ∧ NoLatch e c' 1 ∧ c'.walloc = e.c.walloc - n.toNat ∧
        (∀ r l, l < 64 → c'.v r l = if r < 8 * (e.c.walloc - n.toNat) then e.c.v r l else 0) ∧
        SameBut { e.c with vregs := c'.vregs, dead := c'.dead, walloc := c'.walloc } c') ∧
    (∀ n : BitVec 4, 1 ≤ n.toNat → n.toNat ≤ 8 → e.c.walloc + n.toNat ≤ 8 → n.toNat * e.c.gran ≤ s.freeG e.c.gc →
      ∃ t c', exec (.grow n) s = .next t ∧ OnlyCtx s t e.cid c' ∧ NoLatch e c' 1 ∧ c'.walloc = e.c.walloc + n.toNat ∧
        (∀ r l, l < 64 → c'.v r l = if 8 * e.c.walloc ≤ r ∧ r < 8 * (e.c.walloc + n.toNat) then 0 else e.c.v r l) ∧
        SameBut { e.c with vregs := c'.vregs, dead := c'.dead, walloc := c'.walloc } c') ∧
    (e.c.leader = none → ∃ u c', OnlyCtx s u e.cid c' ∧ c'.lanes = e.c.lanes &&& ~~~e.p.mask ∧
      SameBut { e.c with lanes := c'.lanes, ext := c'.ext } c' ∧
      (c'.path e.e).v = false ∧
      exec .exitW s = .next (if (u.releaseBars e.c.team).groupLanes e.c.team e.c.gidx = 0
        then (u.releaseBars e.c.team).quadMeet e.c.team (e.c.gidx / 4) else u.releaseBars e.c.team))) ∧
  (
  ∀ (s : State) (e : Env) (n : BitVec 4), s.issuer = some e →
    ((n = 0 ∨ 8 < n.toNat ∨ 8 < e.c.walloc + n.toNat) → Faults (.grow n) s e 0x02) ∧
    ((n = 0 ∨ 8 < n.toNat ∨ e.c.walloc ≤ n.toNat) → Faults (.shrink n) s e 0x02) ∧
    (1 ≤ n.toNat → n.toNat ≤ 8 → e.c.walloc + n.toNat ≤ 8 → s.freeG e.c.gc < n.toNat * e.c.gran →
      ∃ t c', exec (.grow n) s = .next (t.trace e.cid 8 7) ∧ OnlyCtx s t e.cid c' ∧ c'.grow = n.toNat ∧ c'.stall = 7 ∧ c'.walloc = e.c.walloc ∧
        (e.c.place = .active → c'.place = .pending)))
namespace Sys2Proof.Certificates

open Sys2Proof Sys2Proof.Machine

/-- The lanes of a memory word with their addresses, lowest lane first; a run that stops of a chain began keeps the address read at the first. -/
def asked (e : Env) (f : FmtM) : List (Nat × Nat) := (lanesOf (e.lanes &&& ~~~e.c.chainDone)).map fun l => (l, e.runAddr f l)

/-- The wait slot of the clause. -/
def setSlot (e : Env) : Nat := (e.p.clause.map (·.set)).getD 0

/-- Is this the path of a visit chain under way, its word one with the chain's first stop (07 R151)? -/
def ownChain (e : Env) : Bool := !e.c.chain.isEmpty && decide (e.c.chainEntry = e.e)

/-- The context as its orders see it: a chain's word does not wait for its own earlier stops. -/
def seen (e : Env) : Ctx := if ownChain e then e.c.ownChain else e.c

/-- Nothing holds a memory word at issue: no acquire of the group still to perform, for a release every earlier access of the group
performed and every post acknowledged (08 R164, R165), for a long-latency word a wait slot with room (06 R122), and for a migrating word no
kept posts and no departure under way (07 R155). -/
def Unheld (e : Env) (f : FmtM) (long migrates : Bool) : Prop :=
  (ownChain e = false → e.s.acquiring e.cid = false) ∧ (isRelease f.order = true → e.s.released e.cid (seen e) = true) ∧
    (long = true → (ownChain e && e.c.chainBegun) = false → mget e.c.wslot (setSlot e) 0 < 255) ∧
    (migrates = true → f.space ≠ 2 → (e.c.visits.any fun v => v.entry = e.e) = false ∧ e.c.leaving = none)

/-- Every lane of the word translates, is permitted, and performs where the group stands (03 R59, R60; 09 R180): `u` is the state with
the lookup buffers the probes filled, `hs` the home of every sector. -/
def AllHere (e : Env) (f : FmtM) (w : Want) (sectors : Nat) (u : State) (hs : List (Nat × Home)) : Prop :=
  e.s.probeLanes e.c w f.space.toNat (laneSectors (asked e f) sectors e.c.chainSec) = (u, hs, []) ∧ hs ≠ [] ∧
    (∃ h, e.c.atHome h = true ∧ ∀ x ∈ hs, x.2.spot = h) ∧ u.absentLines hs w.n = [] ∧ (u.core e.c.gc).preds = []

/-- A release by a group one of whose posts was lost takes the loss: 0x42 stands in FCAUSE and the mark is gone (05 R100, 08 R164). -/
def taken (rel : Bool) (c : Ctx) : Ctx :=
  { c with
    err42 := c.err42 || (rel && c.lost)
    fcause := if (rel && c.lost) = true then c.fcause ||| 0x20 else c.fcause
    lost := c.lost && !rel }

/-- The context with no chain under way. -/
def noChain (c : Ctx) : Ctx :=
  { c with
    chain := []
    chainDone := 0
    chainSec := []
    chainAddr := []
    chainAcq := false }

/-- Which sector of its lane's run the `i`-th of `hs` is: those that earlier stops of a chain performed come before it (09 R190). -/
def sectorNo (e : Env) (hs : List (Nat × Home)) (i : Nat) (x : Nat × Home) : Nat :=
  mget e.c.chainSec x.1 0 + ((hs.take i).filter fun y => y.1 = x.1).length

/-- The word issues: one access of the group joins the accesses under way, with an element for every sector of every lane; where the word is of
long latency the SET slot counts it (once for all stops of a visit chain), and the path steps on. Memory, every register and every other
context are unchanged; the lookup buffers may fill. -/
def Issues (i : Instr) (s : State) (e : Env) (f : FmtM) (kind : AccKind) (sz n reg : Nat) (long rel : Bool) (dst : List Nat)
    (data cmp : Nat → Nat) (hs : List (Nat × Home)) : Prop :=
  ∃ t c', exec i s = .next t ∧ (∀ k, k ≠ e.cid → t.ctx? k = s.ctx? k) ∧ t.ctx? e.cid = some c' ∧
    t.accs = s.accs ++ [⟨s.nextId, e.cid, e.e, kind, sz,
      hs.zipIdx.map fun x =>
        let l := x.1.1
        let k := sectorNo e hs x.2 x.1
        ⟨l, x.1.2.ref, n, reg + 8 * k, data l / 2 ^ (256 * k) % 2 ^ (8 * n), cmp l, if f.space = 0 then e.runAddr f l + 1 + 32 * k else 0, x.1.2.leaf, false⟩,
      if long then some (setSlot e) else none, (f.order = 1 || f.order = 3), none, false, e.c.reg0⟩] ∧
    { t with ctxs := s.ctxs, stks := s.stks, cores := s.cores, accs := s.accs, nextId := s.nextId } = s ∧
    (∀ a, t.byte a = s.byte a) ∧
    (∀ k, mget c'.wslot k 0 = mget e.c.wslot k 0 + if k = setSlot e ∧ long = true ∧ e.c.chainBegun = false then 1 else 0) ∧
    SameBut (taken rel (noChain { e.c with
      wslot := c'.wslot
      chainEntry := e.e
      seen := none })) c' ∧
    (∀ k, e.p.clause = some k → k.words.drop 1 ≠ [] →
      (c'.path e.e).pc = e.p.pc + 4 ∧ (c'.path e.e).mask = e.p.mask ∧
        (c'.path e.e).clause = some { k with words := k.words.drop 1, wait := 0, longDst := k.longDst ++ dst.map fun r => (r, s.nextId) })

end Sys2Proof.Certificates

open Sys2Proof Sys2Proof.Machine Sys2Proof.Certificates in
/-- 09 R178-R185, R190, 08 R158, 06 R122: LD, ST, ATOM, CAS, LDT and STT issue where every lane's data is homed with the group: one element per
lane of the size SZOP gives (an LDT or STT run: 32 bytes for each sector), the registers DATA names as destination or source. Performing
is a later event of its own. -/
def Obligations.MemoryWordsIssueAtTheirHome : Prop :=
  ∀ (s u : State) (e : Env) (f : FmtM) (hs : List (Nat × Home)), s.issuer = some e → e.addrDefects f = [] →
    (let sz := f.szop.toNat
     let d := f.data.toNat
     let n := ldBytes sz
     let rel := isRelease f.order
     let areg := srcRegs (addrPos f.space.toNat) f.addr.toNat
     (e.runDefects d (ldRegs sz) (ldRegs sz) = [] → NoDead e e.lanes areg → Unheld e f true true → AllHere e f ⟨1, n, true, regSize n, false⟩ 1 u hs →
       Issues (.ld f) s e f .load sz n d true rel (run d (ldRegs sz)) (fun _ => 0) (fun _ => 0) hs) ∧
     (let door := hs.any fun x => isDoor x.2.ref n
      e.dataDefects d n = [] → NoDead e e.lanes (areg ++ stRegs d (ldRegs sz)) → Unheld e f false true →
       AllHere e f ⟨2, n, true, regSize n, false⟩ 1 u hs → (door = true → s.released e.cid e.c.ownChain = true) →
       Issues (.st f) s e f .store sz n d false (rel || door) [] (e.dataVal d n) (fun _ => 0) hs) ∧
     (e.runDefects d (atomRegs sz) (atomRegs sz) = [] → NoDead e e.lanes (areg ++ run d (atomRegs sz)) → Unheld e f true true →
       AllHere e f ⟨3, 4 * atomRegs sz, false, false, false⟩ 1 u hs →
       Issues (.atom f) s e f .atom sz (4 * atomRegs sz) d true rel (run d (atomRegs sz)) (fun l => e.c.runVal d l (atomRegs sz)) (fun _ => 0) hs) ∧
     (let k := if f.szop = 5 then 2 else 1
      e.runDefects d (2 * k) (2 * k) = [] → NoDead e e.lanes (areg ++ run d (2 * k)) → Unheld e f true true →
       AllHere e f ⟨3, 4 * k, false, false, false⟩ 1 u hs →
       Issues (.cas f) s e f .cas sz (4 * k) d true rel (run d k) (fun l => e.c.runVal (d + k) l k) (fun l => e.c.runVal d l k) hs) ∧
     (let k := ldtRegs sz
      e.runDefects d k 8 = [] →
       (NoDead e e.lanes areg → Unheld e f true true → AllHere e f ⟨1, 32, true, false, false⟩ (2 ^ sz) u hs →
         Issues (.ldt f) s e f .load 16 32 d true rel (run d k) (fun _ => 0) (fun _ => 0) hs) ∧
       (NoDead e e.lanes (areg ++ run d k) → Unheld e f false true → AllHere e f ⟨2, 32, true, false, false⟩ (2 ^ sz) u hs →
         Issues (.stt f) s e f .store 16 32 d false rel [] (fun l => e.c.runVal d l k) (fun _ => 0) hs)))

open Sys2Proof Sys2Proof.Machine Sys2Proof.Certificates in
/-- 09 R180, R188, R189: MIGRATE and MIGRATE.ONE where the group already stands at every home (for .ONE: at the home of the lowest lane), and in stack
space, only step on; where every lane's home is one other place the group leaves for it with the word still to finish; HOME
writes the home word of each lane's address and neither migrates nor faults on translation.
07 R153, R155, 09 R186, R187: POST sends each lane's operation to its home in ascending lane order and adds their number to ANCHOR; under
VISIT it is kept for the end of the clause and ANCHOR stays. -/
def Obligations.MigrateHomeAndPostWordsComplete : Prop :=
  (
  ∀ (s u : State) (e : Env) (f : FmtM) (hs : List (Nat × Home)), s.issuer = some e → e.addrDefects f = [] →
    NoDead e e.lanes (srcRegs (addrPos f.space.toNat) f.addr.toNat) →
    (let w : Want := ⟨0, 0, true, true, false⟩
     let rel := isRelease f.order
     let past (i : Instr) (c : Ctx) : Prop := ∃ t c', exec i s = .next t ∧ OnlyCtxProbed s t e.cid c' ∧ NoLatch e c' 1 ∧
       SameBut (taken rel c) c'
     let goes (i : Instr) (h : Nat × Option Nat) : Prop := ∃ t c', exec i s = .next t ∧ OnlyCtxProbed s t e.cid c' ∧
       c'.depart = some ⟨.access, e.e, h.1, h.2⟩ ∧ c'.place = .pending ∧ c'.paths = e.c.paths
     (f.space = 2 → Unheld e f false false → past (.migrate f) e.c ∧ past (.migrateOne f) e.c) ∧
     (f.space ≠ 2 → Unheld e f false true → hs ≠ [] → e.s.probeLanes e.c w f.space.toNat (asked e f) = (u, hs, []) →
       (∀ h, (∀ x ∈ hs, x.2.spot = h) → e.c.atHome h = true → past (.migrate f) (noChain e.c)) ∧
       (∀ x, hs.head? = some x → e.c.atHome x.2.spot = true → past (.migrateOne f) (noChain e.c)) ∧
       (e.c.chain = [] → e.c.place = .active → (∀ k ∈ e.c.validPaths, (e.c.path k).wait ≠ .matrix) → rel = false →
         (∀ h, (∀ x ∈ hs, x.2.spot = h) → e.c.atHome h = false → goes (.migrate f) h) ∧
         (∀ x, hs.head? = some x → e.c.atHome x.2.spot = false → goes (.migrateOne f) x.2.spot))) ∧
     (e.dstDefects false f.data.toNat = [] → Unheld e f false false →
       (let ws := (e.s.homeLanes e.c f.space.toNat ((lanesOf e.lanes).map fun l => (l, e.addr f l))).2
        ∃ t c', exec (.home f) s = .next t ∧ OnlyCtxProbed s t e.cid c' ∧ NoLatch e c' 1 ∧
          (∀ x ∈ ws, c'.v f.data.toNat x.1 = BitVec.ofNat 32 x.2) ∧ ws.map (·.1) = lanesOf e.lanes ∧
          (∀ r l, l < 64 → (r ≠ f.data.toNat ∨ e.lanes.getLsbD l = false) → c'.v r l = e.c.v r l) ∧
          SameBut (taken rel { e.c with vregs := c'.vregs, dead := c'.dead }) c')))) ∧
  (
  ∀ (s : State) (e : Env) (f : FmtM), s.issuer = some e → e.addrDefects f = [] → Unheld e f false false →
    (let op := f.szop.toNat
     let n := postBytes op
     let d := f.data.toNat
     let src := gsOf e.c.gc
     let ls := (lanesOf e.lanes).map fun l => (l, e.addr f l)
     e.dataDefects d n = [] → NoDead e e.lanes (srcRegs (addrPos f.space.toNat) f.addr.toNat ++ stRegs d (if n = 8 then 2 else 1)) →
     (∀ u hs, e.c.visit = false → e.s.probeLanes e.c ⟨4, n, postStores op, false, true⟩ f.space.toNat ls = (u, hs, []) →
       (u.core e.c.gc).preds = [] → (∀ x ∈ hs, u.reaches src x.2.gs = true ∧ u.canSend src x.2.gs (planeOf src) = true) →
       ∃ t c', exec (.post f) s = .next t ∧ t.ctx? e.cid = some c' ∧ (∀ k, k ≠ e.cid → t.ctx? k = s.ctx? k) ∧ (∀ a, t.byte a = s.byte a) ∧
         { t with ctxs := s.ctxs, stks := s.stks, cores := s.cores, pkgs := s.pkgs, chan := s.chan, nextId := s.nextId, freeCount := s.freeCount } = s ∧
         t.chan = s.chan ++ hs.zipIdx.map (fun x => ⟨s.nextId + x.2, src, x.1.2.gs,
           .post ⟨e.c.team, e.c.gidx, e.c.part, e.c.splitGen, e.c.launch, e.c.pslot, e.c.reg0, x.1.1, op, x.1.2.ref, e.dataVal d n x.1.1,
             if f.space = 1 then e.addr f x.1.1 + 1 else 0, if f.space = 0 then e.addr f x.1.1 + 1 else 0, x.1.2.leaf⟩, none, false, false, false⟩) ∧
         SameBut (taken (isRelease f.order) { e.c with anchor := e.c.anchor + hs.length }) c' ∧ NoLatch e c' 1) ∧
     (e.c.visit = true → ∃ t c', exec (.post f) s = .next t ∧ OnlyCtx s t e.cid c' ∧ SameBut (taken (isRelease f.order) e.c) c' ∧ NoLatch e c' 1 ∧
       (∀ k, e.p.clause = some k → k.words.drop 1 ≠ [] →
         c'.visits = e.c.visits ++ [⟨e.e, e.p.pc, f, (lanesOf e.lanes).map fun l => (l, e.addr f l, e.dataVal d n l), none, false⟩]))))
namespace Sys2Proof.Certificates

open Sys2Proof Sys2Proof.Machine

/-- Nothing holds an engine word at issue: no acquire of the group and no scratchpad access of it still to perform (08 R165, R175), a
wait slot with room for a long-latency word (06 R122), and a free scoreboard entry (09 R192). -/
def EngineFree (e : Env) (long : Bool) : Prop :=
  e.s.acquiring e.cid = false ∧ e.s.scratchPending e.cid = false ∧ (long = true → mget e.c.wslot (setSlot e) 0 < 255) ∧
    e.s.entries e.c.gc < 64

/-- The command a word sends; it is born stopped where the halt line has reached its engine (15 R336). -/
def sent (s : State) (e : Env) (long : Bool) (kind : CmdKind) (reads writes : List Range) : Cmd :=
  { id := s.nextId, gc := e.c.gc, team := e.c.team, gidx := e.c.gidx, ctx := e.cid, lane := e.issuingLane, pc := e.p.pc,
    slot := if long then some (setSlot e) else none, kind := kind, entry := true, started := false, reads := reads, writes := writes,
    sectors := [], flags := 0, capture := kind.captures, saved := false,
    stop := s.bornStop e.c.gc e.c.launch kind, region := e.c.reg0, also := [], readyAt := none, seen := none }

/-- What a command joining the pod changes beside contexts and the list of commands: nothing, unless it is born stopped; then the record its
engine gets of that (15 R336). -/
def OnlyJoined (s t : State) (cmd : Cmd) : Prop :=
  (cmd.stop = none → { t with stks := s.stks, mem := s.mem, poison := s.poison } = t) ∧
    { t with ctxs := s.ctxs, cmds := s.cmds, teams := s.teams, absent := s.absent, nextId := s.nextId, stks := s.stks, mem := s.mem, poison := s.poison } = s

/-- No predicate of the issuer's core or of a home is armed. -/
def Unwatched (s : State) (e : Env) : Prop := (s.core e.c.gc).preds = [] ∧ ∀ gs, (s.stk gs).preds = []

/-- The path is past a word of `nw` words whose later write of the registers `dst` is of long latency. -/
def Past (e : Env) (c' : Ctx) (nw : Nat) (dst : List Nat) : Prop :=
  ∀ k, e.p.clause = some k → k.words.drop nw ≠ [] →
    (c'.path e.e).pc = e.p.pc + 4 * nw ∧ (c'.path e.e).mask = e.p.mask ∧ (c'.path e.e).latches = (none :: e.p.latches).take 8 ∧
      (c'.path e.e).clause = some { k with words := k.words.drop nw, wait := 0, longDst := k.longDst ++ dst.map fun r => (r, e.s.nextId) }

/-- The SET slot counts one more result. -/
def Counted (e : Env) (c' : Ctx) : Prop := ∀ k, mget c'.wslot k 0 = mget e.c.wslot k 0 + if k = setSlot e then 1 else 0

/-- A long-latency engine word issues: one command joins those of the pod, not yet started, the SET slot counts it, `scnt` draws are
taken and the path steps on. No register, no tile and no other context changes, and no byte of memory unless the command is born stopped. -/
def SendsLong (i : Instr) (s : State) (e : Env) (nw : Nat) (dst : List Nat) (scnt : Nat) (kind : CmdKind) (reads writes : List Range) : Prop :=
  ∃ t c', exec i s = .next t ∧ t.ctx? e.cid = some c' ∧ (∀ k, k ≠ e.cid → t.ctx? k = s.ctx? k) ∧
    t.cmds = s.cmds ++ [sent s e true kind reads writes] ∧ OnlyJoined s t (sent s e true kind reads writes) ∧ t.teams = s.teams ∧ t.absent = s.absent ∧
    Counted e c' ∧ SameBut { e.c with wslot := c'.wslot, scnt := e.c.scnt + BitVec.ofNat 32 scnt } c' ∧ Past e c' nw dst

/-- Lines of a team's scratchpad that destination intervals meet within its allocation (03 R63). -/
def teamLines (tm : Team) (rs : List (Nat × Nat)) : List Nat :=
  ((rs.flatMap fun r => lineAddrs r.1 (min r.2 (tm.scratch - r.1))).map tm.lineKey).eraseDups

/-- A copy word issues (09 R195, R204): its command joins those of the pod with the operands Table 9-7 gives its form; the open batch of the
issuing lane counts it; the scratchpad lines it is to write become absent, no others: in the team space those its destination
meets (of a SCAT, by its list as it stands: log 82, DESIGN CHOICE); no register and no byte of memory changes. -/
def SendsCopy (i : Instr) (s : State) (e : Env) (tm : Team) (nw : Nat) (op : CopyOp) : Prop :=
  let key := batchKey e.c.gidx e.issuingLane
  let b := mget tm.batches key Batch.empty
  let idx := if op.listOk tm then s.indices tm op else []
  ∃ t c' cmd tm' b' lines, exec i s = .next t ∧ t.ctx? e.cid = some c' ∧ (∀ k, k ≠ e.cid → t.ctx? k = s.ctx? k) ∧
    (op.dstSp = 1 → lines = teamLines tm (op.spans idx)) ∧ (op.dstSp ≠ 0 → op.dstSp ≠ 1 → lines = []) ∧
    t.cmds = s.cmds ++ [cmd] ∧ cmd = sent s e false
      (.copy { op with lines := lines, stripe := (s.pkg (pkgOf (gsOf e.c.gc))).stripe }) cmd.reads cmd.writes ∧
    OnlyJoined s t cmd ∧
    (∀ k, mget t.absent k false = (mget s.absent k false || lines.contains k)) ∧
    t.team? e.c.team = some tm' ∧ (∀ k, k ≠ e.c.team → t.team? k = s.team? k) ∧ { tm' with batches := tm.batches } = tm ∧
    mget tm'.batches key Batch.empty = b' ∧ (∀ k, k ≠ key → mget tm'.batches k Batch.empty = mget tm.batches k Batch.empty) ∧
    b'.opn = b.opn + 1 ∧ b'.last = b.last ∧ b'.done = b.done ∧
    (∀ k, mget b'.pend k 0 = mget b.pend k 0 + if k = 0 then 1 else 0) ∧
    SameBut e.c c' ∧ Past e c' nw []

/-- The state in which a collective of the issuer waits for its quad. -/
def atMeeting (s : State) (e : Env) : State :=
  s.setCtx e.cid { e.c.setPath e.e { e.p with wait := .matrix, lastIssue := e.now } with
    stall := 6
    lastIssue := e.now }

/-- A command without the cycle its step came to be ready. -/
def untimed (c : Cmd) : Cmd := { c with readyAt := none }

/-- Groups of the issuer's quad that have not exited, and the collectives that wait there. -/
def liveOf (s : State) (e : Env) : List Nat :=
  (List.range 4).filter fun q => (atMeeting s e).groupLanes e.c.team (4 * (e.c.gidx / 4) + q) ≠ 0
def bidsOf (s : State) (e : Env) : List Bid :=
  (liveOf s e).filterMap fun q => ((atMeeting s e).waiting e.c.team (4 * (e.c.gidx / 4) + q)).bind fun x => x.p.nextInstr.bind x.bid

/-- A collective arrives (11 R248, R250): it waits until every live group of its quad waits at one; then, where the words agree, they issue
together, as one command for the quad, each group's slot counting it; where they do not, every group takes 0x06. None of the words may have
been held meanwhile. -/
def Meets (i : Instr) (s : State) (e : Env) : Prop :=
  let bids := bidsOf s e
  let w (l : List Bid) : Option Nat := agreed ((l.filter (·.part.votes)).map (·.fmt))
  (bids.length ≠ (liveOf s e).length → exec i s = .next (atMeeting s e)) ∧
  (∀ tm b rest, s.team? e.c.team = some tm → bids = b :: rest → bids.length = (liveOf s e).length →
    (let same := bids.all (fun x => x.loop = b.loop) && (w bids).isSome && (!b.loop || bids.all fun x => x.n = b.n)
     let parts := (List.range 4).map fun q =>
       ((bids.find? fun x => x.part.q = q).map (·.part)).getD (gonePart q (4 * (e.c.gidx / 4) + q))
     let fmt := BitVec.ofNat 32 (((bids.find? (·.part.votes)).map (·.fmt)).getD b.fmt)
     (∀ x ∈ bids, (atMeeting s e).bidReady x = true) →
     (same = false → exec i s = .next (bids.foldl State.clash (atMeeting s e))) ∧
     (same = true → ∃ t cmd, exec i s = .next t ∧ t.cmds.map untimed = (s.cmds ++ [cmd]).map untimed ∧ cmd.entry = true ∧ cmd.started = false ∧ cmd.team = e.c.team ∧
       cmd.gc = (tm.tileAt b.part.gidx 0).1 ∧
       (b.loop = false → cmd.kind = .mma fmt parts) ∧
       (b.loop = true → cmd.kind = .mloop fmt b.n 0 (parts.map fun p => { p with dwords := if p.live then s.teamWords tm p.desc 16 else [] })) ∧
       OnlyJoined s t cmd ∧ t.teams = s.teams ∧ t.absent = s.absent ∧
       (∀ k, (∀ x ∈ bids, k ≠ x.cid) → t.ctx? k = (atMeeting s e).ctx? k) ∧
       (∀ x ∈ bids, ∀ c0, (atMeeting s e).ctx? x.cid = some c0 → ∃ c', t.ctx? x.cid = some c' ∧
         (∀ k, mget c'.wslot k 0 = mget c0.wslot k 0 + if k = x.part.slot then 1 else 0) ∧
         SameBut { c0 with wslot := c'.wslot, coll := c0.coll + 1 } c'))))

end Sys2Proof.Certificates

open Sys2Proof Sys2Proof.Machine Sys2Proof.Certificates in
/-- 09 R194-R204: CPY, CPYI, CPYS, GATH, SCAT and FILL issue with bases, lengths, rows and lists from the scalar registers Table 9-7 names (CPY's
descriptor as its predicates see it: armed ones are a statement of their own).
09 R195, R203: SEAL numbers the open copies of its lane as batch LAST + 1 and writes the number; a batch of none is done at once. WAITB passes
once DONE has reached its operand, waits before, and is 0x02 above LAST. -/
def Obligations.CopyAndBatchWordsComplete : Prop :=
  (
  ∀ (s : State) (e : Env) (f : FmtE) (tm : Team), s.issuer = some e → EngineFree e false → s.team? e.c.team = some tm → tm.saved = none →
    (let v (k : BitVec 5) : Nat := e.sval k
     let even (k : BitVec 5) : Prop := k.toNat % 2 = 0
     (even f.ea → SendsCopy (.cpys f) s e tm 1 { blankCopy .cpys with
       dstSp := 4, src := e.spair f.ea.toNat, dst := v f.eb, bytes := v f.ec, rows := v f.ed, pitch := v f.ee } ∧
      SendsCopy (.fill f) s e tm 1 { blankCopy .fill with
       dstSp := v f.ed % 4, dst := if v f.ed % 4 = 0 then e.spair f.ea.toNat else v f.ea, bytes := v f.eb, pattern := e.sreg f.ec.toNat,
       pitch := v f.ed }) ∧
     (∀ c : CopyCtl,
       (let at_ (sp : BitVec 2) (k : BitVec 5) : Nat := if sp = 0 then e.spair k.toNat else v k
        (Unwatched s e → even f.eb → even f.ec → SendsCopy (.cpy f c) s e tm 2 { blankCopy .cpy with
          srcSp := c.src.toNat, dstSp := c.dst.toNat, src := at_ c.src f.eb, dst := at_ c.dst f.ec, list := v f.ea, ord := c.ord,
          desc := s.teamWords tm (v f.ea) 32 }) ∧
        (even f.ea → even f.eb → SendsCopy (.cpyi f c) s e tm 2 { blankCopy .cpyi with
          srcSp := c.src.toNat, dstSp := c.dst.toNat, src := at_ c.src f.ea, dst := at_ c.dst f.eb, bytes := v f.ec, ord := c.ord }))) ∧
     (∀ c : GathCtl,
       (let at_ (k : BitVec 5) : Nat := if c.far = 0 then e.spair k.toNat else v k
        (even f.ea → SendsCopy (.gath f c) s e tm 2 { blankCopy .gath with
          srcSp := c.far.toNat, dstSp := c.near.toNat, src := at_ f.ea, dst := v f.ed, list := v f.eb, bytes := v f.ec, rows := v f.ee,
          idx16 := c.idx16, ord := c.ord }) ∧
        (even f.ed → SendsCopy (.scat f c) s e tm 2 { blankCopy .scat with
          srcSp := c.near.toNat, dstSp := c.far.toNat, src := v f.ea, dst := at_ f.ed, list := v f.eb, bytes := v f.ec, rows := v f.ee,
          idx16 := c.idx16, ord := c.ord }))))) ∧
  (
  ∀ (s : State) (e : Env) (f : FmtE) (tm : Team), s.issuer = some e → s.team? e.c.team = some tm → s.acquiring e.cid = false →
    (let key := batchKey e.c.gidx e.issuingLane
     let b := mget tm.batches key Batch.empty
     let n := (e.sreg f.ea.toNat).toNat
     (b.last - b.done < 15 → ∃ t c' tm', exec (.seal f) s = .next t ∧ t.ctx? e.cid = some c' ∧ (∀ k, k ≠ e.cid → t.ctx? k = s.ctx? k) ∧
       t.team? e.c.team = some tm' ∧ { tm' with batches := tm.batches } = tm ∧
       { t with ctxs := s.ctxs, cmds := s.cmds, teams := s.teams } = s ∧
       (∀ k, c'.sreg k = if k = f.ea.toNat then BitVec.ofNat 32 (b.last + 1) else e.c.sreg k) ∧
       SameBut { e.c with sregs := c'.sregs } c' ∧ NoLatch e c' 1 ∧
       (let b' := mget tm'.batches key Batch.empty
        b'.opn = 0 ∧ b'.last = b.last + 1 ∧ (b.done = b.last → b'.done = if mget b.pend 0 0 = 0 then b.last + 1 else b.last))) ∧
     (15 ≤ b.last - b.done → ∃ t, exec (.seal f) s = .next t ∧ OnlyCtx s t e.cid { e.c with stall := 4 }) ∧
     (b.last < n → Faults (.waitb f) s e 0x02) ∧
     (n ≤ b.last → n ≤ b.done → ∃ t c', exec (.waitb f) s = .next t ∧ OnlyCtx s t e.cid c' ∧ SameBut e.c c' ∧ NoLatch e c' 1) ∧
     (n ≤ b.last → b.done < n → ∃ t, exec (.waitb f) s = .next t ∧ OnlyCtx s t e.cid { e.c with stall := 4 })))

open Sys2Proof Sys2Proof.Machine Sys2Proof.Certificates in
/-- 11 R255-R262: MLD, MLDT, MST, MVACC, MACCV, MZERO and MSCL issue in a kernel with .quad: operands from the scalar registers, the part of
the tile or the row factors read at issue; that a stochastic MST counts its 1,024 draws at issue is the model's choice (log 26). -/
def Obligations.TileWordsIssue : Prop :=
  ∀ (s : State) (e : Env) (tm : Team), s.issuer = some e → EngineFree e true → s.team? e.c.team = some tm → e.quadDefect = [] →
    (let v (k : BitVec 5) : Nat := e.sval k
     let tile (k : Nat) : Nat := (tm.tileAt e.c.gidx k).2
     let tileIf (k : Nat) : List Range := if k < 8 then [tileRange (tile k)] else []
     (∀ f : FmtE, (let foot (tr : Bool) : Nat × Nat := mldFoot tr (v f.eb) (v f.ec) (v f.ed)
       SendsLong (.mld f) s e 1 [] 0 (.tile (.mld false (v f.ea) (v f.eb) (v f.ec) (v f.ed))) [tm.range (foot false).1 (foot false).2] (tileIf (v f.ea)) ∧
       SendsLong (.mldt f) s e 1 [] 0 (.tile (.mld true (v f.ea) (v f.eb) (v f.ec) (v f.ed))) [tm.range (foot true).1 (foot true).2] (tileIf (v f.ea)))) ∧
     (∀ (f : FmtE) (c : MstCtl), (c.space = 0 → f.eb.toNat % 2 = 0) → s.captures e.c.gc < 16 →
       (let dst := if c.space = 0 then e.spair f.eb.toNat else v f.eb
        ∃ reads writes, SendsLong (.mst f c) s e 2 [] (if c.rnd = 5 then 1024 else 0)
          (.mst c (v f.ea) dst (v f.ec) (v f.ed) (e.sreg f.ee.toNat) e.c.seed e.c.scnt) reads writes)) ∧
     (∀ (f : FmtA) (x : FmtX), f.d.toNat < 8 → e.tileRunDefects f.a.toNat (partRegs e.c.width) = [] →
       NoDead e (e.active f) (run f.a.toNat (partRegs e.c.width)) →
       SendsLong (.mvacc f x) s e 2 [] 0 (.tile (.mvacc (tile f.d.toNat) (x.sub.toNat / 2 % 4)
         ((partElems e.c.width (x.sub.toNat / 2 % 4) (e.active f)).map fun i => (i.1, e.c.v (f.a.toNat + i.2.2) i.2.1)))) [] [tileRange (tile f.d.toNat)]) ∧
     (∀ (f : FmtA) (x : FmtX), e.tileRunDefects f.d.toNat (partRegs e.c.width) = [] →
       SendsLong (.maccv f x) s e 2 (run f.d.toNat (partRegs e.c.width)) 0
         (.tile (.maccv (tile f.a.toNat) (x.sub.toNat / 2 % 4) f.d.toNat (e.active f))) [tileRange (tile f.a.toNat)] []) ∧
     (∀ (f : FmtA) (w : Nat), f.d.toNat < 8 → e.srcDefects .i32 f.a.toNat = [] → NoDead e (e.active f) (srcRegs .i32 f.a.toNat) →
       (∀ l, (e.active f).getLsbD l = true → e.read .i32 f.a.toNat l = w) → (if e.active f = 0 then w = 0 else fwDefect w = []) →
       SendsLong (.mzero f) s e 1 [] 0 (.tile (.mzero (tile f.d.toNat) (BitVec.ofNat 32 (semiIdentity w)) (rowsOf e.c.width (e.active f)))) []
         [tileRange (tile f.d.toNat)]) ∧
     (∀ f : FmtA, f.d.toNat < 8 → e.srcDefects .f32 f.a.toNat = [] → NoDead e (e.active f) (srcRegs .f32 f.a.toNat) →
       SendsLong (.mscl f) s e 1 [] 0 (.tile (.mscl (tile f.d.toNat)
         ((rowsOf e.c.width (e.active f)).map fun r => (r, BitVec.ofNat 32 (e.read .f32 f.a.toNat (r * (e.c.width / 16))))) (e.active f))) []
         [tileRange (tile f.d.toNat)]))

open Sys2Proof Sys2Proof.Machine Sys2Proof.Certificates in
/-- 11 R247, R248, R250: MMA and MLOOP, operands without defect and the lanes' format words alike and valid, wait for their quad and issue together
with it. -/
def Obligations.CollectiveWordsMeet : Prop :=
  ∀ (s : State) (e : Env) (f : FmtA) (x : FmtX) (g : FmtE) (c : MloopCtl), s.issuer = some e → EngineFree e true → e.quadDefect = [] →
    e.c.atMeeting = false → e.s.entries e.c.gc + 4 ≤ 64 →
    (let n := imageRegs e.c.width
     f.d.toNat < 8 → e.tileRunDefects f.a.toNat n = [] → e.tileRunDefects f.b.toNat n = [] → e.srcDefects .i32 x.sc.toNat = [] →
     NoDead e (e.active f) (run f.a.toNat n ++ run f.b.toNat n ++ srcRegs .i32 x.sc.toNat) →
     (∃ w, (∀ l, (e.active f).getLsbD l = true → e.read .i32 x.sc.toNat l = w) ∧
       (e.active f = 0 ∨ fwDefect w ++ fadeDefect w (x.sub.toNat % 4) = [])) → Meets (.mma f x) s e) ∧
    (g.eb.toNat % 2 = 0 → g.ec.toNat % 2 = 0 → 1 ≤ e.sval g.ed → e.sval g.ed ≤ 2 ^ 24 →
      fwDefect (e.sval g.ee) ++ fadeDefect (e.sval g.ee) c.md.toNat = [] → Meets (.mloop g c) s e)

open Sys2Proof Sys2Proof.Machine Sys2Proof.Certificates in
/-- 12 R269-R271, R276: VRSET, VRACT and VRRUN issue with the record, bases and run their scalar registers and control word give. -/
def Obligations.ValueRunWordsIssue : Prop :=
  ∀ (s : State) (e : Env) (f : FmtE) (tm : Team), s.issuer = some e → EngineFree e true → s.team? e.c.team = some tm →
    (let v (k : BitVec 5) : Nat := e.sval k
     (∀ x : VrCtl, ∃ reads, SendsLong (.vrset f x) s e 2 [] 0
       (.vrset { valid := true, bsel := x.bsel.toNat, afmt := x.afmt, vfmt := x.vfmt.toNat, ofmt := x.ofmt, acc := x.acc, actBase := v f.ea,
                 dstBase := v f.eb, k := v f.ec, rows := v f.ed, codebook := [] } (v f.ee)) reads []) ∧
     SendsLong (.vract f) s e 1 [] 0 (.vract (v f.ea) (v f.eb)) [] [] ∧
     ((v f.ec % 4 = 0 → f.ea.toNat % 2 = 0) →
       (let g := s.vrPlan tm e.c.team e.c.gidx
        let base := if v f.ec % 4 = 0 then e.spair f.ea.toNat else v f.ea
        ∃ reads, SendsLong (.vrrun f) s e 1 [] 0 (.vrrun (v f.ec % 4) base (v f.eb) base g [] none) reads [tm.range g.dstBase g.dstEnd])))

namespace Sys2Proof.Certificates

open Sys2Proof Sys2Proof.Machine

/-- A path can take a handler: the kernel has one, the group is not within it, and no lane of the path has a full return stack. -/
def Handled (c : Ctx) (e : Nat) : Prop :=
  c.trap ≠ 0xFFFFFFFF ∧ c.inHandler = false ∧ (c.path e).v = true ∧ ∀ l, (c.path e).mask.getLsbD l = true → c.depth l < 64

/-- What taking an exception leaves: every lane of the path at the handler, its resume on its return stack, the report in the report
registers, and INHANDLER set; a group the halt line is about to stop keeps the fault's code for its record (15 R337). -/
def AtHandler (c c' : Ctx) (e resume : Nat) (r : Report32) : Prop :=
  (∀ l, (c.path e).mask.getLsbD l = true → LaneAt c' l c.trap) ∧ c'.inHandler = true ∧
  (∀ l, mget c'.rstack l [] = mget c.rstack l [] ++ if (c.path e).mask.getLsbD l = true then [BitVec.ofNat 32 resume] else []) ∧
  c'.fcause = BitVec.ofNat 32 (r.code * 2 ^ 24 + r.cause * 2 ^ 16 + r.level * 2 ^ 13 + r.acls * 2 ^ 9 + r.qpos * 2 ^ 7 + b2n r.eng * 2 ^ 6 +
    b2n c.err42 * 2 ^ 5) ∧
  c'.faddr = BitVec.ofNat 64 r.addr ∧ c'.fpc = BitVec.ofNat 32 r.pc ∧ c'.flanes = r.lanes ∧
  SameBut { c with
    inHandler := true
    seen := none
    met := c'.met
    rstack := c'.rstack
    ext := c'.ext
    fcause := c'.fcause
    faddr := c'.faddr
    fpc := c'.fpc
    flanes := c'.flanes } c'

/-- The payload a barrier word carries, and the flags of combining it over the group's lanes (13 R293). -/
def payload (e : Env) (a : BitVec 7) (op : Nat) : Option Word × Flags :=
  let r := payFold op ((lanesOf e.lanes).map fun l => e.read (payPos op) a.toNat l)
  if op = 0 then (none, 0) else (some (BitVec.ofNat 32 r.1), r.2)

/-- The arrival of the path's lanes is on its way, to another package as a flit, and each lane knows the generation it arrived at. A lost
post shows as 0x42. -/
def Arrives (s t : State) (e : Env) (c' : Ctx) (a : BitVec 7) (nb op : Nat) : Prop :=
  t.ctx? e.cid = some c' ∧ (∀ k, k ≠ e.cid → t.ctx? k = s.ctx? k) ∧ (∀ x, t.byte x = s.byte x) ∧
    { t with ctxs := s.ctxs, bars := s.bars, nextId := s.nextId, pkgs := t.pkgs, freeCount := t.freeCount } =
      { s with pkgs := t.pkgs, freeCount := t.freeCount } ∧
    (pkgOf (gsOf e.c.gc) = pkgOf (gsOf e.c.baseGc) → t.pkgs = s.pkgs ∧ t.freeCount = s.freeCount) ∧
    t.bars = s.bars ++ [⟨s.nextId, gsOf e.c.gc, e.c.team, e.c.gidx, nb, e.p.mask, op, (payload e a op).1, (payload e a op).2⟩] ∧
    (∀ l, l < 64 → ∀ k, k < 16 → mget c'.lastArr (k * 64 + l) 0 =
      if k = nb ∧ e.p.mask.getLsbD l = true then s.barGen e.c.team nb + 1 else mget e.c.lastArr (k * 64 + l) 0) ∧
    SameBut { e.c.takeLost with lastArr := c'.lastArr } c'

/-- The path waits as said, past the word, whether its clause goes on there or ends. -/
def WaitsFor (e : Env) (c' : Ctx) (w : Wait) : Prop :=
  (c'.path e.e).v = true ∧ (c'.path e.e).wait = w ∧ (c'.path e.e).pc = e.p.pc + 4 ∧ (c'.path e.e).mask = e.p.mask

/-- A debug-agent word ends with a status in its destination; its own group changes in that alone. -/
def Answers (t : State) (e : Env) (d : BitVec 6) (v : Nat) : Prop :=
  ∃ c', t.ctx? e.cid = some c' ∧ (∀ k, c'.sreg k = if k = d.toNat then BitVec.ofNat 32 v else e.c.sreg k) ∧
    SameBut { e.c with sregs := c'.sregs } c' ∧ NoLatch e c' 1

/-- A scalar operand that names a pair. -/
def IsPair (a : BitVec 7) : Prop := 64 ≤ a.toNat ∧ a.toNat < 96 ∧ a.toNat % 2 = 0

/-- The pair an operand names, as 64 bits. -/
def pairOf (e : Env) (a : BitVec 7) : Nat := (e.sreg (a.toNat - 64)).toNat + (e.sreg (a.toNat - 63)).toNat * 2 ^ 32

/-- A debug-agent word may act: its launch is one, its operands are as Table 13-6 asks, and its target is a halted group of another context,
with no operation on it under way; `u` is the state with the lookup buffers the handle's probe filled. -/
def Targets (s u : State) (e : Env) (d : BitVec 6) (a : BitVec 7) (cid : Nat) (c : Ctx) : Prop :=
  d.toNat < 32 ∧ IsPair a ∧ s.isAgent e.c.launch = true ∧ e.target? (pairOf e a) = (u, some (cid, c)) ∧ cid ≠ e.cid ∧
    u.debugBusy cid c = false ∧ c.halted = true

end Sys2Proof.Certificates

open Sys2Proof Sys2Proof.Machine Sys2Proof.Certificates in
/-- 13 R291-R293: BAR releases, arrives with its payload combined over the group's lanes, and waits for the generation, out of the active set where no
path of its group can run; ARRIVE does not wait; AWAIT waits for the generation its path's lanes last arrived at, and where that is
released writes its payload at once. Where the lanes never arrived AWAIT passes at once (R292), writing a payload the spec does not state: a
free value (log 17, DESIGN CHOICE). -/
def Obligations.BarrierWordsComplete : Prop :=
  ∀ (s : State) (e : Env) (d : BitVec 6) (a : BitVec 7) (nb : BitVec 4) (o : BitVec 3), s.issuer = some e →
    (s.released e.cid e.c = true → s.acquiring e.cid = false → s.inGeneration e.c.team e.c.gidx nb.toNat e.p.mask = false →
      (o ≠ 0 → e.srcDefects (payPos o.toNat) a.toNat = []) → (o ≠ 0 → NoDead e e.lanes (srcRegs .i32 a.toNat)) →
      (∃ t c', exec (.arrive a nb o) s = .next t ∧ Arrives s t e c' a nb.toNat o.toNat ∧ NoLatch e c' 1) ∧
      ((o ≠ 0 → Writable e false d) → ∃ t c', exec (.bar d a nb o) s = .next (t.rest e.cid 5) ∧ Arrives s t e c' a nb.toNat o.toNat ∧
        WaitsFor e c' (.barrier nb.toNat (s.barGen e.c.team nb.toNat) (if o = 0 then none else some d.toNat) e.lanes))) ∧
    (∀ get : Bool, s.acquiring e.cid = false → (get = true → Writable e false d) →
      (let last := (lanesOf e.p.mask).foldl (fun m l => max m (mget e.c.lastArr (nb.toNat * 64 + l) 0)) 0
       let gen := s.barGen e.c.team nb.toNat
       (last = 0 → ∃ t c' v, exec (.await d nb get) s = .next t ∧ OnlyCtx { s with freeCount := t.freeCount } t e.cid c' ∧ NoLatch e c' 1 ∧
         (∀ r l, l < 64 → c'.v r l = if get = true ∧ r = d.toNat ∧ e.lanes.getLsbD l = true then v else e.c.v r l) ∧
         SameBut { e.c with vregs := c'.vregs, dead := c'.dead } c') ∧
       (∀ tm, s.team? e.c.team = some tm → last ≠ 0 → last ≤ gen → ∃ t c', OnlyCtx s t e.cid c' ∧ NoLatch e c' 1 ∧
         (let res := mget (mget tm.bars nb.toNat BarRec.empty).results (last - 1) (0, 0)
          exec (.await d nb get) s = .next (if get then t.watchAll e.cid e.e ((lanesOf e.lanes).map fun l => (l, res.2)) else t) ∧
          (∀ r l, l < 64 → c'.v r l = if get = true ∧ r = d.toNat ∧ e.lanes.getLsbD l = true then res.1 else e.c.v r l) ∧
          (∀ l, mget c'.fstat l 0 = mget e.c.fstat l 0 ||| if get = true ∧ e.lanes.getLsbD l = true then res.2 else 0)) ∧
         SameBut { e.c with vregs := c'.vregs, dead := c'.dead, fstat := c'.fstat } c') ∧
       (gen < last → ∃ t c', exec (.await d nb get) s = .next (t.rest e.cid 5) ∧ OnlyCtx s t e.cid c' ∧ SameBut e.c c' ∧
         WaitsFor e c' (.barrier nb.toNat (last - 1) (if get = true then some d.toNat else none) e.lanes))))

open Sys2Proof Sys2Proof.Machine Sys2Proof.Certificates in
/-- 07 R152, 13 R294, R298: JOIN at a part waits for the other parts; at a group that is no part it goes on at the base core, and
elsewhere leaves for it. JOINK probes its slot's COMP, counts in the SET slot and goes on; the answer comes later. -/
def Obligations.JoinWordsComplete : Prop :=
  ∀ (s : State) (e : Env), s.issuer = some e → s.acquiring e.cid = false →
    (∀ nb : BitVec 4,
      (e.c.splitPart = true → ∃ t c', exec (.join nb) s = .next (t.rest e.cid 5) ∧ OnlyCtx s t e.cid c' ∧ SameBut e.c c' ∧
        WaitsFor e c' (.join nb.toNat)) ∧
      (e.c.splitPart = false → e.c.gc = e.c.baseGc → ∃ t c', exec (.join nb) s = .next t ∧ OnlyCtx s t e.cid c' ∧ SameBut e.c c' ∧ NoLatch e c' 1) ∧
      (e.c.splitPart = false → e.c.gc ≠ e.c.baseGc → e.c.leaving = none → e.c.place = .active →
        (∀ k ∈ e.c.validPaths, (e.c.path k).wait ≠ .matrix) → ∃ t c', exec (.join nb) s = .next t ∧ OnlyCtx s t e.cid c' ∧ NoLatch e c' 1 ∧ c'.place = .pending ∧
          c'.depart = some ⟨.join, e.e, gsOf e.c.baseGc, some e.c.baseGc⟩)) ∧
    (∀ (d : BitVec 6) (a : BitVec 7) (u : State) (r ap page k : Nat), d.toNat % 2 = 0 → d.toNat + 1 < 32 → IsPair a →
      mget e.c.wslot (setSlot e) 0 < 255 → pairOf e a % 1024 = 0 →
      s.probeVa ⟨gsOf e.c.gc, some e.c.gc, e.c.pslot, e.c.user⟩ ⟨1, 8, true, true, false⟩ (pairOf e a + 16) = (u, .ok (r, ap)) →
      slotOfComp (paLoc (refPa r)) = some (page, k) →
      ∃ t c', exec (.joink d a) s = .next t ∧ t.ctx? e.cid = some c' ∧ (∀ j, j ≠ e.cid → t.ctx? j = s.ctx? j) ∧
        t.joinks = s.joinks ++ [⟨s.nextId, e.cid, paGs (refPa r), nslotKey page k, d.toNat, setSlot e⟩] ∧
        { t with ctxs := s.ctxs, stks := s.stks, cores := s.cores, joinks := s.joinks, nextId := s.nextId } = s ∧
        Counted e c' ∧ SameBut { e.c with wslot := c'.wslot } c' ∧ NoLatch e c' 1)

open Sys2Proof Sys2Proof.Machine Sys2Proof.Certificates in
/-- 13 R299, R300, 15 R329: TRAP takes its exception with code 0 and its operand as cause, to resume at the next word; TRET within the handler
pops every lane's resume, sends it there and clears INHANDLER; outside a handler it is 0x01. -/
def Obligations.TrapAndTretComplete : Prop :=
  ∀ (s : State) (e : Env), s.issuer = some e →
    (∀ k : BitVec 7, Handled e.c e.e → ∃ t c', exec (.trap k) s = .next t ∧ t.ctx? e.cid = some c' ∧ (∀ j, j ≠ e.cid → t.ctx? j = s.ctx? j) ∧
      (s.halting e.cid = false → OnlyCtx s t e.cid c' ∧ c'.met = e.c.met) ∧
      AtHandler e.c c' e.e (e.p.pc + 4) ⟨0, k.toNat, 7, 0, 0, false, 0, e.p.pc, e.p.mask⟩) ∧
    (e.c.inHandler = false → Faults .tret s e 0x01) ∧
    (let src (l : Nat) : Nat := if e.c.leader.isSome ∧ e.c.leaderPath = e.e then lowLane e.p.mask else l
     let dest (l : Nat) : Nat × Bool := (e.c.top (src l) / 4 * 4, nbit (e.c.top (src l)) 0)
     e.c.inHandler = true → e.p.mask ≠ 0 → (∀ l, e.p.mask.getLsbD l = true → stackOf e l ≠ []) →
     TargetsOk e ((lanesOf e.p.mask).map fun l => (l, e.c.top l / 4 * 4, nbit (e.c.top l) 0)) → RoomFor e dest →
     ∃ t c', exec .tret s = .next t ∧ OnlyCtxProbed s t e.cid c' ∧ (∀ l, e.p.mask.getLsbD l = true → LaneAt c' l (dest l).1) ∧
       (∀ l, mget c'.rstack l [] = if e.p.mask.getLsbD l = true then (stackOf e l).dropLast else stackOf e l) ∧
       SameBut { e.c with inHandler := false, rstack := c'.rstack, ext := c'.ext } c')

open Sys2Proof Sys2Proof.Machine Sys2Proof.Certificates in
/-- 13 R302, 06 R111, R112: GETS writes a system register to every active lane; SETS writes FSTAT lane by lane and FTZ, SEED (clearing SCNT),
VISIT and SPLITB from the lowest active lane, and nothing of the others. REPLAY frees the parked elements of the reports its group
received; a DUMP with no dump area is past.
13 R303, 16 R359, R407: HALT with a scope of 1 to 5 stops its group with code 0x82 at the boundary, once the loop rounds due there are taken; scope 0
stops its path alone; a scope above 5 is 0x02. -/
def Obligations.SystemWordsComplete : Prop :=
  (
  ∀ (s : State) (e : Env), s.issuer = some e →
    (∀ (d : BitVec 6) (i : BitVec 7), i.toNat < 0x17 → Writable e (sysWide i.toNat) d →
      ∃ t c', exec (.gets d i) s = .next t ∧ OnlyCtx s t e.cid c' ∧ NoLatch e c' 1 ∧
        (∀ l, e.lanes.getLsbD l = true → c'.v d.toNat l = BitVec.ofNat 32 (e.sysReg i.toNat l) ∧
          (sysWide i.toNat = true → c'.v (d.toNat + 1) l = BitVec.ofNat 32 (e.sysReg i.toNat l / 2 ^ 32))) ∧
        (∀ r l, l < 64 → (e.lanes.getLsbD l = false ∨ (r ≠ d.toNat ∧ (sysWide i.toNat = true → r ≠ d.toNat + 1))) → c'.v r l = e.c.v r l) ∧
        SameBut { e.c with vregs := c'.vregs, dead := c'.dead } c') ∧
    (∀ (i b : BitVec 7), i.toNat < 0x17 → Readable e (if sysWide i.toNat = true then .i64 else .i32) b →
      NoDead e e.lanes (srcRegs (if sysWide i.toNat = true then .i64 else .i32) b.toNat) →
      (let x := e.read .i32 b.toNat (lowLane e.lanes)
       ∃ t c', exec (.sets i b) s = .next t ∧ OnlyCtx s t e.cid c' ∧ NoLatch e c' 1 ∧
        (∀ l, mget c'.fstat l 0 = if i = 0 ∧ e.lanes.getLsbD l = true then BitVec.ofNat 7 (e.read .i32 b.toNat l) else mget e.c.fstat l 0) ∧
        SameBut { e.c with
          fstat := c'.fstat
          ftz := if i = 1 then nbit x 0 else e.c.ftz
          seed := if i = 2 then BitVec.ofNat 32 x else e.c.seed
          scnt := if i = 2 then 0 else e.c.scnt
          visit := if i = 8 then nbit x 0 else e.c.visit
          splitB := if i = 9 ∧ 1 ≤ x ∧ x ≤ 16 then x else e.c.splitB } c')) ∧
    (∃ t c', exec .replay s = .next t ∧ OnlyCtx { s with cmds := t.cmds, reports := t.reports } t e.cid c' ∧ SameBut e.c c' ∧ NoLatch e c' 1 ∧
      t.reports = s.reports.filter (fun r => !((s.reports.filter (s.receivedBy e.cid)).map (·.id)).contains r.id) ∧
      t.cmds = s.cmds.map fun c => ((s.reports.filter (s.receivedBy e.cid)).map (·.id)).foldl Cmd.unpark c) ∧
    (∀ k : BitVec 7, k.toNat ≤ 2 →
      (mget (s.stk (gsOf e.c.baseGc)).dmpSize e.c.pslot 0 = 0 →
        ∃ t c', exec (.dump k) s = .next t ∧ OnlyCtx s t e.cid c' ∧ SameBut e.c c' ∧ NoLatch e c' 1) ∧
      (mget (s.stk (gsOf e.c.baseGc)).dmpSize e.c.pslot 0 ≠ 0 →
        ∃ t c', OnlyCtx s t e.cid c' ∧ SameBut e.c c' ∧ NoLatch e c' 1 ∧
          exec (.dump k) s = .next (t.requestDump (gsOf e.c.gc)
            (if k = 2 then (s.teams.filter fun kt => kt.2.launch = e.c.launch).map (·.1) else [e.c.team])
            (if k = 0 then some e.c.gidx else none) e.c.pslot (some e.cid)))) ∧
    (∀ k : BitVec 7, 2 < k.toNat → Faults (.dump k) s e 0x02) ∧
    (∀ i : BitVec 7, 0x17 ≤ i.toNat → ∀ d : BitVec 6, e.c.walloc = 8 → d.toNat % 2 = 0 → Faults (.gets d i) s e 0x02)) ∧
  (
  ∀ (s : State) (e : Env) (k : BitVec 7), s.issuer = some e → e.c.stop = none →
    (5 < k.toNat → Faults (.halt k) s e 0x02) ∧
    (1 ≤ k.toNat → k.toNat ≤ 5 → ∃ t c', exec (.halt k) s = .next t ∧ t.ctx? e.cid = some c' ∧ (∀ j, j ≠ e.cid → t.ctx? j = s.ctx? j) ∧
      c'.stop = some ⟨s.nextId, 0x82⟩ ∧ (e.c.endsBody e.e (e.p.pc + 4) = false → ∀ l, e.p.mask.getLsbD l = true → LaneAt c' l (e.p.pc + 4)) ∧
      SameBut { e.c with
        stop := c'.stop
        stopRec := c'.stopRec
        met := 0
        step := none
        since := e.now
        place := if e.c.place = .active then .pending else e.c.place } c') ∧
    (k = 0 → e.p.stopped = false → ∃ t c', exec (.halt k) s = .next t ∧ t.ctx? e.cid = some c' ∧ (∀ j, j ≠ e.cid → t.ctx? j = s.ctx? j) ∧
      SameBut { e.c with pathStop := c'.pathStop, stopRec := c'.stopRec } c' ∧
      (e.c.loops = [] → (∀ l, e.p.mask.getLsbD l = true → LaneAt c' l (e.p.pc + 4)) ∧
        c'.pathStop = if e.c.pathStop = none then some ⟨s.nextId, 0x82⟩ else e.c.pathStop)))

open Sys2Proof Sys2Proof.Machine Sys2Proof.Certificates in
/-- 13 R305-R308: STEP, RDCTX, WRCTX and RESUME act on a halted group and answer status 0; outside a debug-agent launch each is 0x08; a handle
that names no group answers 6, a group not halted 1. The order in which the statuses are answered is the model's choice (log 34). -/
def Obligations.DebugAgentWordsComplete : Prop :=
  ∀ (s u : State) (e : Env) (d : BitVec 6) (a b : BitVec 7), s.issuer = some e →
    (∀ cid c, Targets s u e d a cid c →
      (ScalarReadable e b → (let w := (sopnd e b).toNat
        (∀ c2 k, c.stepPath w = .ok (c2, k) → ∃ t c', exec (.step d a b) s = .next t ∧ Answers t e d 0 ∧ t.ctx? cid = some c' ∧
          c'.step = some ⟨k, nbit w 0, false⟩ ∧ (c2.paths.length ≤ k ∨ (c'.path k).stopped = false) ∧ (∀ j, j ≠ k → c'.path j = c2.path j)) ∧
        (∀ v, c.stepPath w = .error v → ∃ t, exec (.step d a b) s = .next t ∧ Answers t e d v) ∧
        (w = 0 → ∃ t c', exec (.resume d a b) s = .next t ∧ Answers t e d 0 ∧ t.ctx? cid = some c' ∧ c'.stop = none ∧ c'.pathStop = none ∧
          c'.step = none ∧ ∀ p ∈ c'.paths, p.stopped = false) ∧
        (2 ≤ w → ∃ t, exec (.resume d a b) s = .next t ∧ Answers t e d 4))) ∧
      (IsPair b → ∀ u2 ps, pairOf e b % 64 = 0 →
        (mget e.c.wslot (setSlot e) 0 < 255 →
          u.probeSpan ⟨gsOf e.c.gc, some e.c.gc, e.c.pslot, e.c.user⟩ ⟨2, 1, true, false, false⟩ (pairOf e b) (c.rdctxBytes u).length = (u2, .ok ps) →
          ∃ t c' xs, exec (.rdctx d a b) s = .next t ∧ t.ctx? e.cid = some c' ∧ (∀ j, j ≠ e.cid → t.ctx? j = s.ctx? j) ∧
            t.cmds = s.cmds ++ [e.ctxCmd s.nextId (some (setSlot e)) (.rdctx cid (pairOf e b) (c.rdctxBytes u) d.toNat) xs] ∧
            Counted e c' ∧ SameBut { e.c with wslot := c'.wslot } c' ∧ NoLatch e c' 1) ∧
        (∀ u3 ps3, (s.cmds.all fun x => x.ctx ≠ e.cid) = true →
          u.probeSpan ⟨gsOf e.c.gc, some e.c.gc, e.c.pslot, e.c.user⟩ ⟨1, 1, true, false, false⟩ (pairOf e b) 512 = (u2, .ok ps) →
          (let live := ((ps.head?).map fun p => (u2.byte (refCell p.1)).toNat).getD 0
           u2.probeSpan ⟨gsOf e.c.gc, some e.c.gc, e.c.pslot, e.c.user⟩ ⟨1, 1, true, false, false⟩ (pairOf e b)
             (512 + ((List.range 8).filter fun w => nbit live w).length * 32 * c.width) = (u3, .ok ps3)) →
          ∃ t xs, exec (.wrctx d a b) s = .next t ∧ (∀ j, t.ctx? j = s.ctx? j) ∧
            t.cmds = s.cmds ++ [e.ctxCmd s.nextId none (.wrctx cid (pairOf e b) e.e d.toNat) xs]))) ∧
    (d.toNat < 32 → IsPair a → s.isAgent e.c.launch = false →
      (ScalarReadable e b → Faults (.step d a b) s e 0x08 ∧ Faults (.resume d a b) s e 0x08) ∧
      (IsPair b → Faults (.rdctx d a b) s e 0x08 ∧ ((s.cmds.all fun x => x.ctx ≠ e.cid) = true → Faults (.wrctx d a b) s e 0x08))) ∧
    (d.toNat < 32 → IsPair a → s.isAgent e.c.launch = true → ScalarReadable e b →
      (e.target? (pairOf e a) = (u, none) → ∃ t, exec (.step d a b) s = .next t ∧ Answers t e d 6) ∧
      (∀ cid c, e.target? (pairOf e a) = (u, some (cid, c)) → u.debugBusy cid c = false → c.halted = false →
        ∃ t, exec (.step d a b) s = .next t ∧ Answers t e d 1))

namespace Sys2Proof.Certificates

open Sys2Proof Sys2Proof.Machine

/-- An access of the group `c` has the one element `x` left, and nothing keeps it from performing: no precise firing holds it, its line is
present, its bank serves it, nothing older is before it (08 R158, R159, R162); it stands in memory, the host link is up where it is host
memory, and no predicate of the core or of the home watches. -/
def LastElement (s : State) (op : Nat) (a : Access) (c : Ctx) (x : LaneAcc) : Prop :=
  (s.accs.find? fun b => b.id = op) = some a ∧ a.lanes = [x] ∧ s.ctx? a.ctx = some c ∧ a.held = none ∧ s.elemFree a c [] x = true ∧
    locKind (paGs (refPa x.pa)) (paLoc (refPa x.pa)) ≠ .regs ∧ (isHostRef x.pa = true → s.hostUp (paGs (refPa x.pa)) = true) ∧
    (s.core c.gc).preds = [] ∧ (s.stk (paGs (refPa x.pa))).preds = [] ∧ c.step = none ∧ x.lane < 64 ∧ x.n ≤ 32

/-- The bytes of `n` cells from a reference hold a number, and no other byte of memory changed; a launch record, whose fields are RO, keeps
its bytes too (14 Table 14-3, 00 R5). -/
def Wrote (s t : State) (ref n v : Nat) : Prop :=
  (isRecord (refPa ref) = false → ∀ i, i < n → t.byte (refCell (ref + i)) = BitVec.ofNat 8 (v / 2 ^ (8 * i))) ∧
    (isRecord (refPa ref) = true → ∀ p, t.byte p = s.byte p) ∧ ∀ p, (∀ i, i < n → p ≠ refCell (ref + i)) → t.byte p = s.byte p

/-- The word is complete: its record is gone, its slot fell by one, and the registers `ws` from `reg` of its lane were written. -/
def Completed (s t : State) (a : Access) (c c' : Ctx) (reg lane : Nat) (ws : List Nat) (fl : Flags) : Prop :=
  t.accs = s.accs.filter (fun b => b.id ≠ a.id) ∧ t.ctx? a.ctx = some c' ∧ (∀ k, k ≠ a.ctx → t.ctx? k = s.ctx? k) ∧
    (∀ k, mget c'.wslot k 0 = mget c.wslot k 0 - if a.slot = some k then 1 else 0) ∧
    (∀ r l, l < 64 → c'.v r l = if l = lane ∧ reg ≤ r ∧ r < reg + ws.length then BitVec.ofNat 32 (ws.getD (r - reg) 0) else c.v r l) ∧
    (∀ l, mget c'.fstat l 0 = mget c.fstat l 0 ||| if l = lane then fl else 0) ∧
    SameBut { c with
      wslot := c'.wslot
      vregs := c'.vregs
      dead := c'.dead
      fstat := c'.fstat } c'

end Sys2Proof.Certificates

open Sys2Proof Sys2Proof.Machine Sys2Proof.Certificates in
/-- 08 R157-R159, 09 R182-R185, 03 R62: LOAD_RESULT reads its bytes, low byte first, into the registers; STORE_PERFORM writes the bytes of its data and no
other byte of memory (the launch records ignore writes: 14 Table 14-3, 00 R5); ATOMIC_PERFORM reads, computes and writes in one step and returns the old value; CAS writes only where the old
value equals the compare value. -/
def Obligations.AccessesPerform : Prop :=
  ∀ (s u : State) (op : Nat) (lanes : Mask) (a : Access) (c : Ctx) (x : LaneAcc), LastElement s op a c x → lanes.getLsbD x.lane = true →
    (a.kind = .store → ∃ t c', exec (.storePerform op lanes) s = .next t ∧ Wrote s t x.pa x.n x.data ∧ Completed s t a c c' 0 x.lane [] 0) ∧
    ((s.touchRow x.pa).decodeRead x.pa x.n = (u, 0) →
      (let old := s.refNum x.pa x.n
       (a.kind = .load → ∃ t c', exec (.loadResult op lanes) s = .next t ∧ (∀ p, t.byte p = s.byte p) ∧
         Completed s t a c c' x.reg x.lane (loadWords a.sz old) 0) ∧
       (a.kind = .atom → ∃ t c', exec (.atomicPerform op) s = .next t ∧ Wrote s t x.pa x.n (atomOp a.sz old x.data).1 ∧
         Completed s t a c c' x.reg x.lane (wordsOf (x.n / 4) old) (atomOp a.sz old x.data).2) ∧
       (a.kind = .cas → ∃ t c', exec (.atomicPerform op) s = .next t ∧ Wrote s t x.pa x.n (if old = x.cmp then x.data else old) ∧
         Completed s t a c c' x.reg x.lane (wordsOf (x.n / 4) old) 0)))

open Sys2Proof Sys2Proof.Machine Sys2Proof.Certificates in
/-- 08 R157: however many lanes of a store perform, in whatever order, every byte of memory outside its elements' cells is unchanged. -/
def Obligations.StoresTouchOnlyTheirCells : Prop :=
  ∀ (s t : State) (op : Nat) (lanes : Mask) (a : Access) (c : Ctx), (s.accs.find? fun b => b.id = op) = some a → a.kind = .store →
    s.ctx? a.ctx = some c → c.step = none →
    (∀ x ∈ a.lanes, locKind (paGs (refPa x.pa)) (paLoc (refPa x.pa)) ≠ .regs ∧ (s.stk (paGs (refPa x.pa))).preds = []) →
    exec (.storePerform op lanes) s = .next t →
    ∀ p, (∀ x ∈ a.lanes, ∀ i, i < x.n → p ≠ refCell (x.pa + i)) → t.byte p = s.byte p

open Sys2Proof Sys2Proof.Machine Sys2Proof.Certificates in
/-- 09 R184, Table 9-4: the sixteen atomic operations: wrapping, `.add` with OVER where the signed sum is out of range, as integers compare,
`.fadd` one rounded FP32 sum that flushes nothing, `.fmin` and `.fmax` by the order of FP32 codes with -0 below +0 and the canonical NaN for
a NaN. R183, Table 9-2, and R190: how loaded bytes fill registers, a 16-byte datum four and a sector of an LDT eight. -/
def Obligations.AtomicAndLoadValues : Prop :=
  ∀ (a b : BitVec 32) (w v : BitVec 64),
    atomOp 0 a.toNat b.toNat = ((a + b).toNat, if BitVec.saddOverflow a b then flOver else 0) ∧
    atomOp 1 a.toNat b.toNat = fSum 8 0 0 false [.val (fDecode 8 a.toNat), .val (fDecode 8 b.toNat)] ∧
    (atomOp 2 a.toNat b.toNat).1 = (if BitVec.slt b a then b else a).toNat ∧
    (atomOp 3 a.toNat b.toNat).1 = (if BitVec.slt a b then b else a).toNat ∧
    (atomOp 4 a.toNat b.toNat).1 = min a.toNat b.toNat ∧
    (atomOp 5 a.toNat b.toNat).1 = max a.toNat b.toNat ∧
    (atomOp 6 a.toNat b.toNat).1 = (a &&& b).toNat ∧
    (atomOp 7 a.toNat b.toNat).1 = (a ||| b).toNat ∧
    (atomOp 8 a.toNat b.toNat).1 = (a ^^^ b).toNat ∧
    (atomOp 9 a.toNat b.toNat).1 = b.toNat ∧
    (atomOp 10 a.toNat b.toNat).1 = (if BitVec.ule b a then 0 else a + 1 : BitVec 32).toNat ∧
    (atomOp 11 a.toNat b.toNat).1 = (if a = 0 ∨ BitVec.ult b a then b else a - 1).toNat ∧
    (atomOp 12 w.toNat v.toNat).1 = (w + v).toNat ∧
    (atomOp 13 w.toNat v.toNat).1 = v.toNat ∧
    (let nan (c : Word) : Bool := decide (0x7F800000 < c.toNat % 2 ^ 31)
     let key (c : Word) : Int := if c.msb then 2 ^ 31 - 1 - (c.toNat : Int) else c.toNat
     atomOp 14 a.toNat b.toNat = (if nan a || nan b then (0x7FC00000, flNanIn) else if key b < key a then (b.toNat, 0) else (a.toNat, 0)) ∧
     atomOp 15 a.toNat b.toNat = (if nan a || nan b then (0x7FC00000, flNanIn) else if key a < key b then (b.toNat, 0) else (a.toNat, 0))) ∧
    (∀ k : BitVec 8, loadWords 0 k.toNat = [k.toNat] ∧ loadWords 1 k.toNat = [(k.signExtend 32).toNat]) ∧
    (∀ k : BitVec 16, loadWords 2 k.toNat = [k.toNat] ∧ loadWords 3 k.toNat = [(k.signExtend 32).toNat]) ∧
    loadWords 4 a.toNat = [a.toNat] ∧
    loadWords 5 w.toNat = [(w.extractLsb' 0 32).toNat, (w.extractLsb' 32 32).toNat] ∧
    (∀ q : BitVec 128, loadWords 6 q.toNat = (List.range 4).map fun j => (q.extractLsb' (32 * j) 32).toNat) ∧
    (∀ q : BitVec 256, loadWords 16 q.toNat = (List.range 8).map fun j => (q.extractLsb' (32 * j) 32).toNat)

open Sys2Proof Sys2Proof.Machine Sys2Proof.Certificates in
/-- 07 R153, 08 R162, 09 R186, 03 R64: POST_PERFORM does the oldest message of its channel, reading its location first (09 R404), and sends
its acknowledgement; POST_ACK, the oldest reply on its way, or one counted lost, takes one off ANCHOR where the group is; WAIT_LINE_WAKE
frees a group once its lines are present. -/
def Obligations.PostEventsComplete : Prop :=
  ∀ (s : State),
    (∀ (u : State) (msg : Nat) (m : Msg) (p : PostMsg), (s.chan.find? fun x => x.id = msg) = some m → m.body = .post p →
      (let n := postBytes p.op
       s.headOf m = true → m.held = none → m.lost = false → s.postAbsent p n = false → s.refBusy p.pa = false →
       (∀ b ∈ s.accs, b.id < m.id → ∀ c, s.ctx? b.ctx = some c → p.ofCtx c = true → ∀ l ∈ b.lanes, overlaps l.pa l.n p.pa n = false) →
       s.postImage p = none → (isHostRef p.pa = true → s.hostUp m.dst = true) → (s.stk (paGs (refPa p.pa))).preds = [] →
       (s.touchRow p.pa).decodeRead p.pa n = (u, 0) →
       ∃ t, exec (.postPerform msg) s = .next t ∧ t.chan = s.chan.filter (fun x => x.id ≠ msg) ∧
         t.acks = s.acks ++ [⟨s.nextId, m.dst, p.team, p.gidx, p.part, p.splitGen, m.src, false, false⟩] ∧ (∀ k, t.ctx? k = s.ctx? k) ∧
         (postStores p.op = true → Wrote s t p.pa n p.data) ∧
         (postStores p.op = false → Wrote s t p.pa n (atomOp (postAtom p.op) (s.refNum p.pa n) p.data).1))) ∧
    (∀ (ack : Nat) (a : Ack) (cid : Nat) (c : Ctx), (s.acks.find? fun x => x.id = ack) = some a →
      (a.lost = true ∨ (a.dropped = false ∧ s.replyDue a.src a.dest ack = true)) →
      s.ownerOf a.team a.gidx a.part a.splitGen = some (cid, c) → c.standsOn a.dest = true →
      ∃ t, exec (.postAck ack) s = .next t ∧ t.acks = s.acks.filter (fun x => x.id ≠ ack) ∧
        t.ctx? cid = some { c with anchor := c.anchor - 1, lost := c.lost || a.lost } ∧ (∀ k, k ≠ cid → t.ctx? k = s.ctx? k) ∧
        ((s.saves.all fun i => !i.taken.contains cid) = true → ∀ p, t.byte p = s.byte p)) ∧
    (∀ (cid : Nat) (c : Ctx), s.ctx? cid = some c → c.lineWait ≠ [] → (∀ k ∈ c.lineWait, mget s.absent k false = false) →
      ∃ t, exec (.waitLineWake cid) s = .next t ∧ OnlyCtx s t cid { c with lineWait := [], stall := 15 })

open Sys2Proof Sys2Proof.Machine Sys2Proof.Certificates in
/-- 06 R117-R121, 03 R55-R58: CLAUSE_FETCH takes a well-formed clause whose waits are satisfied into its path, and 0x03 where header or form is bad;
TABLE_WALK leaves the leaf first in the core's buffer; an invalidation queues, the ninth waiting one sets ERR instead, and its drop removes
the entries it names. -/
def Obligations.FetchAndTranslationEventsComplete : Prop :=
  ∀ (s u v : State),
    (∀ (cid k : Nat) (c : Ctx) (h : Word) (ws : List Word), s.ctx? cid = some c →
      (let p := c.path k
       c.runnable k = true → s.frozen c = false → p.clause = none → c.parked = none → c.depart = none → c.split = [] → c.grow = 0 →
       c.stop = none → c.place = .active → (c.visits.any fun x => x.entry = k) = false → c.slotFlags = [] →
       s.codeWord c p.pc = (u, .ok h) →
       ((isHeader h = false ∨ hdrN h = 0) → exec (.clauseFetch cid k) s = .next (u.takeTrap cid k p.pc (plainReport 0x03 p.pc p.mask))) ∧
       (isHeader h = true → hdrN h ≠ 0 → u.codeWords c ((List.range (hdrN h)).map fun i => p.pc + 4 * (i + 1)) = (v, .ok ws) →
         (clauseOk c.width h ws = false → exec (.clauseFetch cid k) s = .next (v.takeTrap cid k p.pc (plainReport 0x03 p.pc p.mask))) ∧
         (clauseOk c.width h ws = true → (2 ≤ bits h.toNat 19 3 → bits h.toNat 19 3 ≤ 4 → c.gc = c.birthGc) →
           c.slotsZero (h.extractLsb' 11 8) = true → k < c.paths.length →
           ∃ t c', exec (.clauseFetch cid k) s = .next t ∧ OnlyCtxProbed s t cid c' ∧ SameBut { c with stall := 15 } c' ∧
             c'.path k = { p with
               clause := some ⟨p.pc, bits h.toNat 19 3, bits h.toNat 8 3, h.extractLsb' 11 8, h.extractLsb' 0 8, ws, []⟩
               pc := p.pc + 4
               latches := [] })))) ∧
    (∀ (gc pslot va : Nat) (e : TlbEntry), s.lookup (gsOf gc) (some gc) pslot va = (u, .ok e) →
      exec (.tableWalk gc pslot va) s = .next u ∧ ((u.core gc).tlb.head? = some e) ∧ { u with stks := s.stks, cores := s.cores } = s) ∧
    (∀ gs page pslot : Nat,
      (let q := (s.stk gs).invQueue
       let asks (i : Instr) (x : Inval) : Prop := ∃ t, exec i s = .next t ∧ { t with stks := s.stks } = s ∧
         (q.length < 9 → (t.stk gs).invQueue = q ++ [x] ∧ (t.stk gs).invErr = (s.stk gs).invErr) ∧
         (9 ≤ q.length → (t.stk gs).invQueue = q ∧ (t.stk gs).invErr = true)
       asks (.invPage gs page pslot) ⟨0, page % 2 ^ 41, pslot % 16, 0⟩ ∧ asks (.invSlot gs pslot) ⟨1, 0, pslot % 16, 0⟩ ∧
         asks (.invAll gs) ⟨2, 0, 0, 0⟩)) ∧
    (∀ (gs : Nat) (i : Inval) (rest : List Inval), (s.stk gs).invQueue = i :: rest → i.mark = 0 →
      ∃ t, exec (.invalidationDropEnd gs) s = .next t ∧ { t with stks := s.stks, cores := s.cores } = s ∧
        (t.stk gs).tlb = (s.stk gs).tlb.filter (fun x => !i.hits x) ∧
        (∀ k, k < 24 → (t.core (24 * gs + k)).tlb = (s.core (24 * gs + k)).tlb.filter fun x => !i.hits x) ∧
        (t.stk gs).invQueue = if s.invOutstanding gs { i with mark := s.nextId } = true then { i with mark := s.nextId } :: rest else rest)

open Sys2Proof Sys2Proof.Machine Sys2Proof.Certificates in
/-- 07 R144-R149: MIGRATION_DEPART takes a context off its core with no latches, onto the channel to its home; LANDING_OFFER, LANDING_GRANT
and GRANT_RETURN handle the units of the remote pool; CONTEXT_LANDING writes it to the landing area, owing its source an acknowledgement
that frees its windows; CONTEXT_PLACE gives it a core, and CORE_TO_CORE_ARRIVAL does so within a stack. Registers of windows
that are not live are zero after it. Idle units are counted on core 0's counter (log 14, DESIGN CHOICE), and a group just placed counts its paths
as having issued then (log 80, DESIGN CHOICE). -/
def Obligations.MigrationEventsComplete : Prop :=
  ∀ (s : State),
    (∀ (cid : Nat) (c : Ctx) (d : Depart), s.ctx? cid = some c → c.depart = some d → s.mayLeave cid c d.entry = true →
      (let src := gsOf c.gc
       let p := c.packUp d.entry
       (∀ gc, d.gs = src → d.core = some gc → gc ≠ c.gc → c.fixExt.granules ≤ s.freeG gc → s.seats gc < 64 → s.traced c.gc = false →
         ∃ t, exec (.migrationDepart cid) s = .next t ∧ OnlyCtx { s with cores := t.cores } t cid { p with place := .moving } ∧
           (t.core gc).leaving = (s.core gc).leaving ++ [(cid, 2 * cid, c.fixExt.granules)] ∧
           (t.core c.gc).leaving = (s.core c.gc).leaving ++ [(cid, c.winKey cid, c.granules)] ∧
           ∀ k, k ≠ gc → k ≠ c.gc → t.core k = s.core k) ∧
       (d.gs ≠ src → s.reaches src d.gs = true → (c.anchor = 0 ∨ (s.stk src).fwd.length < 256) → s.creditOk src d.gs p.flits = true →
         s.canSend src d.gs (planeOf src) = true → s.traced c.gc = false →
         ∃ t, exec (.migrationDepart cid) s = .next t ∧ t.ctx? cid = some { p with place := .moving } ∧ (∀ k, k ≠ cid → t.ctx? k = s.ctx? k) ∧
           (∀ a, t.byte a = s.byte a) ∧ t.chan = s.chan ++ [⟨s.nextId, src, d.gs, .context cid p.flits, none, false, false, false⟩] ∧
           (t.core c.gc).leaving = (s.core c.gc).leaving ++ [(cid, c.winKey cid, c.granules)] ∧
           (t.stk src).fwd = (s.stk src).fwd ++ (if c.anchor = 0 then [] else [⟨c.team, c.gidx, c.part, c.splitGen, d.gs, c.anchor⟩]) ∧
           (pkgOf src = pkgOf d.gs → mget (t.stk d.gs).credit src 0 = mget (s.stk d.gs).credit src 0 + p.flits)) ∧
       (d.gs ≠ src → s.reaches src d.gs = false → exec (.migrationDepart cid) s = .next (s.unreachable cid d)) ∧
       ((c.packUp d.entry).vregs = c.vregs ∧ (c.packUp d.entry).sregs = c.sregs ∧ (c.packUp d.entry).rstack = c.rstack ∧
         ∀ k, k < c.paths.length → (p.path k).latches = []))) ∧
    (∀ src dst, pkgOf src ≠ pkgOf dst → ((s.stk dst).grants.any fun g => g.src = src) = false →
      ((s.stk dst).offers.any fun o => o.1 = src) = false → s.reaches src dst = true →
      ∃ t, exec (.landingOffer src dst) s = .next t ∧ (t.stk dst).offers = (s.stk dst).offers ++ [(src, s.nextId)] ∧ t.ctxs = s.ctxs ∧ t.mem = s.mem) ∧
    (∀ gs src msg, ((s.stk gs).offers.find? fun o => s.handed o.1 gs o.2 1) = some (src, msg) → (s.stk gs).grants.length < 95 →
      s.reaches gs src = true →
      ∃ t, exec (.landingGrant gs) s = .next t ∧ (t.stk gs).offers = (s.stk gs).offers.filter (fun o => o.2 ≠ msg) ∧
        (t.stk gs).grants = (s.stk gs).grants ++ [⟨src, s.nextId, 0, s.stkNow gs⟩] ∧ t.ctxs = s.ctxs ∧ t.mem = s.mem) ∧
    (∀ gs src, ∃ t, exec (.grantReturn gs src) s = .next t ∧ { t with stks := s.stks, pkgs := s.pkgs } = s ∧
      (t.stk gs).grants = (s.stk gs).grants.filter fun g => !(g.src = src && g.used = 0 && decide (65536 ≤ s.stkNow gs - g.idleSince))) ∧
    (∀ (msg cid flits : Nat) (m : Msg) (c : Ctx), (s.chan.find? fun x => x.id = msg) = some m → m.body = .context cid flits → s.ctx? cid = some c →
      s.headOf m = true → m.held = none →
      ∃ t c', exec (.contextLanding msg) s = .next t ∧ t.ctx? cid = some c' ∧ (∀ k, k ≠ cid → t.ctx? k = s.ctx? k) ∧ (∀ a, t.byte a = s.byte a) ∧
        c' = { c.landed with place := .landed, gc := 24 * m.dst } ∧ t.chan = s.chan.filter (fun x => x.id ≠ msg) ∧
        t.landAcks = s.landAcks ++ [⟨s.nextId, m.dst, cid, c.gc, c.granules, c⟩] ∧ t.notices = s.notices ++ [⟨s.nextId + 1, c.team, c.gidx, m.dst⟩] ∧
        (t.stk m.dst).landing = (s.stk m.dst).landing ++ [(cid, m.src, flits)]) ∧
    (∀ (ack : Nat) (a : LandAck), (s.landAcks.find? fun x => x.id = ack) = some a →
      s.replyDue a.src (gsOf a.srcGc) ack = true →
      ∃ t, exec (.landingAck ack) s = .next t ∧ { t with landAcks := s.landAcks, cores := s.cores, pkgs := s.pkgs } = s ∧
        t.landAcks = s.landAcks.filter (fun x => x.id ≠ ack) ∧ (t.core a.srcGc).leaving = (s.core a.srcGc).leaving.filter fun l => l.1 ≠ a.ctx) ∧
    (∀ (cid gc : Nat) (c : Ctx) (rest : List (Nat × Nat × Nat)) (src flits : Nat), s.ctx? cid = some c → c.place = .landed →
      s.landCore (gsOf c.gc) c = some gc → (s.stk (gsOf c.gc)).landing = (cid, src, flits) :: rest → s.traced gc = false → c.step = none →
      ∃ t, exec (.contextPlace cid) s = .next t ∧ (∀ k, k ≠ cid → t.ctx? k = s.ctx? k) ∧ (c.stop = none → c.stopRec = none → ∀ a, t.byte a = s.byte a) ∧
        (∃ c', t.ctx? cid = some c' ∧ c'.place = .pending ∧ c'.gc = gc ∧ c'.depart = none ∧ c'.vregs = c.vregs ∧
          c'.paths = c.paths.map fun p => { p with lastIssue := s.now gc }) ∧
        (t.stk (gsOf c.gc)).landing = rest.filter fun l => l.1 ≠ cid) ∧
    (∀ (cid gc : Nat) (c : Ctx) (d : Depart), s.ctx? cid = some c → c.depart = some d → d.core = some gc → c.place = .moving → gsOf gc = gsOf c.gc →
      s.traced gc = false → c.step = none →
      ∃ t c', exec (.coreToCoreArrival cid) s = .next t ∧ t.ctx? cid = some c' ∧ (∀ k, k ≠ cid → t.ctx? k = s.ctx? k) ∧
        (c.stop = none → c.stopRec = none → OnlyCtx { s with cores := t.cores } t cid c') ∧ c'.place = .pending ∧ c'.gc = gc ∧ c'.depart = none ∧
        (∀ r l, l < 64 → c'.v r l = if c.liveWindows.contains (r / 8) = true then c.v r l else 0)) ∧
    (∀ (n : Nat) (x : Notice) (tm : Team), (s.notices.find? fun y => y.id = n) = some x → s.team? x.team = some tm →
      (s.notices.any fun y => y.gs = x.gs && y.team = x.team && decide (y.id < n)) = false → s.handed x.gs (gsOf tm.baseGc) n 1 = true →
      ∃ t, exec (.landingNotice n) s = .next t ∧ t.notices = s.notices.filter (fun y => y.id ≠ n) ∧
        t.team? x.team = some { tm with
          landedAt := mput tm.landedAt x.gidx x.gs
          noted := mset tm.noted x.gidx (mget tm.noted x.gidx 0 + 1) 0 } ∧
        { t with notices := s.notices, teams := s.teams, pkgs := s.pkgs } = s)

open Sys2Proof Sys2Proof.Machine Sys2Proof.Certificates in
/-- 07 R150-R152, R155, 13 R281, R285-R287, R291-R295, R298: a split into two homes leaves two parts with the lanes of each; a visit chain leaves for its next
home; a part at JOIN leaves for its base core; LOOP_ITERATION counts down and sends the paths round, or on with the last; NINTH_PATH_RELEASE
and JOIN_HOLD_TIMEOUT end holds; BARRIER_ARRIVAL records an arrival, BARRIER_RELEASE gives the payload,
following its context where that has moved (log 101, DEDUCED), JOINK_ANSWER COMP. -/
def Obligations.GroupEventsComplete : Prop :=
  ∀ (s : State),
    (∀ (cid : Nat) (c : Ctx) (p q : SplitPart), s.ctx? cid = some c → c.split = [p, q] → 2 ≤ c.splitB → c.anchor = 0 → s.atRest cid c p.entry = true →
      (s.joinks.any fun j => j.ctx = cid) = false → cid < s.nextId → c.atHome (q.gs, q.core) = false →
      (let new := s.nextId + 1
       ∃ t d d', exec (.groupSplit cid) s = .next t ∧ t.ctx? cid = some d ∧ t.ctx? new = some d' ∧ (∀ k, k ≠ cid → k ≠ new → t.ctx? k = s.ctx? k) ∧
        d.splitPart = true ∧ d'.splitPart = true ∧ d.part = 0 ∧ d'.part = 1 ∧ d.nparts = 2 ∧ d'.nparts = 2 ∧ d'.lanes = q.lanes ∧
        (p.entry < c.paths.length → (d.path p.entry).mask = p.lanes ∧ (d'.path p.entry).mask = q.lanes) ∧
        d.depart = (if c.atHome (p.gs, p.core) = true then none else some ⟨.access, p.entry, p.gs, p.core⟩) ∧
        d'.depart = some ⟨.access, p.entry, q.gs, q.core⟩ ∧ d.vregs = c.vregs ∧ d'.vregs = c.vregs ∧ d.sregs = c.sregs ∧ d'.sregs = c.sregs ∧
        d.anchor = 0 ∧ d'.anchor = 0 ∧ (∀ a, t.byte a = s.byte a))) ∧
    (∀ (cid : Nat) (c : Ctx) (h : Nat × Option Nat) (rest : List (Nat × Option Nat)), s.ctx? cid = some c → c.depart = none → c.split = [] → c.parked = none →
      (c.place = .active ∨ c.place = .pending) → (c.stop = none ∨ c.step.isSome = true) → (s.accs.any fun a => a.ctx = cid) = false →
      c.chain = h :: rest → c.atHome h = false → (∀ k ∈ c.validPaths, (c.path k).wait ≠ .matrix) →
      ∃ t c', exec (.visitChainLeg cid) s = .next t ∧ OnlyCtx s t cid c' ∧
        c' = { c with
          depart := some ⟨.chain, c.chainEntry, h.1, h.2⟩
          place := .pending
          stall := 3
          since := if c.place = .active then s.now c.gc else c.since }) ∧
    (∀ (cid nb : Nat) (c : Ctx), s.ctx? cid = some c → (c.path c.firstPath).wait = .join nb → c.splitPart = true →
      (c.place = .active ∨ c.place = .pending) → c.stop = none → c.depart = none → c.visits = [] →
      (c.validPaths.all fun e => (c.path e).wait = .join nb && !(c.path e).stopped) = true →
      (s.accs.any fun a => a.ctx = cid) = false → c.slotsClear = true →
      (c.gc ≠ c.baseGc →
        ∃ t c', exec (.joinArrival cid) s = .next t ∧ OnlyCtx s t cid c' ∧
          c' = { c with
            depart := some ⟨.join, c.firstPath, gsOf c.baseGc, some c.baseGc⟩
            place := .pending
            stall := 3
            since := if c.place = .active then s.now c.gc else c.since }) ∧
      (∀ tm : Team, c.gc = c.baseGc → s.team? c.team = some tm →
        (let there := addNew (mget tm.joins (joinKey nb c.gidx) []) cid
         let parts := there.filterMap fun k => (s.ctx? k).map fun d => (k, d)
         let lanes : Mask := there.foldl (fun m k => m ||| ((s.ctx? k).map (·.lanes)).getD 0) 0
         (s.groupLanes c.team c.gidx &&& ~~~lanes ≠ 0 → ∃ t, exec (.joinArrival cid) s = .next t ∧
           t.team? c.team = some { tm with joins := mput tm.joins (joinKey nb c.gidx) there } ∧ (∀ k, t.ctx? k = s.ctx? k) ∧
           (tm.saved = none → t.mem = s.mem)) ∧
         (∀ k d, s.groupLanes c.team c.gidx &&& ~~~lanes = 0 → s.frozen c = false → (parts.all fun x => x.2.residentOn c.baseGc) = true →
           leastBy (fun a b : Nat × Ctx => decide (a.2.part ≤ b.2.part)) parts = some (k, d) →
           (let others := parts.filter fun x => x.1 ≠ k
            ∃ t m, exec (.joinArrival cid) s = .next t ∧ t.ctx? k = some m ∧ (∀ x ∈ others, t.ctx? x.1 = none) ∧
              (∀ j, j ∉ there → t.ctx? j = s.ctx? j) ∧ m.splitPart = false ∧ m.part = 0 ∧ m.nparts = 1 ∧
              m.lanes = others.foldl (fun y x => y ||| x.2.lanes) d.lanes ∧ m.anchor = others.foldl (fun y x => y + x.2.anchor) d.anchor ∧
              m.sregs = d.sregs ∧ m.gc = d.gc ∧ (∀ a, t.byte a = s.byte a) ∧
              t.team? c.team = some { tm with joins := mdel (mput tm.joins (joinKey nb c.gidx) there) (joinKey nb c.gidx) }))))) ∧
    (∀ (cid : Nat) (c : Ctx), s.ctx? cid = some c → c.grow = 16 → c.ext = false → 6 * c.gran ≤ s.freeG c.gc →
      ∃ t, exec (.rstackExtensionClaim cid) s = .next t ∧ OnlyCtx s t cid { c with ext := true, grow := 0, stall := 15 }) ∧
    (∀ (cid : Nat) (c : Ctx) (k : LoopLevel), s.ctx? cid = some c → c.loops.getLast? = some k → c.stop = none →
      (c.validPaths.any fun e => decide (k.start ≤ (c.path e).pc) && decide ((c.path e).pc < k.fin)) = false →
      (∃ e, e < 8 ∧ (c.path e).v = true ∧ (c.path e).hold = true ∧ (c.path e).kind = .loop ∧ (c.path e).pc = k.fin) →
      ∃ t c', exec (.loopIteration cid) s = .next t ∧ OnlyCtx s t cid c' ∧ SameBut c c' ∧
        (∀ e l, (c.path e).v = true → (c.path e).hold = true → (c.path e).kind = .loop → (c.path e).pc = k.fin →
          (c.path e).clause = none → (c.path e).mask.getLsbD l = true →
          LaneAt c' l (if 1 < k.lc then k.start else k.fin)) ∧
        (1 < k.lc → c'.loops = c.loops.dropLast ++ [{ k with lc := k.lc - 1 }])) ∧
    (∀ (cid entry : Nat) (c : Ctx), s.ctx? cid = some c → (c.path entry).v = true → (c.path entry).hold = true → entry < c.paths.length →
      c.stop = none → (c.path entry).stopped = false →
      (entry < 8 → (c.path entry).kind = .ninth → c.freePaths ≠ [] → ∃ t, exec (.ninthPathRelease cid entry) s = .next t ∧
        OnlyCtx s t cid (c.setPath entry { c.path entry with hold := false, kind := .none })) ∧
      ((c.path entry).kind = .join → (c.path entry).clause = none → 4096 ≤ s.now c.gc - (c.path entry).since → ∃ t c', exec (.joinHoldTimeout cid entry) s = .next t ∧
        OnlyCtx s t cid c' ∧ SameBut c c' ∧ ∀ l, (c.path entry).mask.getLsbD l = true → LaneAt c' l (c.path entry).pc)) ∧
    (∀ (msg : Nat) (b : BarMsg) (tm : Team), (s.bars.find? fun x => x.id = msg) = some b → s.team? b.team = some tm →
      s.barDue b = true →
      (let r := mget tm.bars b.nb BarRec.empty
       let arrived := mset r.arrived b.gidx (mget r.arrived b.gidx 0 ||| b.lanes) 0
       let all := tm.left.all (fun g => mget arrived g 0 ≠ 0 && s.groupLanes b.team g &&& ~~~mget arrived g 0 = 0) &&
         !(s.bars.any fun x => x.id ≠ msg && x.team = b.team && x.nb = b.nb)
       ∃ t tm', exec (.barrierArrival msg) s = .next t ∧ t.bars = s.bars.filter (fun x => x.id ≠ msg) ∧ t.team? b.team = some tm' ∧
         t.ctxs = s.ctxs ∧ (tm.saved = none → t.mem = s.mem) ∧
         (all = false → (mget tm'.bars b.nb BarRec.empty).arrived = arrived ∧ (mget tm'.bars b.nb BarRec.empty).gen = r.gen) ∧
         (all = true → arrived ≠ [] → (mget tm'.bars b.nb BarRec.empty).arrived = [] ∧ (mget tm'.bars b.nb BarRec.empty).gen = r.gen + 1 ∧
           t.rels.map (·.ctx) = s.rels.map (·.ctx) ++ (s.ctxs.filter fun kc => kc.2.team = b.team && kc.2.paths.any fun p => p.awaits b.nb r.gen).map (·.1)))) ∧
    (∀ (cid entry nb gen : Nat) (dst : Option Nat) (lanes : Mask) (c : Ctx) (tm : Team), s.ctx? cid = some c →
      (c.path entry).wait = .barrier nb gen dst lanes → s.team? c.team = some tm → c.stop = none →
      (c.place = .active ∨ c.place = .pending) → (c.path entry).stopped = false →
      (let r := mget tm.bars nb BarRec.empty
       let res := mget r.results gen (0, 0)
       let told := s.rels.find? fun x => x.ctx = cid && x.nb = nb && x.gen = gen
       (∀ x, told = some x → gen < r.gen → s.replyDue x.src x.dst x.id = true → gsOf c.gc ≠ x.dst →
         ∃ t, exec (.barrierRelease cid entry) s = .next t ∧ t.ctxs = s.ctxs ∧
           t.rels = s.rels.filter (fun y => y.id ≠ x.id) ++ [{ x with id := s.nextId, src := x.dst, dst := gsOf c.gc }]) ∧
       (gen < r.gen → (∀ x, told = some x → s.replyDue x.src x.dst x.id = true ∧ gsOf c.gc = x.dst) → ∃ t c', exec (.barrierRelease cid entry) s =
           .next (if dst.isSome = true then t.watchAll cid entry ((lanesOf (lanes &&& c.lanes)).map fun l => (l, res.2)) else t) ∧
         OnlyCtx { s with rels := t.rels, pkgs := t.pkgs } t cid c' ∧
         t.rels = s.rels.filter (fun y => told.map (·.id) ≠ some y.id) ∧
         (∀ q l, l < 64 → c'.v q l = if dst = some q ∧ lanes.getLsbD l = true ∧ c.lanes.getLsbD l = true then res.1 else c.v q l) ∧
         (∀ l, (c.path entry).v = true → (c.path entry).clause = none → (c.path entry).mask.getLsbD l = true → LaneAt c' l (c.path entry).pc)))) ∧
    (∀ (j : Nat) (w : JoinkWait) (c : Ctx), (s.joinks.find? fun x => x.id = j) = some w → s.ctx? w.ctx = some c →
      (let comp := s.slotComp w.gs w.nslot
       comp % 16 ≠ 1 → comp % 16 ≠ 2 → w.dst + 1 < 32 →
       ∃ t c', exec (.joinkAnswer j) s = .next t ∧ t.joinks = s.joinks.filter (fun x => x.id ≠ j) ∧ t.ctx? w.ctx = some c' ∧ (∀ k, k ≠ w.ctx → t.ctx? k = s.ctx? k) ∧
         ((s.saves.all fun i => !i.taken.contains w.ctx) = true → { t with ctxs := s.ctxs, joinks := s.joinks } = s) ∧
         c'.sreg w.dst = BitVec.ofNat 32 comp ∧ c'.sreg (w.dst + 1) = BitVec.ofNat 32 (comp / 2 ^ 32) ∧
         (∀ k, k ≠ w.dst → k ≠ w.dst + 1 → c'.sreg k = c.sreg k) ∧ (∀ k, mget c'.wslot k 0 = mget c.wslot k 0 - if k = w.slot then 1 else 0)))

namespace Sys2Proof.Certificates

open Sys2Proof Sys2Proof.Machine

/-- Only registers and units of stacks differ. -/
def OnlyStks (s t : State) : Prop := { t with stks := s.stks } = s

/-- A stream's span is checked where it is not empty (04 R86, check 1). -/
def StreamOk (a : Asker) (s : State) (va n : Nat) (t : State) : Prop := if n = 0 then t = s else s.streamCheck a va n = (t, none)

/-- A field of a block of bytes. -/
def field (bs : List Byte) (o n : Nat) : Nat := ofBytes ((bs.drop o).take n)

/-- A bank launch passes every check of Table 4-11: descriptor `db`, arguments `ab`, program `pb`; its row set stands in chunks `hs`. -/
def BankAccepts (s : State) (gs : Nat) (l : Launch) (db ab pb : List Byte) (hs : List Nat) (t : State) : Prop :=
  let a : Asker := ⟨gs, none, l.pslot, l.user⟩
  let d := field db 0 8
  let nw := bits d 16 9
  let u := field ab 8 4
  let ws := words64 pb
  l.khandle % 64 = 0 ∧ l.args % 64 = 0 ∧
  (∃ s1 s2 s3 s4 s5 s6, s.readSpan a 1 l.khandle 64 = (s1, .ok db) ∧ s1.readSpan a 1 l.args 320 = (s2, .ok ab) ∧
    s2.readSpan a 1 (field db 8 8) (8 * nw) = (s3, .ok pb) ∧ StreamOk a s3 (field ab 16 8) (8 * u * 512 * field ab 12 1 * 32) s4 ∧
    StreamOk a s4 (field ab 24 8) (8 * u * field ab 13 1 * 32) s5 ∧ StreamOk a s5 (field ab 32 8) (if field ab 32 8 = 0 then 0 else 512 * 32) s6 ∧
    s6.rowChunks gs a (field ab 0 8) u 0 = (t, .ok hs)) ∧
  (d / 2 ^ 25 = 0 ∧ bits d 8 8 = 0 ∧ field db 16 48 = 0 ∧ field ab 14 2 = 0 ∧ field ab 40 24 = 0) ∧
  (field db 0 1 = 2 ∧ 1 ≤ nw ∧ nw ≤ 256 ∧ 1 ≤ u ∧ u ≤ 3072 ∧ field ab 12 1 ≤ 8 ∧ field ab 13 1 ≤ 8 ∧ wbCount ws 3 ≤ field ab 12 1 ∧
    wbCount ws 4 ≤ field ab 13 1 ∧ field db 8 8 % 8 = 0 ∧ field ab 16 8 % 32 = 0 ∧ field ab 24 8 % 32 = 0 ∧ field ab 32 8 % 32 = 0) ∧
  (∀ w ∈ ws, bankWordCode w = 0) ∧ field ab 0 8 % 2 ^ 25 = 0

/-- No host write that may perform waits at stack `gs`. -/
def NoHostWaits (s : State) (gs : Nat) : Prop := ∀ m ∈ s.chan, m.dst = gs → ∀ p ref data q, m.body = .hostWrite p ref data q → m.held.isSome = true

/-- The word `x` of a pass ran in every bank in ascending order: bank `b` met state `f b`, its unit and T follow from its column there, and the
result stream of WRES word `i` took T (04 R74-R76). -/
def CycleRun (gs : Nat) (r r' : BankRun) (l : Launch) (x : BitVec 64) (i j : Nat) (f : Nat → State) (w : Map (BitVec 256)) : Prop :=
  let n := x.toNat
  let ran (b : Nat) := bankWord r.q x ((f b).fetchColumn gs r true b (bits n 53 8)) (mget r.units b BankUnit.zero)
  r'.col = r.col + 1 ∧ r'.inPass = r.inPass ∧ r'.pass = r.pass ∧ r'.words = r.words ∧ r'.chunks = r.chunks ∧
  r'.flags = (List.range 512).foldl (fun fl b => fl ||| (ran b).2.2) r.flags ∧
  (∀ b, b < 512 → mget r'.units b BankUnit.zero = (ran b).1 ∧
    f (b + 1) = (if bits n 13 3 = 3 ∧ i < r.rper then (f b).streamStore gs r.launch l (r.rbase + ((r.pass * 512 + b) * r.rper + i) * 32) (ran b).2.1 else f b)) ∧
  (∀ k, mfind w k = if bits n 13 3 = 1 ∧ k < 131072 ∧ k % 256 = bits n 5 8 then some (ran (k / 256)).2.1 else mfind r.writes k) ∧
  r'.reds = (if bits n 13 3 = 4 then r.reds ++ (List.range 512).map fun b => (b, j, (ran b).2.1) else r.reds)

end Sys2Proof.Certificates

open Sys2Proof Sys2Proof.Machine Sys2Proof.Certificates in
/-- 04 R65-R76, R81-R88: DOORBELL queues a launch, or sets DROP where its slot's is queued or running; BANK_LAUNCH_START starts a launch that
passes its checks (the 0x07 of a misaligned descriptor with its handle in FINFO is logs 40 and 68); BANK_PASS_START reads every bank's row
state; BANK_COLUMN_CYCLE runs one word in the native banks, and with the last writes their rows; ROW_EMULATION_END the lowest bank due, or
skips it; BANK_PASS_END closes the rows and writes the reduction stream (log 70's sums), and BANK_LAUNCH_COMPLETE ends the launch DONE. -/
def Obligations.BankEventsComplete : Prop :=
  ∀ (s : State) (gs : Nat),
    (∀ page slot kh args : Nat, page < 16 → slot < 64 → kh < 2 ^ 64 → args < 2 ^ 64 →
      (let key := nslotKey page slot
       let n := mget (s.stk gs).nslots key NSlot.reset
       (∀ l, s.launch? n.launch = some l → l.busy = true → s.booted (pkgOf gs) = true → ∃ t, exec (.doorbell gs page slot kh args) s = .next t ∧ OnlyStks s t ∧
         mget (t.stk gs).nslots key NSlot.reset = { n with drop := true }) ∧
       (s.booted (pkgOf gs) = false → exec (.doorbell gs page slot kh args) s = .next s) ∧
       ((∀ l, s.launch? n.launch = some l → l.busy = false) → s.booted (pkgOf gs) = true → ∃ t l, exec (.doorbell gs page slot kh args) s = .next t ∧
         t.launch? s.nextId = some l ∧ l.state = .queued ∧ l.khandle = kh ∧ l.args = args ∧ l.pslot = page ∧ l.user = true ∧ l.src = .notify gs key ∧
         mget (t.stk gs).nslots key NSlot.reset = ⟨s.nextId, false⟩ ∧ (∀ k, k ≠ s.nextId → t.launch? k = s.launch? k) ∧ t.ctxs = s.ctxs ∧ t.mem = s.mem))) ∧
    (∀ (r : BankRun) (rest : List BankRun), (s.stk gs).bankQueue = r :: rest → s.bankHeld gs r = false →
      (let w := r.words[r.col]?
       let row := r.row r.pass
       let free (l : Launch) := l.desc.agent = true ∨ (s.stk gs).lines.any (fun x => x.1 = l.pslot) = false
       (∀ l db ab pb hs u, r.started = false → s.earlierBank gs r.launch = false → s.launch? r.launch = some l → free l →
         BankAccepts s gs l db ab pb hs u →
         ∃ t r', exec (.bankLaunchStart gs) s = .next t ∧ (t.stk gs).bankQueue = r' :: rest ∧ r'.started = true ∧ r'.words = words64 pb ∧ r'.chunks = hs ∧
           t.launch? r.launch = some { l with state := .running } ∧ t.mem = s.mem) ∧
       (∀ l, r.started = false → s.earlierBank gs r.launch = false → s.launch? r.launch = some l → free l → l.khandle % 64 ≠ 0 →
         ∃ t, exec (.bankLaunchStart gs) s = .next t ∧
         (t.stk gs).bankQueue = rest ∧ t.launch? r.launch = some { l with state := .refused, status := 0x07, finfo := l.khandle }) ∧
       (r.started = true → r.inPass = false → r.pass < 8 * r.chunks.length → (s.stk gs).visiting = [] → (s.stk gs).preds = [] →
         ∃ t r', exec (.bankPassStart gs) s = .next t ∧ OnlyStks s t ∧ (t.stk gs).bankQueue = r' :: rest ∧ r'.inPass = true ∧ r'.col = 0 ∧
           ∀ b, b < 512 → r'.mode b = if mget (s.stk gs).poisoned (rowKey b row) false = true then .skipped
             else if mget (s.stk gs).unclean (rowKey b row) false = true then .emulated else .native) ∧
       (∀ x l, w = some x → r.inPass = true → s.launch? r.launch = some l → s.unitSpent (.bankUnits gs) r.launch = false → r.modes = [] →
         ∃ f r' wr, f 0 = s ∧ CycleRun gs r r' l x (wbCount (r.words.take r.col) 3) (wbCount (r.words.take r.col) 4) f wr ∧
           (let v := (f 512).countUnit (.bankUnits gs) r.launch
            if r.col + 1 < r.words.length then r'.writes = wr ∧ exec (.bankColumnCycle gs) s = .next (v.setBankHead gs r')
            else r'.writes = [] ∧ exec (.bankColumnCycle gs) s = .next (((v.commitWrites gs row wr).setBankHead gs r').flushStreams gs))) ∧
       (∀ x l, w = some x → r.inPass = true → s.launch? r.launch = some l → s.unitSpent (.bankUnits gs) r.launch = false → (∀ g, (s.stk g).preds = []) →
         ∃ t r', exec (.bankColumnCycle gs) s = .next t ∧ (t.stk gs).bankQueue = r' :: rest ∧ r'.col = r.col + 1 ∧
         r'.inPass = true ∧ r'.pass = r.pass ∧ t.ctxs = s.ctxs ∧
         (bits x.toNat 13 3 ≠ 3 → r.modes = [] → ∀ b, b < 512 → s.columnError (colPa gs b row (bits x.toNat 53 8)) = none →
           (let c := 256 * b + bits x.toNat 53 8
            let v := (mfind r.writes c).getD (BitVec.ofNat 256 (s.num (colPa gs b row (bits x.toNat 53 8)) 32))
            mget r'.units b BankUnit.zero = (bankWord r.q x v (mget r.units b BankUnit.zero)).1))) ∧
       (∀ b l, r.inPass = true → s.launch? r.launch = some l → (∀ g, (s.stk g).preds = []) →
         ((List.range 512).find? fun k => r.mode k = .emulated && !r.emuDone.contains k) = some b →
         ∃ t r', exec (.rowEmulationEnd gs) s = .next t ∧ (t.stk gs).bankQueue = r' :: rest ∧
           (s.rowLost gs b row = true → r'.mode b = .skipped ∧ r'.skipped = r.skipped + 1 ∧ r'.emulated = r.emulated ∧
             mget (t.stk gs).poisoned (rowKey b row) false = true) ∧
           (s.rowLost gs b row = false → r'.emuDone = r.emuDone ++ [b] ∧ r'.emulated = r.emulated + 1 ∧ r'.skipped = r.skipped)) ∧
       (∀ l, r.inPass = true → r.words.length ≤ r.col → (∀ m ∈ r.modes, m.2 = .emulated → m.1 ∈ r.emuDone) → s.launch? r.launch = some l →
         (∀ g, (s.stk g).preds = []) →
         ∃ t, exec (.bankPassEnd gs) s = .next t ∧ (t.stk gs).bankQueue = { r with inPass := false, pass := r.pass + 1 } :: rest ∧ (t.stk gs).openRow = [] ∧
           t = (List.range (wbCount r.words 4)).foldl (fun u i => u.streamStore gs r.launch l (r.dbase + (r.pass * r.dper + i) * 32)
             (redSum (redType r.words i) (((r.reds.filter fun x => x.2.1 = i).foldl (fun xs x => insertBank (x.1, x.2.2) xs) []).map (·.2))))
             (((s.updStk gs fun k => { k with openRow := [] }).setBankHead gs { r with inPass := false, pass := r.pass + 1 }).flushStreams gs) ∧
           (wbCount r.words 4 = 0 → (s.stk gs).streams = [] → NoHostWaits s gs → t.mem = s.mem)) ∧
       (∀ l, r.started = true → r.inPass = false → 8 * r.chunks.length ≤ r.pass → s.launch? r.launch = some l → (∀ g, (s.stk g).preds = []) →
         (let u := if r.aout = 0 then s else
            (List.range 512).foldl (fun s b => s.streamStore gs r.launch l (r.aout + b * 32) (mget r.units b BankUnit.zero).a) s
          (u.stks.any fun kk => kk.2.streams.any fun x => x.launch = r.launch) = false →
         ∃ t l', exec (.bankLaunchComplete gs) s = .next t ∧ (t.stk gs).bankQueue = rest ∧ t.launch? r.launch = some l' ∧ l'.state = .done ∧
           l'.status = (if l.status = 0 ∧ r.skipped ≠ 0 then 0x65 else l.status) ∧ l'.emulated = r.emulated ∧ l'.skipped = r.skipped ∧
           l'.flags = r.flags.toNat ∧ l'.finfo = r.poisonPa gs)))) ∧
    (∀ (row : Nat) (wr : Map (BitVec 256)), risesFrom 0 wr = true → ∀ k x, mfind wr k = some x → k < 131072 → ∀ i, i < 32 →
      (s.commitWrites gs row wr).byte (colPa gs (k / 256) row (k % 256) + i) = BitVec.ofNat 8 (x.toNat / 256 ^ i)) ∧
    (∀ (lk va ref : Nat) (l : Launch) (x : BitVec 256) (u : State), s.probeVa ⟨gs, none, l.pslot, l.user⟩ ⟨2, 32, true, true, false⟩ va = (u, .ok (ref, 0)) →
      u.refBusy ref = false → (u.stk (paGs (refPa ref))).streams = [] → (u.stk (paGs (refPa ref))).preds = [] → isRecord (refPa ref) = false →
      (s.streamStore gs lk l va x).mem = writeCells u.mem ref (bytesOf 32 x.toNat))

open Sys2Proof Sys2Proof.Machine Sys2Proof.Certificates in
/-- 04 R77-R80, R405, 05 R90: the scrubber visits a bank's rows in turn and leaves each clean, or poisoned where it is lost; SEASON_BOUNDARY begins a
season; a refresh closes the open row; SOFT_ERROR strikes a column, whose stored value is log 2's free value; an uncorrectable mesh error
raises the partition's halt line with 0x41, on the stacks that log 16 takes to be the partition's. -/
def Obligations.DramEventsComplete : Prop :=
  ∀ (s : State) (gs bank : Nat),
    (let k := s.stk gs
     let row := mget k.nextRow bank 0
     (bank < 512 → row < 24576 → s.bankBusy gs bank = false → ∃ t, exec (.scrubVisitStart gs bank) s = .next t ∧ OnlyStks s t ∧
       mget (t.stk gs).visiting bank 0 = row + 1 ∧ mget (t.stk gs).nextRow bank 0 = row + 1 ∧ mget (t.stk gs).unclean (rowKey bank row) false = true) ∧
     (∀ v, mget k.visiting bank 0 = v + 1 → k.streams = [] → NoHostWaits s gs → ∃ t, exec (.scrubVisitEnd gs bank) s = .next t ∧ t.mem = s.mem ∧ t.ctxs = s.ctxs ∧
       mget (t.stk gs).visiting bank 0 = 0 ∧ mget (t.stk gs).openRow bank 0 = 0 ∧
       mget (t.stk gs).unclean (rowKey bank v) false = s.rowLost gs bank v ∧ mget (t.stk gs).poisoned (rowKey bank v) false = s.rowLost gs bank v) ∧
     (∃ t, exec (.seasonBoundary gs) s = .next t ∧ OnlyStks s t ∧ (t.stk gs).nextRow = [] ∧ (t.stk gs).certified = [] ∧
       (t.stk gs).seasons = (k.seasons + 1) % 2 ^ 32 ∧
       (t.stk gs).inforce = if k.season = 0 ∧ (s.pkg (pkgOf gs)).cap ≠ 0 then 1 else k.season) ∧
     (∃ t, exec (.dramRefresh gs bank) s = .next t ∧ OnlyStks s t ∧ mget (t.stk gs).openRow bank 0 = 0 ∧
       ∀ b, b ≠ bank → mget (t.stk gs).openRow b 0 = mget k.openRow b 0) ∧
     (∀ v, ∃ t, exec (.scrubCtlWrite gs v) s = .next t ∧ OnlyStks s t ∧ (t.stk gs).season = v % 4 ∧ (t.stk gs).inforce = k.inforce) ∧
     (∀ r col : Nat, ∀ bad : Bool, bank < 512 → r < 24576 → col < 256 → ∃ t, exec (.softError gs bank r col bad) s = .next t ∧
       { t with stks := s.stks, freeCount := s.freeCount } = s ∧
       ∃ b, ((mget (t.stk gs).errs (rowKey bank r) []).find? fun x => x.1 = col) = some (col, b, Config.freeNat s.freeCount) ∧ (bad = true → b = true)) ∧
     (∀ pkg p : Nat, ∃ t, exec (.meshUncorrectable pkg (some p)) s = .next t ∧ t.ctxs = s.ctxs ∧
       ∀ g ∈ s.partStacks p, pkgOf g = pkg → ((t.stk g).lines.any fun l => l.1 = p) = true ∧
         (((s.stk g).firsts.any fun f => f.1 = p) = false → (t.stk g).firsts = (s.stk g).firsts ++ [(p, 0x41)])) ∧
     (∀ pkg : Nat, s.slotsOn pkg = [] → ∃ t, exec (.meshUncorrectable pkg none) s = .next t ∧ t.stks = s.stks))

open Sys2Proof Sys2Proof.Machine Sys2Proof.Certificates in
/-- 05 R94-R101: a channel delivers the flit it expects, counts duplicates and errors, and replays or frees what a NAK or an ACK names; its timers send
ACKs and start replays; sixteen replays switch to the spare and then retrain; TRAINING brings a channel up from number 0 and records the
peer's count, the first of them too (log 93); a replay or a training puts its flits on the fibre at once (log 45); LOSS_OF_LIGHT and PEER_DOWN
take channels down. -/
def Obligations.ChannelEventsComplete : Prop :=
  ∀ (s : State) (ch : Nat), chPeer ch < 64 →
    (let l := s.chan? ch
     let k := s.pkg (chPkg ch)
     (∀ flit, flitKind flit = none → ∃ t, exec (.channelFlitReceive ch flit) s = .next t ∧
       mget (t.pkg (chPkg ch)).crcerr (chPlane ch) 0 = mget k.crcerr (chPlane ch) 0 + 1 ∧ (l.switching = false → (t.chan? ch).nakOut = true) ∧ t.mem = s.mem) ∧
     (∀ flit kind, flitKind flit = some kind →
       (let f := flitOf flit kind
        (f.inc ≠ s.pinc (chPkg ch) (chPeer ch) → ∃ t, exec (.channelFlitReceive ch flit) s = .next t ∧ (t.pkg (chPkg ch)).stale = k.stale + 1 ∧ t.chan? ch = l) ∧
        (f.inc = s.pinc (chPkg ch) (chPeer ch) →
          (9 ≤ kind → ∃ t, exec (.channelFlitReceive ch flit) s = .next t ∧ mget (t.pkg (chPkg ch)).badkind (chPlane ch) 0 = mget k.badkind (chPlane ch) 0 + 1) ∧
          (kind < 6 → s.exchanged ch = true → f.seq = l.expect →
            (let g : Flit := { f with tag := s.tagOf ch f }
             ∃ u : State, exec (.channelFlitReceive ch flit) s = .next (u.handOver (chPkg ch) g) ∧ { u with pkgs := s.pkgs } = s ∧
              (u.pkg (chPkg ch)).delivered = k.delivered ++ [(ch, g)] ∧ (u.chan? ch).expect = (l.expect + 1) % 4096 ∧ (u.chan? ch).nakOut = false)) ∧
          (kind < 6 → s.exchanged ch = true → f.seq ≠ l.expect → (l.expect + 4096 - f.seq) % 4096 ≤ 2048 → ∃ t, exec (.channelFlitReceive ch flit) s = .next t ∧
            mget (t.pkg (chPkg ch)).dup (chPlane ch) 0 = mget k.dup (chPlane ch) 0 + 1 ∧ t.chan? ch = l) ∧
          (∀ rest, kind = 6 → afterSeq f.seq l.retry = some rest → ∃ t fs, exec (.channelFlitReceive ch flit) s = .next t ∧
            (t.chan? ch).retry = rest ++ fs ∧ (t.chan? ch).out = l.out ++ fs ∧ (t.chan? ch).queue.length + fs.length = l.queue.length ∧
            (t.chan? ch).replays = 0) ∧
          (∀ rest, kind = 7 → afterSeq f.seq l.retry = some rest → l.switching = false → ∃ t, exec (.channelFlitReceive ch flit) s = .next t ∧
            (t.chan? ch).out = l.out ++ rest ∧ (t.chan? ch).retry = l.retry ∧
            (t.chan? ch).replays = (if l.nakSeq = some f.seq then l.replays else 0) + 1)))) ∧
     (l.sinceAck ≠ 0 → l.switching = false → (32 ≤ l.sinceAck ∨ 64 ≤ s.chNow ch - l.deliveredAt) → ∃ t f, exec (.ackSendTimer ch) s = .next t ∧ (t.chan? ch).sinceAck = 0 ∧
       (t.chan? ch).out = l.out ++ [f] ∧ f.kind = 6 ∧ f.seq = (l.expect + 4095) % 4096) ∧
     (l.up = true → l.switching = false → l.retry ≠ [] → 4096 ≤ s.chNow ch - l.lastHeard → ∃ t, exec (.replayTimeout ch) s = .next t ∧
       (t.chan? ch).out = l.out ++ l.retry ∧ (t.chan? ch).replays = l.replays + 1) ∧
     (l.up = true → l.switching = false → l.training = false → 16 ≤ l.replays → ∃ t, exec (.spareSwitch ch) s = .next t ∧
       t.chan? ch = if l.spare = true then { l with training := true } else { l with switching := true }) ∧
     (l.switching = true → ∃ t fs, exec (.spareSwitchEnd ch) s = .next t ∧ (t.chan? ch).spare = true ∧ (t.chan? ch).switching = false ∧
       (t.chan? ch).out = l.out ++ l.retry ++ fs ∧ (t.chan? ch).replays = 0) ∧
     (l.training = true → s.trains ch = true → s.trains (chBack ch) = true → ∃ t, exec (.retrain ch true) s = .next t ∧ (t.chan? ch).up = true ∧ (t.chan? ch).expect = 0 ∧
       (t.chan? ch).replays = 0 ∧ t.ctxs = s.ctxs ∧ t.mem = s.mem) ∧
     (∀ inc, k.boot = .ready → k.planesBad.getLsbD (chPlane ch) = false → chPkg ch ≠ chPeer ch → chPkg ch < 64 → inc ≠ 0 → inc < 65536 →
       (s.pinc (chPkg ch) (chPeer ch) = 0 ∨ s.pinc (chPkg ch) (chPeer ch) = inc) →
       ∃ t, exec (.training ch inc) s = .next t ∧ t.pinc (chPkg ch) (chPeer ch) = inc ∧ (t.chan? ch).trained = true ∧ (t.chan? ch).up = true ∧
         (t.chan? ch).expect = 0 ∧ t.mem = s.mem) ∧
     (∃ t, exec (.lossOfLight ch) s = .next t ∧ t.chan? ch = { l with up := false, dark := true } ∧ { t with pkgs := s.pkgs } = s) ∧
     (∀ pkg peer, peer < 64 → ((List.range 8).any fun p => (s.link pkg p peer).trained && (s.link pkg p peer).dark) = true →
       ∃ u : State, exec (.peerDown pkg peer) s = .next (u.peerLost pkg peer none) ∧ { u with pkgs := s.pkgs } = s ∧
         ∀ p, p < 8 → (u.link pkg p peer).up = false ∧ (u.link pkg p peer).dark = false))

namespace Sys2Proof.Certificates

open Sys2Proof Sys2Proof.Machine

/-- No predicate of any core or home watches. -/
def NoPreds (s : State) : Prop := (∀ gc, (s.core gc).preds = []) ∧ ∀ gs, (s.stk gs).preds = []

/-- The team of a command still has groups. -/
def GroupsLeft (s : State) (c : Cmd) : Prop := ∀ tm, s.team? c.team = some tm → tm.left ≠ []

/-- The end of a command kills no other team: its own still has groups, or its launch kills no siblings (14 R318). -/
def Lone (s : State) (c : Cmd) : Prop :=
  ∀ tm, s.team? c.team = some tm → tm.left ≠ [] ∨ ((s.launch? tm.launch).map (·.desc.killsib)).getD false = false

/-- A command is over: it is gone, and the wait slot that counts it falls by one; memory is as before where its team goes on and no image and no
stop is under way that its end or its report could reach. -/
def Over (s t : State) (c : Cmd) : Prop :=
  t.cmd? c.id = none ∧ (s.saves = [] → s.stops = [] → GroupsLeft s c → t.mem = s.mem) ∧
    ∀ k x, Lone s c → c.slot = some k → c.ctx ∉ c.also → s.ctx? c.ctx = some x → ∃ x', t.ctx? c.ctx = some x' ∧ mget x'.wslot k 0 = mget x.wslot k 0 - 1

/-- A command refused at its start is over; where its team goes on, a report of it waits for its group. -/
def RefusedWith (s t : State) (c : Cmd) (tm : Team) (code cause acls addr : Nat) : Prop :=
  Over s t c ∧ (tm.left ≠ [] → (s.reports.all fun r => r.cmd ≠ c.id || r.gidx ≠ c.gidx) = true →
    ∃ r ∈ t.reports, r.cmd = c.id ∧ r.gidx = c.gidx ∧ r.code = code ∧ r.cause = cause ∧ r.acls = acls ∧ r.addr = addr ∧ r.receiver = none)

/-- A command has started, and nothing else has changed. -/
def Starts (s t : State) (c : Cmd) : Prop := t.cmd? c.id = some { c with started := true } ∧ { t with cmds := s.cmds } = s

/-- Places of a command in this package whose banks are free and which no older message to their stack comes before. -/
def Near (s : State) (c : Cmd) (ps : List (Part × Spot)) : Prop := (ps.all fun p => !p.2.far && !s.spotBusy c p.2) = true

/-- It is the turn of a collective's step in the arrays (11 R237). -/
def ArrayTurn (s : State) (c : Cmd) : Prop :=
  ∀ d, (s.stampSteps c.gc).cmd? c.id = some d → (s.stampSteps c.gc).arrayTurn d = true

/-- The lowest sector still to be read. -/
def NextSector (c : Cmd) (i : Nat) (x : Sector) : Prop :=
  c.sectors.findIdx? (fun y => y.st = .waiting && y.held.isNone) = some i ∧ c.sectors[i]? = some x

/-- Sector `i` of a command holds what was read. -/
def gotSector (c : Cmd) (i : Nat) (x : Sector) (data : List (Nat × Byte)) (bad : Bool) : Cmd :=
  c.setSector i { x with st := .read, shown := 0, probed := none, data := data, poison := bad }

/-- Element `64 r + n` of a tile after a step on it: row `r` of its A and column `n` of B, scaled, into the old element (11 R245, R246). -/
def stepElem (s : State) (gc w : Nat) (parts : List QuadPart) (p : QuadPart) (r n : Nat) : Word :=
  let area := 16 * fwSbase w
  let a := opVals (fwA w) (fun j => s.scaleNum gc (area + aScaleAt w p.q r j) (scaleBytes (fwA w)))
    (aCodes w ((parts.map fun y => (y.a, y.b)).getD p.q ([], [])).1 r)
  let b := opVals (fwB w) (fun j => s.scaleNum gc (area + bScaleAt w n j) (scaleBytes (fwB w))) ((parts.map (·.b)).flatMap fun img => bCodes w img n)
  BitVec.ofNat 32 (kElem w p.md p.sk.toNat ((s.tile gc p.tile).getD (64 * r + n) 0).toNat a b).1

end Sys2Proof.Certificates

open Sys2Proof Sys2Proof.Machine Sys2Proof.Certificates in
/-- 09 R192, R194, R201, R202, 05 R103: COPY_START refuses what 09 R201 refuses or lays out the sectors; a sector is read, or parks with a report;
a sector read is written at its home; a peer home serves the reads and writes sent to it and acknowledges them. -/
def Obligations.CopyEventsComplete : Prop :=
  ∀ (s : State) (c : Cmd) (tm : Team) (k : CopyOp), s.cmd? c.id = some c → s.team? c.team = some tm → tm.saved = none → c.kind = .copy k →
    (s.runs c = true →
      (let idx := if k.listOk tm then s.indices tm k else []
       let xs := sectorsOfRuns (k.runs idx)
       let xs := if k.form = .fill then xs.map (fillSector k.pattern) else xs
       c.started = false → s.mayStart c = true → k.listSpan tm = [] ∨ NoPreds s →
        (∀ cause addr, copyRefusal tm k idx = some (cause, addr) → ∃ t, exec (.copyStart c.id) s = .next t ∧
          RefusedWith s t c tm 0x60 cause (if k.dstSp = 0 then 6 else 5) addr) ∧
        (copyRefusal tm k idx = none → xs ≠ [] → ∃ t c', exec (.copyStart c.id) s = .next t ∧
          t.cmd? c.id = some c' ∧ c'.started = true ∧ c'.sectors = xs ∧ t.mem = s.mem ∧ t.ctxs = s.ctxs)) ∧
      (∀ i x u, NextSector c i x → sourceWaits k (c.sectors.take i) x = false →
        (∀ ps v data bad, s.partSpots c tm 5 k.srcSp x.parts = (u, .ok ps) → Near u c ps → NoPreds u → u.readParts c tm ps = (v, data, bad) →
          exec (.copySectorIssue c.id) s = .next (v.setCmd (gotSector c i x data bad))) ∧
        (∀ addr m, s.partSpots c tm 5 k.srcSp x.parts = (u, .error (addr, m)) → x.queued = true ∨ u.queueFull c.gc = false → ∃ r v,
          u.reportElem c c.gidx 0x60 m.1 m.2 5 0 addr 0 = (r, v) ∧
          exec (.copySectorIssue c.id) s = .next (v.setCmd (c.setSector i (x.park m.1 r))))) ∧
      (∀ i x u p v, c.sectors[i]? = some x → x.st = .read → x.held = none → s.spotOf c tm 6 k.dstSp (x.dst + x.cover.1) x.cover.2 = (u, .ok p) →
        u.sectorTurn c tm k.dstSp k.ord i p.home = true → u.spotBusy c p = false → p.far = false → u.sectorWrite c tm x 4 p = (v, none) →
        exec (.copySectorLand c.id i) s = .next ((v.sectorDone c i x).skidEngine c 1))) ∧
    (∀ msg m i x, (s.chan.find? fun y => y.id = msg) = some m → c.sectors[i]? = some x → x.st = .sent → x.probed.map (·.1) = some m.id → s.tileTurn m c i = true →
      s.tileBusy [(i, x)] = false → NoPreds s →
      (∀ v data bad, m.body = .tileRead c.id [i] → s.tileTurn m c 0 = true →
         s.readParts c tm ((x.parts.zip x.refs).map fun p => (p.1, Spot.ref p.2 1 0)) = (v, data, bad) →
         ∃ t c', exec (.tileReadServe msg) s = .next t ∧ t.chan = s.chan.filter (fun y => y.id ≠ msg) ∧ t.mem = v.mem ∧ t.ctxs = s.ctxs ∧
           t.cmd? c.id = some c' ∧ c'.sectors[i]? = some { x with
             data := data
             poison := bad
             shown := 0
             probed := none
             refs := []
             reply := some (s.nextId, m.dst) }) ∧
      (m.body = .tileWrite c.id [i] → c.tooEarly [i] = false →
         ∃ t c', exec (.tileWriteServe msg) s = .next t ∧ t.chan = s.chan.filter (fun y => y.id ≠ msg) ∧
           t.mem = (s.writeMasked (x.refs.headD 0 - x.cover.1) x.data x.poison).mem ∧ t.ctxs = s.ctxs ∧
           t.cmd? c.id = some c' ∧ c'.sectors[i]? = some { x with
             shown := 0
             probed := none
             refs := []
             reply := some (s.nextId, m.dst) }))

open Sys2Proof Sys2Proof.Machine Sys2Proof.Certificates in
/-- 11 R245, R246, R251-R262: K_STEP_END puts a step into the tile of every live group, and the last step ends the collective; a step of MLOOP
starts when its sectors are here; the tile words load, store, zero and scale; MST converts its tile into an entry that its sectors leave. -/
def Obligations.MatrixEventsComplete : Prop :=
  ∀ (s : State) (c : Cmd) (tm : Team), s.cmd? c.id = some c → s.team? c.team = some tm → s.cmdAway tm c = false → s.runs c = true →
    (∀ fmt parts, c.kind = .mma fmt parts → s.mayStart c = true → (parts.any fun p => p.votes) = true → ArrayTurn s c →
      parts.Pairwise (fun a b => a.tile + 0x1000 ≤ b.tile ∨ b.tile + 0x1000 ≤ a.tile) →
      ∃ t, exec (.kStepEnd c.id) s = .next t ∧ t.cmd? c.id = none ∧ (s.saves = [] → GroupsLeft s c → t.mem = s.mem) ∧
        ∀ p ∈ parts, p.live = true → ∀ r n, r < 16 → n < 64 → (t.tile c.gc p.tile).getD (64 * r + n) 0 = stepElem s c.gc fmt.toNat parts p r n) ∧
    (∀ fmt n step parts, c.kind = .mloop fmt n step parts →
      (c.started = true → c.capture = false → ArrayTurn s c → ((c.sectors.filter fun x => x.ofStep step).all fun x => x.st = .read && !x.poison) = true →
        ∃ t, exec (.mloopStepStart c.id) s = .next t ∧ t.cmd? c.id = some { c with capture := true, readyAt := none } ∧
          { t with cmds := s.cmds, cores := s.cores } = s) ∧
      (∀ i x p u ps v data bad, NextSector c i x → (parts.find? fun y => y.q = x.dst / 2 % 4) = some p →
        s.loopSpots (c.as p) tm (descSpace p.dwords (x.dst % 2)) x = (u, .ok ps) → Near u (c.as p) ps → NoPreds u →
        u.readParts (c.as p) tm ps = (v, data, bad) →
        exec (.mloopFetchSector c.id) s = .next ((v.setCmd (gotSector (c.as p) i x data bad)).stampSteps c.gc)) ∧
      (c.capture = true → step + 1 = n → ∃ t, exec (.kStepEnd c.id) s = .next t ∧ t.cmd? c.id = none ∧ (s.saves = [] → GroupsLeft s c → t.mem = s.mem)) ∧
      (c.capture = true → step + 1 ≠ n → ∃ t c' ps, exec (.kStepEnd c.id) s = .next t ∧ t.cmd? c.id = some c' ∧ c'.kind = .mloop fmt n (step + 1) ps ∧
        c'.capture = false ∧ t.mem = s.mem ∧ t.ctxs = s.ctxs)) ∧
    (∀ tr tile off pitch ty, c.kind = .tile (.mld tr tile off pitch ty) →
      (c.started = false → s.mayStart c = true →
        (∀ cause, mldDefect tm tr tile off pitch ty = some cause → ∃ t, exec (.mldStart c.id) s = .next t ∧ RefusedWith s t c tm 0x61 cause 7 off) ∧
        (mldDefect tm tr tile off pitch ty = none → ∃ t, exec (.mldStart c.id) s = .next t ∧ Starts s t c)) ∧
      (c.started = true → NoPreds s → ((mldSpans tr off pitch ty).any fun r => s.teamBad tm r.1 (r.1 + r.2)) = false →
        ∃ t, exec (.tileWordComplete c.id) s = .next t ∧ Over s t c ∧ ∀ i, i < 1024 →
          (let e := if ty = 0 then 4 else 2
           let src := if tr = true then off + i % 64 * pitch + i / 64 * e else off + i / 64 * pitch + i % 64 * e
           (t.tile c.gc (tm.tileAt c.gidx tile).2).getD i 0 = BitVec.ofNat 32 (mldElem ty (ofBytes (s.teamBytes tm src e)))))) ∧
    (s.mayStart c = true →
      (∀ a p vals, c.kind = .tile (.mvacc a p vals) → (vals.map (·.1)).Nodup → ∃ t, exec (.tileWordComplete c.id) s = .next t ∧ Over s t c ∧
        ∀ v ∈ vals, v.1 < 1024 → (t.tile c.gc a).getD v.1 0 = v.2) ∧
      (∀ a p d lanes x, c.kind = .tile (.maccv a p d lanes) → s.ctx? c.ctx = some x → Lone s c → (x.width = 16 ∨ x.width = 32 ∨ x.width = 64) →
        ∃ t x', exec (.tileWordComplete c.id) s = .next t ∧ t.cmd? c.id = none ∧ t.cores = s.cores ∧ t.ctx? c.ctx = some x' ∧
          ∀ y ∈ partElems x.width p (lanes &&& x.lanes), x'.v (d + y.2.2) y.2.1 = (s.tile c.gc a).getD y.1 0) ∧
      (∀ a w rows, c.kind = .tile (.mzero a w rows) → ∃ t, exec (.tileWordComplete c.id) s = .next t ∧ Over s t c ∧
        ∀ r ∈ rows, ∀ n, r < 16 → n < 64 → (t.tile c.gc a).getD (64 * r + n) 0 = w) ∧
      (∀ a fs lanes, c.kind = .tile (.mscl a fs lanes) → (fs.map (·.1)).Nodup → ∃ t, exec (.tileWordComplete c.id) s = .next t ∧ Over s t c ∧
        ∀ f ∈ fs, ∀ n, f.1 < 16 → n < 64 →
          (t.tile c.gc a).getD (64 * f.1 + n) 0 = BitVec.ofNat 32 (msclElem f.2.toNat ((s.tile c.gc a).getD (64 * f.1 + n) 0).toNat).1)) ∧
    (∀ k tile dst pitch off scale seed scnt, c.kind = .mst k tile dst pitch off scale seed scnt →
      (let a := (tm.tileAt c.gidx tile).2
       (c.started = false → s.mayStart c = true →
         (∀ cause, mstDefect s tm c.gc c.gidx k tile dst pitch off = some cause → ∃ t, exec (.mstStart c.id) s = .next t ∧
           RefusedWith s t c tm 0x62 cause 8 dst) ∧
         (mstDefect s tm c.gc c.gidx k tile dst pitch off = none → ∃ t, exec (.mstStart c.id) s = .next t ∧ Starts s t c)) ∧
       (c.started = true → c.sectors = [] → (k.bias = true → NoPreds s ∧ s.teamBad tm off (off + 256) = false) →
         (let bias (i : Nat) : Nat := if k.bias then ofBytes (s.teamBytes tm (off + 4 * i) 4) else 0
          let vals := (s.tile c.gc a).zipIdx.map fun y => epiValue k y.1.toNat scale.toNat (bias (y.2 % 64))
          ∃ t c', exec (.mstCaptureEnd c.id) s = .next t ∧ t.cmd? c.id = some c' ∧ c'.reads = c.reads.filter (fun r => r.region ≠ 1) ∧
            c'.sectors = sectorsOfBytes (mstBytes k dst pitch off vals (fun e => draw seed scnt c.lane e)).1 ∧ t.mem = s.mem ∧ t.ctxs = s.ctxs ∧
            (k.mreq = true → mget (t.core c.gc).marks a false = false))) ∧
       (∀ i x u p v, c.sectors[i]? = some x → x.st = .read → x.held = none → c.saved = false →
         (let y : Sector := { x with dst := (mstPlace k x.dst).2 }
          s.spotOf c tm 8 (mstPlace k x.dst).1 (y.dst + y.cover.1) y.cover.2 = (u, .ok p) → u.spotBusy c p = false → p.far = false →
          u.sectorWrite c tm y 1 p = (v, none) → exec (.epilogueStoreSector c.id i) s = .next ((v.sectorDone c i x).freeCapture c.id)))))

open Sys2Proof Sys2Proof.Machine Sys2Proof.Certificates in
/-- 12 R266-R277: VRSET_START and VRACT_START write the group's record, VRRUN_START takes it; each is refused by Table 12-4. A whole row of the
stream goes to the lowest free queue, a malformed one stops its run; a queue computes every column of its row, whose results are then stored. -/
def Obligations.ValueRunEventsComplete : Prop :=
  ∀ (s : State) (c : Cmd) (tm : Team), s.cmd? c.id = some c → s.team? c.team = some tm → tm.saved = none → s.runs c = true →
    (s.vrReady tm c = true →
      (∀ g cb, c.kind = .vrset g cb →
        (∀ cause, vrsetDefect tm c.gc g cb = some cause → ∃ t, exec (.vrsetStart c.id) s = .next t ∧ RefusedWith s t c tm 0x63 cause 9 cb) ∧
        (vrsetDefect tm c.gc g cb = none → (g.vfmt = 0 ∨ s.teamBad tm cb (cb + 256 * g.cbBytes) = false) → NoPreds s → tm.left ≠ [] →
          ∃ t tm', exec (.vrsetStart c.id) s = .next t ∧ Over s t c ∧ t.team? c.team = some tm' ∧ tm'.vr c.gidx = { g with
            codebook := if g.vfmt = 0 then [] else (List.range 256).map fun i => ofBytes (s.teamBytes tm (cb + g.cbBytes * i) g.cbBytes) })) ∧
      (∀ a d, c.kind = .vract a d →
        ((tm.vr c.gidx).valid = false → ∃ t, exec (.vractStart c.id) s = .next t ∧ RefusedWith s t c tm 0x63 0x02 9 a) ∧
        ((tm.vr c.gidx).valid = true → tm.left ≠ [] → ∃ t tm', exec (.vractStart c.id) s = .next t ∧ Over s t c ∧ t.team? c.team = some tm' ∧
          tm'.vr c.gidx = { tm.vr c.gidx with actBase := a, dstBase := d })) ∧
      (∀ sp base len next g rows stopAt, c.kind = .vrrun sp base len next g rows stopAt →
        (∀ cause, vrrunDefect tm c.gc (tm.vr c.gidx) sp base len = some cause → ∃ t, exec (.vrrunStart c.id) s = .next t ∧
          RefusedWith s t c tm 0x63 cause 9 base) ∧
        (vrrunDefect tm c.gc (tm.vr c.gidx) sp base len = none → ∃ t, exec (.vrrunStart c.id) s = .next t ∧ { t with cmds := s.cmds } = s ∧
          t.cmd? c.id = some { c with started := true, kind := .vrrun sp base len next (tm.vr c.gidx) rows stopAt }))) ∧
    (∀ r : VrRun, c.kind.run? = some r →
      (∀ off again, r.where = some (off, again) → c.started = true → s.evicting c.team = false → (c.sectors.all fun x => x.st ≠ .sent) = true → NoPreds s →
        (let parsed := parseRow r.cfg 0 PRow.start (s.tokens c tm r.space (r.base + r.len) off).1
         (∀ n, parsed = .bad n → s.streamBad c tm r.space off (off + 2 * n) = false →
           exec (.vrRowHandoff c.id) s = .next (s.parkRow (c.past (4 * off + 1)) r off again 0x63 0 7 0 none)) ∧
         (∀ i groups n q, parsed = .row i groups false n → again = none → s.streamBad c tm r.space off (off + 2 * n) = false →
           ((s.cmds.takeWhile fun o => o.id ≠ c.id).all fun o => o.gc ≠ c.gc || !s.vrCanHand o) = true →
           (r.rows.all fun x => 8 ≤ x.queue || x.index ≠ i) = true → s.freeQueue c.gc = some q →
           ∃ t c', exec (.vrRowHandoff c.id) s = .next t ∧ t.cmd? c.id = some c' ∧ { t with cmds := s.cmds } = s ∧
             c'.kind.run? = some (VrRun.taken { r with
               rows := r.rows ++ [⟨i, off, q, groups, none, 0, none, r.holdsEntry off⟩]
               next := off + 2 * n } off)))) ∧
      (∀ k x, r.rows[k]? = some x →
        (x.queue < 8 → x.results = none → NoPreds s → s.stopping (.valueRun c.gc) (s.cmdLaunch c) = false ∨ x.positions.length ≤ 8 →
          (∀ p ∈ x.positions, s.teamBad tm (r.cfg.actAt p 0) (r.cfg.actAt p r.cfg.cols) = false) →
          ∃ t c' fl, exec (.vrRowDone c.id k) s = .next t ∧ { t with cmds := s.cmds, stops := s.stops } = s ∧ t.cmd? c.id = some c' ∧ c'.kind.run? = some { r with
            rows := r.rows.set k { x with
              results := some ((List.range r.cfg.cols).map fun j => BitVec.ofNat 32 (s.vrColumn tm r.cfg x j).1)
              flags := fl } }) ∧
        (∀ ws v, x.results = some ws →
          s.vrStore c tm r.cfg.osz (4 * x.off + 3) 0 (ws.zipIdx.map fun y => (r.cfg.dstAt x.index y.2, y.1)) = (v, false) →
          exec (.vrResultPerform c.id k) s = .next (v.setRun { c.past (4 * x.off + 3) with flags := c.flags ||| x.flags } { r with rows := r.rows.eraseIdx k }))))

namespace Sys2Proof.Certificates

open Sys2Proof Sys2Proof.Machine

/-- A launch that a privileged host queue sent. -/
def Privileged (l : Launch) : Prop := l.user = false ∧ ∃ p q, l.src = .queue p q

end Sys2Proof.Certificates

open Sys2Proof Sys2Proof.Machine Sys2Proof.Certificates in
/-- 13 R297, 14 R310-R317, R319, R322-R324, 16 R368, R369: LAUNCH_CHECK refuses (a misaligned descriptor with 0x07, log 40; AGENT from anyone but
a privileged queue with 0x08), or accepts a launch with its descriptor; waiting raises priority, counted on the stack's counter (log 14);
TEAM_PLACE bears a team's groups where the score is highest; temperature, droop and SCHED_CTL act on cores; ACTIVE_FILL and PENDING_EXCHANGE move
groups into the active set; a path waiting 256 cycles is promoted; CORE_CYCLE counts the cycle and one histogram key. -/
def Obligations.SchedulingEventsComplete : Prop :=
  ∀ (s : State) (gc gs key : Nat),
    (∀ l, s.launch? key = some l →
      (l.state = .queued → l.checked = false →
        (l.khandle % 64 ≠ 0 → ∃ t, exec (.launchCheck key) s = .next t ∧ { t with launches := s.launches } = s ∧
          t.launch? key = some { l with state := .refused, status := 0x07, finfo := l.khandle }) ∧
        (∀ u v bs, l.khandle % 64 = 0 → s.readSpan l.asker 1 l.khandle 64 = (u, .ok bs) →
          (let d := Desc.ofBytes bs
           descField bs 0 0 8 = 1 → u.launchSpans l d = (v, none) →
            ((descReservedZero bs = false ∨ d.inRange (v.privArea l.gs) = false ∨ d.fitsEmpty = false) → ∃ t l',
              exec (.launchCheck key) s = .next t ∧ t.launch? key = some l' ∧ l'.state = .refused ∧ l'.status = 0x02) ∧
            (descReservedZero bs = true → d.inRange (v.privArea l.gs) = true → d.fitsEmpty = true → d.agent = false ∨ Privileged l → v.placeHeld key l = false →
              ∃ t, exec (.launchCheck key) s = .next t ∧
                t.launch? key = some {
                  (if l.desc = noDesc then { l with
                      desc := d
                      prio := d.priority
                      agedAt := v.stkNow l.gs } else { l with desc := d }) with
                  checked := true }) ∧
            (descReservedZero bs = true → d.inRange (v.privArea l.gs) = true → d.fitsEmpty = true → d.agent = true → ¬Privileged l →
              ∃ t l', exec (.launchCheck key) s = .next t ∧ t.launch? key = some l' ∧ l'.state = .refused ∧ l'.status = 0x08)))) ∧
      (l.ages = true → 1048576 ≤ s.stkNow l.gs - l.agedAt → ∃ t, exec (.priorityAging key) s = .next t ∧ { t with launches := s.launches } = s ∧
        t.launch? key = some { l with prio := if l.prio < l.desc.ceiling then l.prio + 1 else l.prio, agedAt := s.stkNow l.gs })) ∧
    (∀ l rest u g base line used, serveOrder (s.launches.filter fun kl => kl.2.gs = gs && kl.2.waits) = (key, l) :: rest → s.teamTarget l = (u, g) →
      u.bestSpot l.desc g = some (base, line) → gsOf base = g → u.carveTeam g 0 l.desc = some used → u.carveTeam g u.nextId l.desc ≠ none →
      u.lineUp g l.pslot = false → u.returnFirst g l.prio = false → l.bornStopped = false →
      ∃ t tm l', exec (.teamPlace gs) s = .next t ∧ t.team? u.nextId = some tm ∧ tm.launch = key ∧ tm.lin = l.nextTeam ∧ tm.baseGc = base ∧
        tm.firstLine = line ∧ t.launch? key = some l' ∧ l'.state = .running ∧ l'.nextTeam = l.nextTeam + 1 ∧
        ∀ n, n < l.desc.team → ∃ cid c, t.ctx? cid = some c ∧ c.team = u.nextId ∧ c.gidx = n ∧ c.gc = l.desc.birthCore base n ∧
          c.lanes = BitVec.ofNat 64 (2 ^ l.desc.width - 1) ∧ (c.path 0).pc = l.desc.entry ∧ (c.path 0).mask = c.lanes) ∧
    (let k := s.core gc
     (∀ temp, ∃ t, exec (.coreHot gc temp) s = .next t ∧ { t with cores := s.cores } = s ∧ (∀ g, g ≠ gc → t.core g = s.core g) ∧
       (t.core gc).temp = temp ∧ ((s.stk (gsOf gc)).thot ≤ temp → (t.core gc).hot = true)) ∧
     (∀ temp since, k.coolSince = some since → temp ≤ (s.stk (gsOf gc)).tcool → temp < (s.stk (gsOf gc)).thot →
       ∃ t, exec (.coreCool gc temp) s = .next t ∧ (t.core gc).temp = temp ∧ (t.core gc).hot = (k.hot && !decide (250000 ≤ k.cycle - since))) ∧
     (∃ t, exec (.droopEvent gc) s = .next t ∧ { t with cores := s.cores } = s ∧
       (t.core gc).avoid = (k.avoid || decide (4 ≤ (k.droops.filter fun d => decide (k.cycle - d < 25000)).length))) ∧
     ((k.droops.all fun d => decide (125000 ≤ k.cycle - d)) = true → ∃ t, exec (.avoidExpiry gc) s = .next t ∧ { t with cores := s.cores } = s ∧
       (t.core gc).avoid = false) ∧
     (∃ t, exec (.coreCycle gc) s = .next t ∧ { t with ctxs := s.ctxs, cores := s.cores, cursor := s.cursor } = s ∧ (∀ g, g ≠ gc → t.core g = s.core g) ∧
       (t.core gc).cycle = (k.cycle + 1) % 2 ^ 64 ∧ ∀ j, mget (t.core gc).hist j 0 =
         if j = s.histKey gc ∨ (9 ≤ s.histKey gc ∧ j = 0) then (mget k.hist j 0 + 1) % 2 ^ 48 else mget k.hist j 0)) ∧
    (∀ v, ∃ t, exec (.schedCtlWrite gs v) s = .next t ∧ (bits v 0 8 ≤ bits v 8 8 → t = s) ∧
      (bits v 8 8 < bits v 0 8 → OnlyStks s t ∧ (t.stk gs).thot = bits v 0 8 ∧ (t.stk gs).tcool = bits v 8 8)) ∧
    (∀ cid c, s.nextPending gc = some (cid, c) →
      (((s.residents gc).all fun kc => kc.2.grow = 0) = true → (s.activeOn gc).length < 8 → ∃ t c', exec (.activeFill gc) s = .next t ∧
        { t with ctxs := s.ctxs } = s ∧ (∀ k, k ≠ cid → t.ctx? k = s.ctx? k) ∧ t.ctx? cid = some c' ∧ c'.place = .active) ∧
      (∀ old d, leastBy (fun a b => lexLe [a.2.lastIssue, a.2.activeAt, a.1] [b.2.lastIssue, b.2.activeAt, b.1]) (s.activeOn gc) = some (old, d) →
        8 ≤ (s.activeOn gc).length → 4096 ≤ s.now gc - c.since → (d.validPaths.all fun e => !(d.path e).started && (d.path e).wait ≠ .matrix) = true →
        ∃ t c', exec (.pendingExchange gc) s = .next t ∧ t = (s.swapOut old 8).activate cid ∧ t.ctx? cid = some c' ∧ c'.place = .active)) ∧
    (∀ cid c, ((s.residents gc).filter fun kc => kc.2.grow ≠ 0 && decide (kc.2.grow ≤ 8)) = [(cid, c)] → c.grow * c.gran ≤ s.freeG gc →
      ∃ t c', exec (.activeFill gc) s = .next t ∧ t.ctx? cid = some c' ∧ c'.walloc = c.walloc + c.grow ∧ c'.grow = 0) ∧
    (∀ cid entry c, s.ctx? cid = some c → (c.path entry).v = true → 256 ≤ s.now c.gc - (c.path entry).lastIssue →
      ∃ t, exec (.pathPromotion cid entry) s = .next t ∧ { t with cores := s.cores } = s ∧ cid * 8 + entry ∈ (t.core c.gc).promoted)

namespace Sys2Proof.Certificates

open Sys2Proof Sys2Proof.Machine

/-- Launches whose next team is for a stack and fits none of its cores, in the order of service. -/
def stuckOn (s : State) (gs : Nat) : List (Nat × Launch) :=
  (serveOrder (((s.launchesWaiting (pkgOf gs)).filter fun w => w.2.2 = gs && !s.lineUp gs w.2.1.pslot).map fun w => (w.1, w.2.1))).filter fun kl =>
    (s.bestSpot kl.2.desc gs).isNone && (s.carveTeam gs 0 kl.2.desc).isSome

/-- The plan that evicts the fewest groups for a launch on a stack. -/
def bestPlan (s : State) (gs : Nat) (l : Launch) : Option (Nat × List Nat × List Nat × Nat) :=
  leastBy (fun a b => decide (a.2.2.2 ≤ b.2.2.2)) ((l.desc.bases gs).filterMap fun gc => (s.evictPlan l.desc l.prio gc).map fun p => (gc, p))

/-- A group waits: for windows, or with every path at a barrier, a JOIN or a hold (14 R327). -/
def Waiting (c : Ctx) : Prop :=
  c.grow ≠ 0 ∨ c.validPaths ≠ [] ∧ ∀ e, e ∈ c.validPaths → (c.path e).hold = true ∨ ((c.path e).wait ≠ .none ∧ (c.path e).wait ≠ .matrix)

end Sys2Proof.Certificates

open Sys2Proof Sys2Proof.Machine Sys2Proof.Certificates in
/-- 13 R288, 14 R318, R320, R321, R327, 15 R340-R343: PREEMPT and GROW_EVICTION begin images; GROUP_EVICT saves a group; EVICTION_SAVE_END closes an
image, GROUP_RETURN begins its restore and RESTORE_END makes its groups pending on the cores they were born on. GROUP_END takes out a context whose lanes
have exited and whose work is done. -/
def Obligations.EvictionEventsComplete : Prop :=
  ∀ (s : State),
    (∀ gs pre key l rest gc whole extra n t,
      (s.saves.any fun i => i.phase = .saving && ((s.team? i.team).map fun t => decide (gsOf t.baseGc = gs)).getD false) = false →
      (s.stk gs).saveSize ≠ 0 → stuckOn s gs = pre ++ (key, l) :: rest → (∀ kl ∈ pre, bestPlan s gs kl.2 = none) →
      bestPlan s gs l = some (gc, whole, extra, n) → s.beginPlan whole extra = some t → exec (.preempt gs) s = .next t) ∧
    (∀ tk whole want t, s.beginSave tk whole want = some t → ∃ i, t.saves = s.saves ++ [i] ∧ i.id = s.nextId ∧ i.whole = whole ∧ i.team = tk ∧
      i.phase = .saving ∧ i.want = want ∧ i.taken = [] ∧ i.coming = [] ∧ i.ctxOffs = [] ∧ i.off + i.units ≤ (s.stk i.gs).saveSize ∧
      (∀ j ∈ s.saves, j.gs = i.gs → i.off + i.units ≤ j.off ∨ j.off + j.units ≤ i.off) ∧ { t with saves := s.saves, nextId := s.nextId } = s) ∧
    (∀ gc cid c rest t, s.saves = [] → (s.stk (gsOf gc)).saveSize ≠ 0 → (∀ kc ∈ s.residents gc, Waiting kc.2) →
      sortBy (fun kc => [2 ^ 64 - kc.2.bornAt, 64 - kc.2.gidx, kc.1])
        ((s.residents gc).filter fun kc => kc.2.grow ≠ 0 && s.unitWhole [gc] kc.2) = (cid, c) :: rest →
      s.beginSave c.team false ((s.unitOf [gc] c).map (·.1)) = some t → exec (.growEviction gc) s = .next t) ∧
    (∀ cid c i, s.ctx? cid = some c → s.imageFor cid c = some i → i.phase = .saving → cid ∈ i.want → s.isQuad c = false → s.takeable cid c = true →
      i.want.Nodup → cid ∉ i.taken → c.gidx ∈ i.groups → ((s.imageCtxs i).filter fun kd => kd.2.gidx = c.gidx).length < i.parts →
      ∃ t, exec (.groupEvict cid) s = .next t ∧ t.ctx? cid = some c.saveForm ∧ (∀ k, k ≠ cid → t.ctx? k = s.ctx? k) ∧ c.saveForm.place = .saved ∧
        ∃ i', (t.saves.find? fun j => j.id = i.id) = some i' ∧ i'.taken = i.taken ++ [cid] ∧ i'.want = i.want.filter (· ≠ cid) ∧ (mfind i'.ctxOffs cid).isSome = true) ∧
    (∀ save i tm, (s.saves.find? fun j => j.id = save && j.phase = .saving) = some i → s.team? i.team = some tm →
      (i.whole = false → (i.want.all fun k => ((s.ctx? k).map fun c => !c.residentOn c.gc).getD true) = true → s.midStep i = false →
        ∃ t, exec (.evictionSaveEnd save) s = .next t ∧ (t.saves.find? fun j => j.id = save) = some { i with phase := .saved, want := [] } ∧
          t.ctxs = s.ctxs ∧ t.mem = (s.writeSave i tm).mem) ∧
      (i.whole = true → s.atBase i.team tm = [] → (s.cmds.all fun c => c.team ≠ i.team || c.quiet) = true → ∃ t, exec (.evictionSaveEnd save) s = .next t ∧
        t.team? i.team = some { tm with saved := some i.id } ∧ t.ctxs = s.ctxs ∧ t.mem = (s.writeSave i tm).mem)) ∧
    (∀ save i ks, (s.saves.find? fun j => j.id = save) = some i → s.returnSet i = some ks → ∃ t, exec (.groupReturn save) s = .next t ∧
      { t with saves := s.saves } = s ∧ (t.saves.find? fun j => j.id = save) = some { i with phase := .restoring, coming := ks }) ∧
    (∀ save i cid c, (s.saves.find? fun j => j.id = save && j.phase = .restoring) = some i → i.whole = false → i.coming = [cid] → s.ctx? cid = some c →
      (∀ o, mfind i.ctxOffs cid = some o → ∃ t c', exec (.restoreEnd save) s = .next t ∧ t.ctx? cid = some c' ∧ c'.place = .pending ∧
        c'.gc = c.birthGc ∧ c'.parked = none ∧
        (let d := c.readImage (s.bytes (s.imgPa i o.1) o.2) (s.now c.birthGc)
         c'.vregs = d.vregs ∧ c'.sregs = d.sregs ∧ c'.lanes = d.lanes ∧ c'.rstack = d.rstack) ∧ (∀ k, k ≠ cid → t.ctx? k = s.ctx? k) ∧
        (i.taken = [cid] → ∀ j ∈ t.saves, j.id ≠ save))) ∧
    (∀ save i, (s.saves.find? fun j => j.id = save && j.phase = .restoring) = some i → i.whole = true → ∃ t, exec (.restoreEnd save) s = .next t ∧
      ∀ tm, s.team? i.team = some tm → ∃ tm', t.team? i.team = some tm' ∧ tm'.saved = none ∧ tm'.left = tm.left) ∧
    (∀ cid c, s.ctx? cid = some c → (c.place = .active ∨ c.place = .pending) → c.lanes = 0 → c.stop = none → c.visits = [] → c.anchor = 0 →
      (s.accs.all fun a => a.ctx ≠ cid) = true → (∀ k, k < 8 → mget c.wslot k 0 = 0) →
      ∃ t, exec (.groupEnd cid) s = .next t ∧ t.ctx? cid = none ∧
        ((∀ kd ∈ s.ctxs, kd.1 ≠ cid → kd.2.team = c.team → kd.2.gidx = c.gidx → kd.2.alive = false) →
          ∀ tm, t.team? c.team = some tm → c.gidx ∉ tm.left))

namespace Sys2Proof.Certificates

open Sys2Proof Sys2Proof.Machine

/-- What a write of VCTL with EN 1 makes of predicate `i` of a bank (16 R351-R353): `r` stands for `q`, which is armed with REMAIN at its COUNT where
it was disarmed and its fields are valid (on a core also its run, that mixes no exception member with others), or is refused with ERR. -/
def Armed (home : Bool) (first last i v : Nat) (m : Map Pred) (q r : Pred) : Prop :=
  let q' : Pred := { q with vctl := BitVec.ofNat 64 v }
  let valid := armFieldsOk home q' (v % 2 ^ 64) = true ∧ (home = true ∨ runMixes (mset m i q' Pred.reset) first last i = false)
  (q.en = true → r = q) ∧
  (q.en = false → valid → r = { q' with remain := max 1 (bits v 43 7) } ∧ r.en = true) ∧
  (q.en = false → ¬valid → r.en = false ∧ r.err = true)

/-- No host write that may perform waits anywhere. -/
def NoHostWaitsAt (s : State) : Prop := ∀ gs, NoHostWaits s gs

/-- What a stop message does to a group (15 R336, 16 R356-R358): not heard yet it waits; it comes to the group, whose SKID counts from there unless it
is the matching one; then it takes it. One that finds its group landed takes it there. -/
def StopMoves (s : State) (m : StopMsg) (cid : Nat) (c : Ctx) (i : Instr) : Prop :=
  (m.reached = false → s.heard m = false → exec i s = .next s) ∧
  (m.reached = false → s.heard m = true → c.place ≠ .landed → ∃ t m', exec i s = .next t ∧ { t with stops := s.stops } = s ∧ m' ∈ t.stops ∧
    m'.id = m.id ∧ m'.reached = true ∧ m'.skid = (if m.lanes = 0 then 0 else m.skid) ∧ ∀ x ∈ s.stops, x.id ≠ m.id → x ∈ t.stops) ∧
  (m.reached = true ∨ (s.heard m = true ∧ c.place = .landed) → c.stop = none → ∃ t c', exec i s = .next t ∧
    t.stops = s.stops.filter (fun x => x.id ≠ m.id) ∧ t.ctx? cid = some c' ∧ c'.stop = some ⟨m.ev, m.code⟩ ∧ c'.place ≠ .active ∧
    ∀ k, k ≠ cid → t.ctx? k = s.ctx? k)

end Sys2Proof.Certificates

open Sys2Proof Sys2Proof.Machine Sys2Proof.Certificates in
/-- 15 R331, R334-R337, 16 R351-R353, R356, R357, R360, R362, R369-R371, 13 R307: a report reaches its group as a trap at a boundary; FAULT_RETRY and
FAULT_KILL act on a parked group; a stop reaches its unit; PARTITION_KILL ends a partition's launches; VCTL arms (EN 1, REMAIN at COUNT), refuses
and disarms a predicate, of a core or of a home; the debug registers ask for halts, dumps and traces; a context read or written ends with its
status. The model's choices in it are logs 16 (a partition's extent), 31 (what a refused arming leaves), 32 (how a dump goes to a peer), 36 (which part and path
takes a report), 88 (where it is sent) and 103 (a dump that has grown). -/
def Obligations.FaultAndDebugEventsComplete : Prop :=
  ∀ (s : State) (gs : Nat),
    (∀ rid r tm, (s.reports.find? fun x => x.id = rid && x.receiver.isNone) = some r → s.team? r.team = some tm →
      (let birth := gsOf tm.baseGc
       (s.reportGroup r = none → ∃ t, exec (.reportDelivery rid) s = .next t ∧ ∀ x ∈ t.reports, x.id ≠ rid) ∧
       (∀ g, s.reportGroup r = some g →
         (let last := (mfind tm.landedAt g).getD birth
          (r.sentTo = none → (s.landingDue r.team g = false ∨ r.after ≤ mget tm.noted g 0) →
            (s.landingDue r.team g = true ∨ ∃ kc ∈ s.liveCtxs r.team g, gsOf kc.2.gc = last) → ∃ t, exec (.reportDelivery rid) s = .next t ∧
            { t with reports := s.reports, pkgs := s.pkgs, nextId := s.nextId, freeCount := s.freeCount } = s ∧
            ∀ x ∈ t.reports, x.id = rid → x.sentTo = some last ∧ x.msg = s.nextId ∧ x.receiver = none) ∧
          (∀ dst, r.sentTo = some dst →
            (let There (k : Nat × Ctx) : Prop := k ∈ s.liveCtxs r.team g ∧ gsOf k.2.gc = dst ∧ k.2.place ≠ .moving
             ((s.reaches birth dst = false ∨ (s.handed birth dst r.msg 1 = true ∧ ∀ k, ¬ There k)) → ∃ t, exec (.reportDelivery rid) s = .next t ∧
               t.ctxs = s.ctxs ∧ ∀ x ∈ t.reports, x.id = rid → x.sentTo = none) ∧
             (∀ cid c e, s.reaches birth dst = true → s.handed birth dst r.msg 1 = true →
               pickLane r.lane ((s.liveCtxs r.team g).filter fun kc => gsOf kc.2.gc = dst && kc.2.place ≠ .moving) = some (cid, c) →
               (∀ x ∈ s.reports.takeWhile fun x => x.id ≠ rid, x.receiver.isSome = true ∨ x.team ≠ r.team ∨ s.reportGroup x ≠ some g) →
               (c.place = .active ∨ c.place = .pending) → c.inHandler = false → c.stop = none → c.parked = none → c.depart = none → c.split = [] →
               c.chain = [] → s.nextClausePath cid c = some e →
               (let d := c.setPath e (c.path e).unfetch
                let v := s.consume birth dst r.msg
                let u : State := { v.setCtx cid d with reports := s.reports.map fun x => if x.id = rid then { r with receiver := some cid } else x }
                exec (.reportDelivery rid) s = .next (u.takeTrap cid e (d.path e).pc ⟨r.code, r.cause, r.level, r.acls, r.qpos, true, r.addr, r.pc,
                  BitVec.ofNat 64 (v.reportDetail r % 2 ^ 32 * 2 ^ 32 + r.lane)⟩))))))))) ∧
    (∀ place,
      (s.parkedAt gs (place % 2048) = none → ∃ t, exec (.faultRetry gs place) s = .next t ∧ OnlyStks s t ∧ (t.stk gs).retryErr = true) ∧
      (∀ cid c, s.parkedAt gs (place % 2048) = some (cid, c) →
        (∃ t, exec (.faultRetry gs place) s = .next t ∧ { t with ctxs := s.ctxs } = s ∧ (∀ k, k ≠ cid → t.ctx? k = s.ctx? k) ∧
          t.ctx? cid = some { c.unpark with stall := 15 }) ∧
        (∀ l, s.launch? c.launch = some l → ∃ t l', exec (.faultKill gs place) s = .next t ∧ t.launch? c.launch = some l' ∧ l'.state = .done ∧
          l'.killed = true ∧ (l.status ≠ 0 → l'.status = l.status) ∧ (s.reports = [] → l.status = 0 → l'.status = 0xA2)))) ∧
    (∀ m cid c, m.target = .group cid → s.ctx? cid = some c → c.place ≠ .moving →
      ((s.stops.find? fun x => x.id = m.id && !x.line) = some m → StopMoves s m cid c (.stopArrival m.id)) ∧
      ((s.stops.find? fun x => x.id = m.id && x.line) = some m → StopMoves s m cid c (.haltLineArrival m.id))) ∧
    (∀ pkg p, ∃ t, exec (.partitionKill pkg p) s = .next t ∧
      (∀ k l, s.launch? k = some l → l.pkg = pkg → l.pslot = p → l.desc.agent = false → l.busy = true → ∃ l', t.launch? k = some l' ∧ l'.state = .done) ∧
      ((∀ kk ∈ s.stks, kk.2.streams = []) → NoHostWaitsAt s → (∀ m ∈ t.stops, m.line = true → m.pslot ≠ p) ∧ ∀ g l, l ∈ (t.stk g).lines → l.1 ≠ p)) ∧
    (∀ core pred v, pred < 16 →
      (let g := 24 * gs + core
       let q := mget (s.core g).preds pred Pred.reset
       (nbit v 63 = true → ∃ t, exec (.vctlArm gs core pred v) s = .next t ∧ { t with cores := s.cores } = s ∧ (∀ k, k ≠ g → t.core k = s.core k) ∧
         Armed false 0 15 pred v (s.core g).preds q (mget (t.core g).preds pred Pred.reset)) ∧
       (nbit v 63 = false → ∃ t, exec (.vctlDisarm gs core pred v) s = .next t ∧ { t with cores := s.cores } = s ∧
         mget (t.core g).preds pred Pred.reset = { q with vctl := BitVec.ofNat 64 v }))) ∧
    (∀ core pred v, 16 ≤ pred → pred < 48 →
      (let q := mget (s.stk gs).preds pred Pred.reset
       (nbit v 63 = true → ∃ t, exec (.vctlArm gs core pred v) s = .next t ∧ OnlyStks s t ∧ (∀ k, k ≠ gs → t.stk k = s.stk k) ∧
         Armed true 16 47 pred v (s.stk gs).preds q (mget (t.stk gs).preds pred Pred.reset)) ∧
       (nbit v 63 = false → ∃ t, exec (.vctlDisarm gs core pred v) s = .next t ∧ OnlyStks s t ∧
         mget (t.stk gs).preds pred Pred.reset = { q with vctl := BitVec.ofNat 64 v }))) ∧
    (∀ v, (let k := s.stk gs
      let scope := bits v 4 3
      let names (c : Ctx) : Prop := c.alive = true ∧ s.named (pkgOf gs) scope (bits v 7 6) (bits k.htgt.toNat 0 32) (bits k.htgt.toNat 32 32) c = true
      (scope ≠ 1 → scope ≠ 2 → scope ≠ 6 →
        (let Bad (i : Instr) : Prop := ∃ t, exec i s = .next t ∧ OnlyStks s t ∧ (t.stk gs).dbgErr = true
         (nbit v 13 = false → nbit v 14 = false → Bad (.haltRequest gs v)) ∧ (nbit v 13 = false → nbit v 14 = true → Bad (.haltAtRegion gs v)) ∧
         (nbit v 13 = true → Bad (.dumpRequest gs v)))) ∧
      ((scope = 1 ∨ scope = 2 ∨ scope = 6) →
        (nbit v 13 = false → nbit v 14 = false → ∃ t, exec (.haltRequest gs v) s = .next t ∧ t.ctxs = (s.dropAtReg gs).ctxs ∧ t.mem = s.mem ∧
          (t.stk gs).atReg = none ∧ (∀ kc ∈ s.ctxs, names kc.2 → ∃ m ∈ t.stops, m.target = .group kc.1 ∧ m.code = 0x82) ∧
          (scope = 6 → ∀ g r l, r ∈ (s.stk g).bankQueue → s.launch? r.launch = some l → l.pkg = pkgOf gs → l.id = bits k.htgt.toNat 0 32 →
            ∃ m ∈ t.stops, m.target = .bankRun g r.launch ∧ m.code = 0x82)) ∧
        ((∀ kc ∈ s.ctxs, kc.2.atRegion = false) → (s.dropAtReg gs).ctxs = s.ctxs) ∧
        (nbit v 13 = false → nbit v 14 = true → ∃ t, exec (.haltAtRegion gs v) s = .next t ∧ t.mem = s.mem ∧
          ∀ kc ∈ s.ctxs, names kc.2 → kc.2.stop = none → (kc.1, { kc.2 with atRegion := true }) ∈ t.ctxs)) ∧
      (∀ tk tm l, scope = 6 → nbit v 13 = true → s.teams = [(tk, tm)] → s.launch? tm.launch = some l → l.pkg = pkgOf gs → l.id = bits k.htgt.toNat 0 32 →
        (let slot := ((s.launches.find? fun kl => kl.2.pkg = pkgOf gs && kl.2.id = bits k.htgt.toNat 0 32).map fun kl => kl.2.pslot).getD 0
         let g := gsOf tm.baseGc
         let n := (s.dropAtReg gs).dumpLen tk tm none
         ((s.stk g).dumpFree slot < s.dumpOwed g slot + n → ∃ t, exec (.dumpRequest gs v) s = .next t ∧ OnlyStks (s.dropAtReg gs) t ∧
           (t.stk g).dmpDrop = (s.stk g).dmpDrop + 1) ∧
         (s.dumpOwed g slot + n ≤ (s.stk g).dumpFree slot → ∃ t d, exec (.dumpRequest gs v) s = .next t ∧ t.dumps = s.dumps ++ [d] ∧ d.team = tk ∧
           d.group = none ∧ d.pslot = slot ∧ d.bytes = n ∧ d.written = false ∧ t.ctxs = (s.dropAtReg gs).ctxs ∧
           ∀ kc ∈ s.teamCtxs tk, ∃ m ∈ t.stops, m.target = .group kc.1 ∧ m.code = 0x83))))) ∧
    (∀ v, (nbit v 0 = true → ∃ t, exec (.traceEnable gs v) s = .next t ∧ t.ctxs = s.ctxs ∧ (t.stk gs).trcEn = true ∧
        ((s.ctxs.all fun kc => gsOf kc.2.gc ≠ gs) = true → (s.stk gs).trcEn = false → OnlyStks s t ∧ (t.stk gs).trcHead = 0 ∧ (t.stk gs).trcIdle = false)) ∧
      (nbit v 0 = false → ∃ t, exec (.traceDisable gs v) s = .next t ∧ OnlyStks s t ∧ (t.stk gs).trcEn = false ∧ (t.stk gs).trcHead = (s.stk gs).trcHead)) ∧
    ((s.stk gs).trcEn = false → ∃ t, exec (.traceDrainEnd gs) s = .next t ∧ OnlyStks s t ∧ (t.stk gs).trcIdle = true) ∧
    (∀ gc, ∃ t, exec (.histClr gc) s = .next t ∧ { t with cores := s.cores } = s ∧ (t.core gc).hist = [] ∧ (∀ k, k ≠ gc → t.core k = s.core k)) ∧
    (∀ dump d,
      ((s.dumps.find? fun x => x.id = dump && !x.written) = some d → (∀ kc ∈ s.dumpCtxs d.team d.group,
          kc.2.stop.isSome = true ∧ kc.2.place ≠ .moving ∧ kc.2.place ≠ .landed) →
        (s.team? d.team = none → ∃ t, exec (.dumpImageWritten dump) s = .next t ∧ t.dumps = s.dumps.filter fun x => x.id ≠ dump) ∧
        (∀ tm, s.team? d.team = some tm → s.putDump d tm = none → exec (.dumpImageWritten dump) s = .next s) ∧
        (∀ tm u d', s.team? d.team = some tm → s.putDump d tm = some (u, d') → d'.id = dump ∧ d'.written = true ∧
          ∃ t, exec (.dumpImageWritten dump) s = .next t ∧ (d.toPeer = false → t.dumps = s.dumps.filter fun x => x.id ≠ dump) ∧
            (d.toPeer = true → u.reaches d.gs (u.stk d.gs).dumpDst = true → t.dumps = s.dumps.map fun x => if x.id = dump then d' else x))) ∧
      ((s.dumps.find? fun x => x.id = dump && x.written) = some d →
        (let k := s.stk d.gs
         let dst := k.dumpDst
         let n := d.bytes / 64
         let Lost : Prop := ∃ t, exec (.dumpPeerAck dump) s = .next t ∧ (∀ x ∈ t.dumps, x.id ≠ dump) ∧ t.ctxs = s.ctxs ∧ t.mem = s.mem ∧
           ((s.dumps.find? fun x => x.id = dump) = some d → (t.stk d.gs).dmpPeer = false)
         (d.reply = none →
           ((s.chan.find? fun m => m.body = .dump dump n) = none → Lost) ∧
           (∀ m, (s.chan.find? fun m => m.body = .dump dump n) = some m →
             (s.headOf m = false → exec (.dumpPeerAck dump) s = .next s) ∧
             (s.headOf m = true → ∃ t, exec (.dumpPeerAck dump) s = .next t ∧ t.ctxs = s.ctxs ∧ t.chan = s.chan.filter (fun x => x.id ≠ m.id) ∧
               t.dumps = s.dumps.map fun x => if x.id = dump then { x with reply := some s.nextId } else x))) ∧
         (∀ i, d.reply = some i → (s.reaches dst d.gs = false → Lost) ∧
           (let l := s.link (pkgOf dst) (planeOf dst) (pkgOf d.gs)
            s.handed dst d.gs i n = false → (∀ f ∈ l.retry ++ l.queue, f.tag ≠ i) → Lost) ∧
           (s.reaches dst d.gs = true → s.handed dst d.gs i n = true → ∃ t, exec (.dumpPeerAck dump) s = .next t ∧ t.ctxs = s.ctxs ∧ t.mem = s.mem ∧
             t.dumps = s.dumps.filter (fun x => x.id ≠ dump) ∧
             mget (t.stk d.gs).dmpTail d.pslot 0 = mget k.dmpTail d.pslot 0 + d.bytes))))) ∧
    (∀ (c : Cmd) (x : Ctx), s.cmd? c.id = some c → s.ctx? c.ctx = some x →
      (∀ target buf bytes dst, c.kind = .rdctx target buf bytes dst → ∃ t x', exec (.rdctxCopyComplete c.id) s = .next t ∧ t.cmd? c.id = none ∧
        t.ctx? c.ctx = some x' ∧ x'.sreg dst = 0 ∧ (∀ k, k ≠ dst → x'.sreg k = x.sreg k) ∧ x'.vregs = x.vregs) ∧
      (∀ target buf entry dst y, c.kind = .wrctx target buf entry dst → target ≠ c.ctx → s.ctx? target = some y →
        (let bs := c.sectors.flatMap fun z => z.pieces.flatMap fun p => s.refBytes p.2.1 p.2.2
         ∃ t x', exec (.wrctxWriteEnd c.id) s = .next t ∧ t.cmd? c.id = none ∧ t.ctx? c.ctx = some x' ∧ x'.vregs = x.vregs ∧
           (∀ k, k ≠ dst → x'.sreg k = x.sreg k) ∧
           (imgBad y bs = true → x'.sreg dst = 5 ∧ t.ctx? target = some y) ∧
           (imgBad y bs = false → x'.sreg dst = 0 ∧ t.ctx? target = some (y.writeImage bs (s.now y.gc))))))

open Sys2Proof Sys2Proof.Machine Sys2Proof.Certificates in
/-- 17 R374-R387, 00 R5: host accesses perform at their home; the link goes down and up; a host queue takes NOP, LAUNCH and SIGNAL entries and stops at a
bad one; DEVICE_RESET measures the images, verifies their signatures and begins self-test; SELF_TEST_END makes the package ready or safe, and until it
is ready its queues and registers take no write; the mailbox reports; the power cap and the other registers take what is written. The model's choices
in it are logs 44 (GO clears DONE and ERR), 53 (the process slot of a host write is a free value), 54 (SIGNAL is translated on stack 0) and 55 (a
register takes 4, 8 or 16 aligned bytes). -/
def Obligations.HostEventsComplete : Prop :=
  ∀ (s : State) (pkg q gs : Nat),
    (let k := s.pkg pkg
     let h := s.hq pkg q
     (∀ bar off data, k.linkUp = true → k.answers (barSpot pkg bar off data.length) = true →
       (∀ g x, barSpot pkg bar off data.length = .regs g x → barSize x data.length = true → s.hostTurn pkg g = true →
         exec (.hostWrite pkg bar off data) s = .next (s.regWrite g x data.length (ofBytes data))) ∧
       (∀ g loc, barSpot pkg bar off data.length = .dram g loc → s.hostTurn pkg g = true → s.spanBusy (paOf g loc) data.length = false →
         ∃ (u : State) (p : Nat), { u with freeCount := s.freeCount } = s ∧ p < 16 ∧
           (let r := u.perform .nobody false ⟨1, 0, data.length, p, none, 0⟩ (paOf g loc) data.length (.write (ofBytes data))
            (∀ ev, r.2 = .held ev → exec (.hostWrite pkg bar off data) s =
              .next (r.1.holdHost (16 * pkg) g ev (.hostWrite p (paOf g loc) data none))) ∧
            ((∀ ev, r.2 ≠ .held ev) → exec (.hostWrite pkg bar off data) s = .next r.1)))) ∧
     (∀ bar off n, k.linkUp = true →
       (let Reads (bs : List Byte) : Prop := ∃ t, exec (.hostRead pkg bar off n) s = .next t ∧ (t.pkg pkg).hostReads = k.hostReads ++ [(bar, off, bs)] ∧
          t.mem = s.mem ∧ t.ctxs = s.ctxs
        (k.answers (barSpot pkg bar off n) = false → Reads []) ∧
        (k.answers (barSpot pkg bar off n) = true →
          (∀ g x, barSpot pkg bar off n = .regs g x → barSize x n = true → s.hostTurn pkg g = true → Reads (bytesOf n (s.regRead g x n))) ∧
          (∀ g loc, barSpot pkg bar off n = .dram g loc → s.hostTurn pkg g = true → s.spanBusy (paOf g loc) n = false →
            Reads (s.refBytes (paOf g loc) n))))) ∧
     (∀ b, k.linkUp = true → ∃ t, exec (.linkDown pkg b) s = .next t ∧ { t with pkgs := s.pkgs } = s ∧
       t.pkg pkg = { k with linkUp := false, downs := (k.downs + 1) % 65536, surprise := b }) ∧
     (∃ t, exec (.linkUp pkg) s = .next t ∧ { t with pkgs := s.pkgs } = s ∧ t.pkg pkg = { k with linkUp := true }) ∧
     (k.boot ≠ .ready → ∀ v, exec (.hqCtlWrite pkg q v) s = .next s ∧ exec (.hqTailWrite pkg q v) s = .next s ∧ exec (.pwrCtlWrite pkg v) s = .next s) ∧
     (∀ v, q < 64 → k.boot = .ready →
       (∃ t, exec (.hqCtlWrite pkg q v) s = .next t ∧ { t with pkgs := s.pkgs } = s ∧ t.hq pkg q = { h with
          log2n := bits v 10 4
          stack := bits v 6 4
          pslot := bits v 2 4
          user := nbit v 1
          en := nbit v 0
          head := if nbit v 0 = true ∧ h.en = false then h.tail else h.head
          err := h.err && !(nbit v 0 && !h.en) }) ∧
       (h.en = false → exec (.hqTailWrite pkg q v) s = .next s) ∧
       (h.en = true → ∃ t h', exec (.hqTailWrite pkg q v) s = .next t ∧ t.hq pkg q = h' ∧ h'.tail = v % 2 ^ 32 ∧ h'.head = h.head ∧
         (h'.err = true ↔ h.err = true ∨ 2 ^ h.log2n < (v % 2 ^ 32 + 2 ^ 32 - h.head % 2 ^ 32) % 2 ^ 32))) ∧
     (∀ e, s.hqEntry pkg q = some e →
       (let next := (h.head + 1) % 2 ^ 32
        (e.bad = true → ∃ t, exec (.hqBadEntry pkg q) s = .next t ∧ t.hq pkg q = { h with err := true }) ∧
        (e.bad = false → e.kind = 0 → ∃ t, exec (.hqNop pkg q) s = .next t ∧ { t with pkgs := s.pkgs } = s ∧ t.hq pkg q = { h with head := next }) ∧
        (e.bad = false → e.kind = 1 → s.hqBusy pkg q = false → ∃ t l, exec (.hqLaunch pkg q) s = .next t ∧ t.launch? s.nextId = some l ∧
          l.state = .queued ∧ l.khandle = e.khandle ∧ l.args = e.args ∧ l.pslot = h.pslot ∧ l.user = h.user ∧ l.gs = 16 * pkg + h.stack ∧
          t.hq pkg q = { h with head := next, last := s.nextId }) ∧
        (e.bad = false → e.kind = 2 → s.hqBusy pkg q = false → s.signalHeld pkg q = false →
          (e.addr % 8 ≠ 0 → ∃ t, exec (.hqSignal pkg q) s = .next t ∧ t.hq pkg q = { h with err := true }) ∧
          (∀ u m, e.addr % 8 = 0 → s.probeVa ⟨16 * pkg, none, h.pslot, h.user⟩ ⟨2, 8, true, true, false⟩ e.addr = (u, .error m) →
            exec (.hqSignal pkg q) s = .next (u.hqStop pkg q)) ∧
          (∀ u r ap, e.addr % 8 = 0 → s.probeVa ⟨16 * pkg, none, h.pslot, h.user⟩ ⟨2, 8, true, true, false⟩ e.addr = (u, .ok (r, ap)) → ap ≠ 3 →
            u.reaches (16 * pkg) (paGs (refPa r)) = true → u.canSend (16 * pkg) (paGs (refPa r)) (planeOf (16 * pkg)) = true → u.hostTurn pkg (paGs (refPa r)) = true →
            u.refAbsent r 8 = false → u.refBusy r = false →
            (∀ v ev, u.perform .nobody false ⟨1, 0, 8, h.pslot, none, 0⟩ r 8 (.write e.value) = (v, .held ev) →
              exec (.hqSignal pkg q) s = .next (v.holdHost (16 * pkg) (paGs (refPa r)) ev
                (.hostWrite h.pslot r (bytesOf 8 e.value) (some (q, if e.irq = true then some e.vector else none))))) ∧
            (∀ v x y, u.perform .nobody false ⟨1, 0, 8, h.pslot, none, 0⟩ r 8 (.write e.value) = (v, .done x y) →
              ∃ t, exec (.hqSignal pkg q) s = .next t ∧ t.mem = v.mem ∧ t.ctxs = v.ctxs ∧
                (t.hq pkg q).head = ((v.hq pkg q).head + 1) % 2 ^ 32 ∧
                (t.pkg pkg).msix = (v.pkg pkg).msix ++ if e.irq = true then [e.vector] else []))))) ∧
     (∀ images, ∃ t, exec (.deviceReset pkg images) s = .next t ∧ (t.pkg pkg).boot = .testing ∧ (t.pkg pkg).inc = nextInc k.incStored ∧
       (t.pkg pkg).linkUp = false ∧ (t.pkg pkg).queues = [] ∧ (t.pkg pkg).almanac.length = images.length ∧
       (∀ g, pkgOf g = pkg → t.stk g = Stack.reset) ∧ (∀ g, pkgOf (gsOf g) = pkg → t.core g = Core.reset) ∧
       (∀ i, images = [i] → mget (t.pkg pkg).mrs (i.mr % 8) 0 = shake (bytesOf 64 0 ++ bytesOf 64 (shake i.bytes).toNat) ∧
         (t.pkg pkg).endorsed = imageVerified i (shake i.bytes) ∧
         (t.pkg pkg).almanac = [⟨0, i.mr % 8, i.image, imageVerified i (shake i.bytes), i.version, shake i.bytes⟩])) ∧
     (∀ stks code planes, k.boot = .testing →
       (∃ t, exec (.selfTestEnd pkg stks 0 code planes) s = .next t ∧ { t with pkgs := s.pkgs } = s ∧
         t.pkg pkg = { k with planesBad := BitVec.ofNat 8 planes, boot := .ready }) ∧
       (∀ unit, 1 ≤ unit → unit ≤ 3 → ∃ t, exec (.selfTestEnd pkg stks unit code planes) s = .next t ∧ (t.pkg pkg).boot = .safe ∧
         (t.pkg pkg).failUnit = unit ∧ (t.pkg pkg).failStks = BitVec.ofNat 16 stks ∧ (t.pkg pkg).failCode = code % 65536)) ∧
     (∀ v, nbit v 0 = true → k.attBusy = false →
       (attBufOk pkg k.attBuf.toNat = false → ∃ t, exec (.attGo pkg v) s = .next t ∧ (t.pkg pkg).attBusy = false ∧ (t.pkg pkg).attErr = true ∧
         (t.pkg pkg).attEcode = 1) ∧
       (attBufOk pkg k.attBuf.toNat = true → ∃ t, exec (.attGo pkg v) s = .next t ∧ (t.pkg pkg).attBusy = true ∧ (t.pkg pkg).attErr = false ∧
         (t.pkg pkg).attDone = false ∧ (t.pkg pkg).attReqNonce = k.attNonce ∧ (t.pkg pkg).attReqBuf = k.attBuf)) ∧
     (k.attBusy = true →
       (isHostRef k.attReqBuf.toNat = true → k.linkUp = false → ∃ t, exec (.attReportDone pkg) s = .next t ∧ t.mem = s.mem ∧
         t.pkg pkg = { k with attBusy := false, attErr := true, attEcode := 2 }) ∧
       ((isHostRef k.attReqBuf.toNat = false ∨ k.linkUp = true) → ∃ t, exec (.attReportDone pkg) s = .next t ∧ (t.pkg pkg).attBusy = false ∧
         (t.pkg pkg).attDone = true ∧ (t.pkg pkg).attLen = 30496 ∧ (t.pkg pkg).msix = k.msix ++ [0] ∧
         t.mem = (s.refStore k.attReqBuf.toNat (s.reportBytes pkg k.attReqNonce.toNat)).mem)) ∧
     (∀ nonce, ∃ t, exec (.mctpAttestRequest pkg nonce) s = .next t ∧ { t with pkgs := s.pkgs } = s ∧
       t.pkg pkg = { k with mctpOut := k.mctpOut ++ [s.reportBytes pkg nonce] }) ∧
     (k.boot = .ready → ∀ v, (10 < bits v 0 4 → exec (.pwrCtlWrite pkg v) s = .next s) ∧
       (bits v 0 4 ≤ 10 → ∃ t, exec (.pwrCtlWrite pkg v) s = .next t ∧ t.pkg pkg = { k with capWanted := some (bits v 0 4) } ∧ { t with pkgs := s.pkgs } = s)) ∧
     (∀ n, k.capWanted = some n → ∃ t, exec (.capEffect pkg) s = .next t ∧ t.pkg pkg = { k with cap := n, capWanted := none } ∧
       { t with pkgs := s.pkgs } = s)) ∧
    ((s.pkg (pkgOf gs)).boot = .ready → ∀ v, ((s.stk gs).privUsed ≠ [] → ∀ off, exec (.privAreaWrite gs off v) s = .next s) ∧
      ((s.stk gs).privUsed = [] → ∃ t u, exec (.privAreaWrite gs 0 v) s = .next t ∧ exec (.privAreaWrite gs 8 v) s = .next u ∧ OnlyStks s t ∧ OnlyStks s u ∧
        t.stk gs = { s.stk gs with privBase := BitVec.ofNat 64 (bits v 16 26 * 2 ^ 16) } ∧ u.stk gs = { s.stk gs with privSize := v % 65536 })) ∧
    (∀ off n v, (n = 4 ∨ n = 8 ∨ n = 16) → off % n = 0 → exec (.registerWrite gs off n v) s = .next (s.regWrite gs off n v)) ∧
    ((s.pkg (pkgOf gs)).boot = .ready → ∀ v, ∃ t, exec (.registerWrite gs 0x50030 8 v) s = .next t ∧ OnlyStks s t ∧ t.stk gs = { s.stk gs with saveSize := v % 65536 })

namespace Sys2Proof.Certificates

open Sys2Proof Sys2Proof.Machine

/-- Events in which an agent performs something on memory: accesses, posts, host writes, the sectors of copies and epilogue stores, tile
messages and value-run results. -/
def performing (i : Instr) : Prop :=
  (∃ a m, i = .storePerform a m ∨ i = .loadResult a m) ∨ (∃ a, i = .atomicPerform a ∨ i = .postPerform a ∨ i = .tileWriteServe a) ∨
    (∃ a k, i = .copySectorLand a k ∨ i = .epilogueStoreSector a k ∨ i = .vrResultPerform a k) ∨
    ∃ p l n d, i = .hostWrite p l n d

end Sys2Proof.Certificates

open Sys2Proof Sys2Proof.Machine Sys2Proof.Certificates in
/-- 06 R126-R134: decoding the encoding of a well-formed word gives it back, with every operand at every value the encoding admits and
whatever follows in memory. -/
def Obligations.DecodeInvertsEncode : Prop :=
  ∀ (i : Instr) (rest : List Byte), isWord i = true → i.WellFormed → decode ((encode i).flatMap wordBytes ++ rest) = .ok (i, rest)

open Sys2Proof Sys2Proof.Machine Sys2Proof.Certificates in
/-- 06 R134: what decodes is a well-formed word and its own encoding, so no bit of a word is dropped and no two encodings are one
instruction. -/
def Obligations.DecodedWordsAreTheirEncodings : Prop :=
  ∀ (bytes rest : List Byte) (i : Instr), decode bytes = .ok (i, rest) →
    isWord i = true ∧ i.WellFormed ∧ bytes = (encode i).flatMap wordBytes ++ rest

open Sys2Proof Sys2Proof.Machine Sys2Proof.Certificates in
/-- Words the manual writes out (06 Table 6-19 and the programs of 18, 19 and 20) decode to the instructions they stand for. -/
def Obligations.SpecWordsDecode : Prop :=
  decodeTableWord 32 0x000B8690 = some (.iadd ⟨1, false, 0x70, 0x69, false, 0⟩) ∧
  decodeTableWord 32 0x72200014 = some (.smovi ⟨4, false, 0x14⟩) ∧
  decodeTableWord 64 0x000000202C0B0440 = some (.iset ⟨1, false, 0x60, 0x44, false, 0⟩ ⟨0, 0, false, false, false, false, false, false, false, 2, 0⟩) ∧
  decodeTableWord 32 0xE83FFFFA = some (.bra ⟨false, 1, 0x1FFFFA⟩) ∧
  decodeTableWord 32 0xEE000004 = some .exitW ∧
  decodeTableWord 32 0xA0A10006 = some (.ld ⟨0x14, 0x10, 0, 0, 0, 6⟩) ∧
  decodeTableWord 32 0xF002200B = some (.loop 0x44 0x0B) ∧
  decodeTableWord 32 0x36C8F140 = some (.movx ⟨0x19, false, 0x1E, 0x14, false, 0⟩) ∧
  decodeTableWord 32 0xA8C1C001 = some (.post ⟨0x18, 0x1C, 0, 0, 0, 1⟩) ∧
  decodeTableWord 32 0xF2000003 = some (.join 0) ∧
  decodeTableWord 32 0xA4F886E7 = some (.atom ⟨0x1F, 8, 6, 3, 2, 7⟩)

open Sys2Proof Sys2Proof.Machine Sys2Proof.Certificates in
/-- 06 R117, 14 R324, R326, 16 R345: where the words a path holds decode to an instruction, running its next word is exec of that instruction with
the path under the cursor, followed by what issuing leaves; a word that issues is first seen by the execute predicates, a precise firing of
which stops its issuer before it, and traced. A step of an issue stage runs the word of the first path in order, and where that is held at issue
lets the next path try; the one of position 1 runs the word chosen with it. A step of any other agent is exec of that agent's event. That
agents move one at a time, in the agenda's order, is the model's (log 1, DESIGN CHOICE), and so is that a word held at issue leaves its turn to
the next path (log 58, DESIGN CHOICE). -/
def Obligations.StepRunsTheDecodedWord : Prop :=
  (∀ (r : State) (gc cid e : Nat) (second : Bool) (c : Ctx) (k : Clause) (w : Word) (ws : List Word) (i : Instr) (tail : List Byte),
    r.ctx? cid = some c → (c.path e).clause = some k → k.words = w :: ws → decode ((w :: ws).flatMap wordBytes) = .ok (i, tail) →
    (let a := r.aim cid e second
     let shown := a.watchExecute cid e
     (∀ t, exec i a = .next t → a.sent t cid e = false → runWord r gc cid e second = .next (t.issued gc cid e a.nextId (c.path e))) ∧
     (∀ t, exec i a = .next t → a.sent t cid e = true → shown.2 = true → runWord r gc cid e second = .next shown.1) ∧
     (∀ t v, exec i a = .next t → a.sent t cid e = true → shown.2 = false → exec i (shown.1.traceHeader cid e) = .next v →
       runWord r gc cid e second = .next (v.issued gc cid e a.nextId (c.path e))) ∧
     (∀ f, exec i a = .fault f → runWord r gc cid e second = .fault f) ∧
     (∀ f, exec i a = .refused f → runWord r gc cid e second = .refused f))) ∧
  (∀ (s : State) (rest : List Move), let r : State := { s with agenda := rest }
    (∀ (gc cid e : Nat) (more : List (Nat × Nat)) (t : State), s.agenda = .issue gc :: rest → r.ranked gc = (cid, e) :: more →
      runWord r gc cid e false = .next t →
      (heldAtIssue r t cid = false → step s = .next { t with cursor := { t.cursor with pair := pairFor r gc (cid, e) more } }) ∧
      (heldAtIssue r t cid = true →
        step s = issueFirst gc more (r.updCtx cid fun d => { d with stall := ((t.ctx? cid).map (·.stall)).getD d.stall }))) ∧
    (∀ (gc cid e : Nat) (t : State), s.agenda = .issueSecond gc :: rest → r.cursor.pair = some (cid, e) →
      (let q : State := { r with cursor := { r.cursor with pair := none } }
       q.mayPair gc cid e = true → runWord q gc cid e true = .next t → heldAtIssue q t cid = false → step s = .next t)) ∧
    (∀ i : Instr, s.agenda = .event i :: rest → step s = if isWord i then .refused .notAnEvent else exec i r))

open Sys2Proof Sys2Proof.Machine Sys2Proof.Certificates in
/-- What reset leaves, by the reset columns: 03 R57, 04 R80 (SEASON and INFORCE 2), 05 R99, R104, 14 R319 (TCOOL 89, THOT 95), 15 R332, 16 R354, R372,
17 R377, R378 (USER 1), R382; the values the manual leaves open are the model's (log 3: INC 1; logs 4 to 9; log 10: launch numbers from 0
and the like). And what group birth leaves, 06 R106 and 07 R139: registers and predicates but p0 zero, one path with every lane. -/
def Obligations.ResetAndBirthState : Prop :=
  (∀ gs, let k := State.reset.stk gs
    k.season = 2 ∧ k.inforce = 2 ∧ k.tcool = 89 ∧ k.thot = 95 ∧ (∀ p, mget k.xlatRoot p 0 = 0) ∧ k.stopBase = 0 ∧ k.flogBase = 0 ∧
      k.flogHead = 0 ∧ k.flogTail = 0 ∧ k.saveBase = 0 ∧ k.saveSize = 0 ∧ k.firsts = [] ∧ k.lines = [] ∧ k.trcIdle = true ∧
      k.trcEn = false ∧ k.dbgErr = false ∧ k.poisoned = []) ∧
  (∀ p, let k := State.reset.pkg p
    k.inc = 1 ∧ k.stripe = false ∧ k.launchNo = 0 ∧ k.boot = .testing ∧ k.linkUp = false ∧ k.cap = 0 ∧
      ∀ q, (mget k.queues q HostQ.reset).en = false ∧ (mget k.queues q HostQ.reset).user = true ∧ (mget k.queues q HostQ.reset).base = 0) ∧
  (∀ gc, let k := State.reset.core gc
    k.cycle = 0 ∧ k.preds = [] ∧ k.avoid = false ∧ k.hot = false) ∧
  State.reset.ctxs = [] ∧ State.reset.launches = [] ∧ (∀ a, State.reset.byte a = memDefault) ∧ State.reset.memInv ∧
  (∀ (l : Launch) (key tk g gc birth place priv now : Nat), let c := l.bear key tk g gc birth place priv now
    (∀ r j, c.v r j = 0) ∧ (∀ r, c.sreg r = 0) ∧ (∀ k, c.pred k = if k = 0 then BitVec.allOnes 64 else 0) ∧ (∀ j, mget c.fstat j 0 = 0) ∧
      (∀ k, mget c.wslot k 0 = 0) ∧ c.loops = [] ∧ (∀ j, mget c.rstack j [] = []) ∧ c.leader = none ∧ c.inHandler = false ∧
      c.seed = 0 ∧ c.scnt = 0 ∧ c.ftz = false ∧ c.visit = false ∧ c.err42 = false ∧ c.anchor = 0 ∧ c.fcause = 0 ∧ c.faddr = 0 ∧
      c.fpc = 0 ∧ c.flanes = 0 ∧ c.trap = l.desc.trap ∧ c.splitB = l.desc.split ∧
      (c.path 0).v = true ∧ (c.path 0).pc = l.desc.entry ∧ (c.path 0).mask = c.lanes ∧ (c.path 0).latches = [] ∧
      ∀ e, e ≠ 0 → (c.path e).v = false)

open Sys2Proof Sys2Proof.Machine Sys2Proof.Certificates in
/-- 13 R299, 15 R329, R336, R337: taking a trap. Where the path can take a handler: every lane of it at TRAP, the resume pushed, the report loaded,
INHANDLER set, and nothing else of the machine changed, but for the fault-log record where the halt line is about to stop the group. Where it
can not, the trap is unhandled: the report is loaded, the group stops and
leaves the active set, a record flagged unhandled stands at its place, the launch's STATUS takes the code where it was 0, and the halt line
of its partition is up on that package: on the stacks whose XLAT_ROOT slot is enabled (log 16, DEDUCED). -/
def Obligations.TakingATrap : Prop :=
  ∀ (s : State) (cid e resume : Nat) (c : Ctx) (r : Report32), s.ctx? cid = some c →
    (Handled c e → ∃ c', (s.takeTrap cid e resume r).ctx? cid = some c' ∧ (∀ k, k ≠ cid → (s.takeTrap cid e resume r).ctx? k = s.ctx? k) ∧
      AtHandler c c' e resume r ∧ (s.halting cid = false → OnlyCtx s (s.takeTrap cid e resume r) cid c' ∧ c'.met = c.met) ∧
      (s.halting cid = true → c'.met = r.code)) ∧
    ((c.trap = 0xFFFFFFFF ∨ c.inHandler = true ∨ ∃ l, (c.path e).mask.getLsbD l = true ∧ 64 ≤ c.depth l) → c.stop = none →
      ((s.launch? c.launch).map (·.desc.killsib)) ≠ some true → s.isAgent c.launch = false →
      s.halting cid = false →
      (let t := s.takeTrap cid e resume r
       (∃ c' ev, t.ctx? cid = some c' ∧ c'.stop = some ⟨ev, r.code⟩ ∧ c'.place ≠ .active ∧ c'.faddr = BitVec.ofNat 64 r.addr ∧
         c'.fpc = BitVec.ofNat 32 r.pc ∧ c'.flanes = r.lanes ∧ c'.fcause = (c.loadReport r).fcause ∧
         c'.vregs = c.vregs ∧ c'.sregs = c.sregs ∧ c'.path e = c.path e ∧ c'.rstack = c.rstack) ∧
       (∀ k, k ≠ cid → t.ctx? k = s.ctx? k) ∧
       (s.ownsPlace cid c = true → c.slotNo < 64 → ∃ rc, mfind (t.stk (gsOf c.gc)).recs c.placeIdx = some rc ∧ rc.unh = true ∧ rc.reason = r.code ∧ rc.pc = r.pc ∧ rc.lanes = r.lanes) ∧
       (∀ l, s.launch? c.launch = some l → ∃ m, t.launch? c.launch = some m ∧ m.status = if l.status = 0 then r.code else l.status) ∧
       ∀ gs, pkgOf gs = pkgOf (gsOf c.gc) → (mget (s.stk gs).xlatRoot c.pslot 0).getLsbD 0 = true → ∃ ev, (c.pslot, ev) ∈ (t.stk gs).lines))

open Sys2Proof Sys2Proof.Machine Sys2Proof.Certificates in
/-- The model's canonical memory (00 R4, log 4): whatever an agent performs on memory keeps the list of cells strictly rising by address with no cell
equal to what an unlisted one reads as. -/
def Obligations.PerformingKeepsMemoryCanonical : Prop :=
  ∀ (s t : State) (i : Instr), performing i → s.memInv → exec i s = .next t → t.memInv

open Sys2Proof Sys2Proof.Machine Sys2Proof.Certificates in
/-- The model's canonical memory (log 4) is an invariant of every step of every agent, whatever state it is taken in. -/
def Obligations.EveryStepKeepsMemoryCanonical : Prop :=
  ∀ (s t : State), s.memInv → step s = .next t → t.memInv
end

