-- ==== Sys2Proof/Laws/Dispatch.lean ====
section
/-! SUPPORT. `exec` of each constructor is its meaning: one lemma per arm, so that no proof unfolds the whole dispatch. -/

namespace Sys2Proof.Machine

@[simp] theorem exec_iadd (f : FmtA) (st : State) : exec (.iadd f) st = execIadd f st := rfl
@[simp] theorem exec_isub (f : FmtA) (st : State) : exec (.isub f) st = execIsub f st := rfl
@[simp] theorem exec_imul (f : FmtA) (st : State) : exec (.imul f) st = execImul f st := rfl
@[simp] theorem exec_imulh (f : FmtA) (x : FmtX) (st : State) : exec (.imulh f x) st = execImulh f x st := rfl
@[simp] theorem exec_imad (f : FmtA) (x : FmtX) (st : State) : exec (.imad f x) st = execImad f x st := rfl
@[simp] theorem exec_imadw (f : FmtA) (x : FmtX) (st : State) : exec (.imadw f x) st = execImadw f x st := rfl
@[simp] theorem exec_imin (f : FmtA) (x : FmtX) (st : State) : exec (.imin f x) st = execImin f x st := rfl
@[simp] theorem exec_imax (f : FmtA) (x : FmtX) (st : State) : exec (.imax f x) st = execImax f x st := rfl
@[simp] theorem exec_iabs (f : FmtA) (st : State) : exec (.iabs f) st = execIabs f st := rfl
@[simp] theorem exec_andW (f : FmtA) (st : State) : exec (.andW f) st = execAnd f st := rfl
@[simp] theorem exec_orW (f : FmtA) (st : State) : exec (.orW f) st = execOr f st := rfl
@[simp] theorem exec_xorW (f : FmtA) (st : State) : exec (.xorW f) st = execXor f st := rfl
@[simp] theorem exec_andn (f : FmtA) (st : State) : exec (.andn f) st = execAndn f st := rfl
@[simp] theorem exec_shl (f : FmtA) (st : State) : exec (.shl f) st = execShl f st := rfl
@[simp] theorem exec_shr (f : FmtA) (st : State) : exec (.shr f) st = execShr f st := rfl
@[simp] theorem exec_sar (f : FmtA) (st : State) : exec (.sar f) st = execSar f st := rfl
@[simp] theorem exec_rotl (f : FmtA) (st : State) : exec (.rotl f) st = execRotl f st := rfl
@[simp] theorem exec_bfx (f : FmtA) (st : State) : exec (.bfx f) st = execBfx f st := rfl
@[simp] theorem exec_bfi (f : FmtA) (x : FmtX) (st : State) : exec (.bfi f x) st = execBfi f x st := rfl
@[simp] theorem exec_popc (f : FmtA) (st : State) : exec (.popc f) st = execPopc f st := rfl
@[simp] theorem exec_clz (f : FmtA) (st : State) : exec (.clz f) st = execClz f st := rfl
@[simp] theorem exec_brev (f : FmtA) (st : State) : exec (.brev f) st = execBrev f st := rfl
@[simp] theorem exec_iset (f : FmtA) (x : FmtX) (st : State) : exec (.iset f x) st = execIset f x st := rfl
@[simp] theorem exec_sel (f : FmtA) (x : FmtX) (st : State) : exec (.sel f x) st = execSel f x st := rfl
@[simp] theorem exec_mov (f : FmtA) (st : State) : exec (.mov f) st = execMov f st := rfl
@[simp] theorem exec_movi (f : FmtI) (st : State) : exec (.movi f) st = execMovi f st := rfl
@[simp] theorem exec_moviH (f : FmtI) (st : State) : exec (.moviH f) st = execMoviH f st := rfl
@[simp] theorem exec_movx (f : FmtA) (st : State) : exec (.movx f) st = execMovx f st := rfl
@[simp] theorem exec_movxw (f : FmtA) (st : State) : exec (.movxw f) st = execMovxw f st := rfl
@[simp] theorem exec_lea (f : FmtA) (x : FmtX) (st : State) : exec (.lea f x) st = execLea f x st := rfl
@[simp] theorem exec_fadd (f : FmtA) (st : State) : exec (.fadd f) st = execFadd f st := rfl
@[simp] theorem exec_fmul (f : FmtA) (st : State) : exec (.fmul f) st = execFmul f st := rfl
@[simp] theorem exec_ffma (f : FmtA) (x : FmtX) (st : State) : exec (.ffma f x) st = execFfma f x st := rfl
@[simp] theorem exec_fmin (f : FmtA) (st : State) : exec (.fmin f) st = execFmin f st := rfl
@[simp] theorem exec_fmax (f : FmtA) (st : State) : exec (.fmax f) st = execFmax f st := rfl
@[simp] theorem exec_fset (f : FmtA) (x : FmtX) (st : State) : exec (.fset f x) st = execFset f x st := rfl
@[simp] theorem exec_fclass (f : FmtA) (st : State) : exec (.fclass f) st = execFclass f st := rfl
@[simp] theorem exec_frnd (f : FmtA) (x : FmtX) (st : State) : exec (.frnd f x) st = execFrnd f x st := rfl
@[simp] theorem exec_fscale (f : FmtA) (st : State) : exec (.fscale f) st = execFscale f st := rfl
@[simp] theorem exec_duadd (f : FmtA) (x : FmtX) (st : State) : exec (.duadd f x) st = execDuadd f x st := rfl
@[simp] theorem exec_dumul (f : FmtA) (x : FmtX) (st : State) : exec (.dumul f x) st = execDumul f x st := rfl
@[simp] theorem exec_dufma (f : FmtA) (x : FmtX) (st : State) : exec (.dufma f x) st = execDufma f x st := rfl
@[simp] theorem exec_dumin (f : FmtA) (x : FmtX) (st : State) : exec (.dumin f x) st = execDumin f x st := rfl
@[simp] theorem exec_dumax (f : FmtA) (x : FmtX) (st : State) : exec (.dumax f x) st = execDumax f x st := rfl
@[simp] theorem exec_duset (f : FmtA) (x : FmtX) (st : State) : exec (.duset f x) st = execDuset f x st := rfl
@[simp] theorem exec_cvt (f : FmtA) (x : FmtX) (st : State) : exec (.cvt f x) st = execCvt f x st := rfl
@[simp] theorem exec_zpk (f : FmtA) (x : FmtX) (st : State) : exec (.zpk f x) st = execZpk f x st := rfl
@[simp] theorem exec_zupk (f : FmtA) (x : FmtX) (st : State) : exec (.zupk f x) st = execZupk f x st := rfl
@[simp] theorem exec_mxpk (f : FmtA) (x : FmtX) (st : State) : exec (.mxpk f x) st = execMxpk f x st := rfl
@[simp] theorem exec_mxupk (f : FmtA) (x : FmtX) (st : State) : exec (.mxupk f x) st = execMxupk f x st := rfl
@[simp] theorem exec_fdot4 (f : FmtA) (x : FmtX) (st : State) : exec (.fdot4 f x) st = execFdot4 f x st := rfl
@[simp] theorem exec_idot4 (f : FmtA) (x : FmtX) (st : State) : exec (.idot4 f x) st = execIdot4 f x st := rfl
@[simp] theorem exec_sadd (f : FmtS) (st : State) : exec (.sadd f) st = execSadd f st := rfl
@[simp] theorem exec_ssub (f : FmtS) (st : State) : exec (.ssub f) st = execSsub f st := rfl
@[simp] theorem exec_smul (f : FmtS) (st : State) : exec (.smul f) st = execSmul f st := rfl
@[simp] theorem exec_sand (f : FmtS) (st : State) : exec (.sand f) st = execSand f st := rfl
@[simp] theorem exec_sor (f : FmtS) (st : State) : exec (.sor f) st = execSor f st := rfl
@[simp] theorem exec_sxor (f : FmtS) (st : State) : exec (.sxor f) st = execSxor f st := rfl
@[simp] theorem exec_sshl (f : FmtS) (st : State) : exec (.sshl f) st = execSshl f st := rfl
@[simp] theorem exec_sshr (f : FmtS) (st : State) : exec (.sshr f) st = execSshr f st := rfl
@[simp] theorem exec_ssetEq (f : FmtS) (st : State) : exec (.ssetEq f) st = execSsetEq f st := rfl
@[simp] theorem exec_ssetNe (f : FmtS) (st : State) : exec (.ssetNe f) st = execSsetNe f st := rfl
@[simp] theorem exec_ssetLt (f : FmtS) (st : State) : exec (.ssetLt f) st = execSsetLt f st := rfl
@[simp] theorem exec_ssetGe (f : FmtS) (st : State) : exec (.ssetGe f) st = execSsetGe f st := rfl
@[simp] theorem exec_ssetLtu (f : FmtS) (st : State) : exec (.ssetLtu f) st = execSsetLtu f st := rfl
@[simp] theorem exec_ssetGeu (f : FmtS) (st : State) : exec (.ssetGeu f) st = execSsetGeu f st := rfl
@[simp] theorem exec_smov (f : FmtS) (st : State) : exec (.smov f) st = execSmov f st := rfl
@[simp] theorem exec_smovi (f : FmtI) (st : State) : exec (.smovi f) st = execSmovi f st := rfl
@[simp] theorem exec_smoviH (f : FmtI) (st : State) : exec (.smoviH f) st = execSmoviH f st := rfl
@[simp] theorem exec_saddImm (f : FmtIS) (st : State) : exec (.saddImm f) st = execSaddImm f st := rfl
@[simp] theorem exec_sandImm (f : FmtIS) (st : State) : exec (.sandImm f) st = execSandImm f st := rfl
@[simp] theorem exec_sshlImm (f : FmtIS) (st : State) : exec (.sshlImm f) st = execSshlImm f st := rfl
@[simp] theorem exec_sshrImm (f : FmtIS) (st : State) : exec (.sshrImm f) st = execSshrImm f st := rfl
@[simp] theorem exec_rcp (f : FmtA) (st : State) : exec (.rcp f) st = execRcp f st := rfl
@[simp] theorem exec_rsq (f : FmtA) (st : State) : exec (.rsq f) st = execRsq f st := rfl
@[simp] theorem exec_sqrt (f : FmtA) (st : State) : exec (.sqrt f) st = execSqrt f st := rfl
@[simp] theorem exec_ex2 (f : FmtA) (st : State) : exec (.ex2 f) st = execEx2 f st := rfl
@[simp] theorem exec_lg2 (f : FmtA) (st : State) : exec (.lg2 f) st = execLg2 f st := rfl
@[simp] theorem exec_sin (f : FmtA) (st : State) : exec (.sin f) st = execSin f st := rfl
@[simp] theorem exec_cos (f : FmtA) (st : State) : exec (.cos f) st = execCos f st := rfl
@[simp] theorem exec_tanh (f : FmtA) (st : State) : exec (.tanh f) st = execTanh f st := rfl
@[simp] theorem exec_plop (f : FmtA) (x : FmtX) (st : State) : exec (.plop f x) st = execPlop f x st := rfl
@[simp] theorem exec_p2v (f : FmtA) (st : State) : exec (.p2v f) st = execP2v f st := rfl
@[simp] theorem exec_v2p (f : FmtA) (st : State) : exec (.v2p f) st = execV2p f st := rfl
@[simp] theorem exec_shfl (f : FmtA) (x : FmtX) (st : State) : exec (.shfl f x) st = execShfl f x st := rfl
@[simp] theorem exec_vote (f : FmtA) (x : FmtX) (st : State) : exec (.vote f x) st = execVote f x st := rfl
@[simp] theorem exec_redx (f : FmtA) (x : FmtX) (st : State) : exec (.redx f x) st = execRedx f x st := rfl
@[simp] theorem exec_scan (f : FmtA) (x : FmtX) (st : State) : exec (.scan f x) st = execScan f x st := rfl
@[simp] theorem exec_matchW (f : FmtA) (x : FmtX) (st : State) : exec (.matchW f x) st = execMatch f x st := rfl
@[simp] theorem exec_v2s (f : FmtA) (st : State) : exec (.v2s f) st = execV2s f st := rfl
@[simp] theorem exec_ld (f : FmtM) (st : State) : exec (.ld f) st = execLd f st := rfl
@[simp] theorem exec_st (f : FmtM) (st : State) : exec (.st f) st = execSt f st := rfl
@[simp] theorem exec_atom (f : FmtM) (st : State) : exec (.atom f) st = execAtom f st := rfl
@[simp] theorem exec_cas (f : FmtM) (st : State) : exec (.cas f) st = execCas f st := rfl
@[simp] theorem exec_post (f : FmtM) (st : State) : exec (.post f) st = execPost f st := rfl
@[simp] theorem exec_migrate (f : FmtM) (st : State) : exec (.migrate f) st = execMigrate f st := rfl
@[simp] theorem exec_migrateOne (f : FmtM) (st : State) : exec (.migrateOne f) st = execMigrateOne f st := rfl
@[simp] theorem exec_home (f : FmtM) (st : State) : exec (.home f) st = execHome f st := rfl
@[simp] theorem exec_ldt (f : FmtM) (st : State) : exec (.ldt f) st = execLdt f st := rfl
@[simp] theorem exec_stt (f : FmtM) (st : State) : exec (.stt f) st = execStt f st := rfl
@[simp] theorem exec_cpy (f : FmtE) (c : CopyCtl) (st : State) : exec (.cpy f c) st = execCpy f c st := rfl
@[simp] theorem exec_cpyi (f : FmtE) (c : CopyCtl) (st : State) : exec (.cpyi f c) st = execCpyi f c st := rfl
@[simp] theorem exec_cpys (f : FmtE) (st : State) : exec (.cpys f) st = execCpys f st := rfl
@[simp] theorem exec_gath (f : FmtE) (c : GathCtl) (st : State) : exec (.gath f c) st = execGath f c st := rfl
@[simp] theorem exec_scat (f : FmtE) (c : GathCtl) (st : State) : exec (.scat f c) st = execScat f c st := rfl
@[simp] theorem exec_fill (f : FmtE) (st : State) : exec (.fill f) st = execFill f st := rfl
@[simp] theorem exec_seal (f : FmtE) (st : State) : exec (.seal f) st = execSeal f st := rfl
@[simp] theorem exec_waitb (f : FmtE) (st : State) : exec (.waitb f) st = execWaitb f st := rfl
@[simp] theorem exec_mma (f : FmtA) (x : FmtX) (st : State) : exec (.mma f x) st = execMma f x st := rfl
@[simp] theorem exec_mloop (f : FmtE) (c : MloopCtl) (st : State) : exec (.mloop f c) st = execMloop f c st := rfl
@[simp] theorem exec_mld (f : FmtE) (st : State) : exec (.mld f) st = execMld f st := rfl
@[simp] theorem exec_mldt (f : FmtE) (st : State) : exec (.mldt f) st = execMldt f st := rfl
@[simp] theorem exec_mst (f : FmtE) (c : MstCtl) (st : State) : exec (.mst f c) st = execMst f c st := rfl
@[simp] theorem exec_mvacc (f : FmtA) (x : FmtX) (st : State) : exec (.mvacc f x) st = execMvacc f x st := rfl
@[simp] theorem exec_maccv (f : FmtA) (x : FmtX) (st : State) : exec (.maccv f x) st = execMaccv f x st := rfl
@[simp] theorem exec_mzero (f : FmtA) (st : State) : exec (.mzero f) st = execMzero f st := rfl
@[simp] theorem exec_mscl (f : FmtA) (st : State) : exec (.mscl f) st = execMscl f st := rfl
@[simp] theorem exec_vrset (f : FmtE) (c : VrCtl) (st : State) : exec (.vrset f c) st = execVrset f c st := rfl
@[simp] theorem exec_vrrun (f : FmtE) (st : State) : exec (.vrrun f) st = execVrrun f st := rfl
@[simp] theorem exec_vract (f : FmtE) (st : State) : exec (.vract f) st = execVract f st := rfl
@[simp] theorem exec_bra (f : FmtB) (st : State) : exec (.bra f) st = execBra f st := rfl
@[simp] theorem exec_brc (f : FmtB) (st : State) : exec (.brc f) st = execBrc f st := rfl
@[simp] theorem exec_call (f : FmtB) (st : State) : exec (.call f) st = execCall f st := rfl
@[simp] theorem exec_brx (a : BitVec 7) (st : State) : exec (.brx a) st = execBrx a st := rfl
@[simp] theorem exec_callr (a : BitVec 7) (st : State) : exec (.callr a) st = execCallr a st := rfl
@[simp] theorem exec_ret (st : State) : exec (.ret) st = execRet st := rfl
@[simp] theorem exec_jmpt (a b : BitVec 7) (st : State) : exec (.jmpt a b) st = execJmpt a b st := rfl
@[simp] theorem exec_exitW (st : State) : exec (.exitW) st = execExit st := rfl
@[simp] theorem exec_nop (st : State) : exec (.nop) st = execNop st := rfl
@[simp] theorem exec_yield (st : State) : exec (.yield) st = execYield st := rfl
@[simp] theorem exec_elect (st : State) : exec (.elect) st = execElect st := rfl
@[simp] theorem exec_ende (st : State) : exec (.ende) st = execEnde st := rfl
@[simp] theorem exec_lbrk (st : State) : exec (.lbrk) st = execLbrk st := rfl
@[simp] theorem exec_leave (st : State) : exec (.leave) st = execLeave st := rfl
@[simp] theorem exec_loop (a : BitVec 7) (l : BitVec 8) (st : State) : exec (.loop a l) st = execLoop a l st := rfl
@[simp] theorem exec_enter (i : BitVec 16) (st : State) : exec (.enter i) st = execEnter i st := rfl
@[simp] theorem exec_grow (n : BitVec 4) (st : State) : exec (.grow n) st = execGrow n st := rfl
@[simp] theorem exec_shrink (n : BitVec 4) (st : State) : exec (.shrink n) st = execShrink n st := rfl
@[simp] theorem exec_bar (d : BitVec 6) (a : BitVec 7) (k : BitVec 4) (o : BitVec 3) (st : State) : exec (.bar d a k o) st = execBar d a k o st := rfl
@[simp] theorem exec_arrive (a : BitVec 7) (k : BitVec 4) (o : BitVec 3) (st : State) : exec (.arrive a k o) st = execArrive a k o st := rfl
@[simp] theorem exec_await (d : BitVec 6) (k : BitVec 4) (o : Bool) (st : State) : exec (.await d k o) st = execAwait d k o st := rfl
@[simp] theorem exec_join (k : BitVec 4) (st : State) : exec (.join k) st = execJoin k st := rfl
@[simp] theorem exec_joink (d : BitVec 6) (a : BitVec 7) (st : State) : exec (.joink d a) st = execJoink d a st := rfl
@[simp] theorem exec_trap (c : BitVec 7) (st : State) : exec (.trap c) st = execTrap c st := rfl
@[simp] theorem exec_tret (st : State) : exec (.tret) st = execTret st := rfl
@[simp] theorem exec_gets (d : BitVec 6) (i : BitVec 7) (st : State) : exec (.gets d i) st = execGets d i st := rfl
@[simp] theorem exec_sets (i b : BitVec 7) (st : State) : exec (.sets i b) st = execSets i b st := rfl
@[simp] theorem exec_halt (c : BitVec 7) (st : State) : exec (.halt c) st = execHalt c st := rfl
@[simp] theorem exec_replay (st : State) : exec (.replay) st = execReplay st := rfl
@[simp] theorem exec_dump (c : BitVec 7) (st : State) : exec (.dump c) st = execDump c st := rfl
@[simp] theorem exec_step (d : BitVec 6) (a b : BitVec 7) (st : State) : exec (.step d a b) st = execStep d a b st := rfl
@[simp] theorem exec_rdctx (d : BitVec 6) (a b : BitVec 7) (st : State) : exec (.rdctx d a b) st = execRdctx d a b st := rfl
@[simp] theorem exec_wrctx (d : BitVec 6) (a b : BitVec 7) (st : State) : exec (.wrctx d a b) st = execWrctx d a b st := rfl
@[simp] theorem exec_resume (d : BitVec 6) (a b : BitVec 7) (st : State) : exec (.resume d a b) st = execResume d a b st := rfl
@[simp] theorem exec_clauseFetch (ctx entry : Nat) (st : State) : exec (.clauseFetch ctx entry) st = execClauseFetch ctx entry st := rfl
@[simp] theorem exec_tableWalk (gc pslot va : Nat) (st : State) : exec (.tableWalk gc pslot va) st = execTableWalk gc pslot va st := rfl
@[simp] theorem exec_loadResult (op : Nat) (lanes : Mask) (st : State) : exec (.loadResult op lanes) st = execLoadResult op lanes st := rfl
@[simp] theorem exec_storePerform (op : Nat) (lanes : Mask) (st : State) : exec (.storePerform op lanes) st = execStorePerform op lanes st := rfl
@[simp] theorem exec_atomicPerform (op : Nat) (st : State) : exec (.atomicPerform op) st = execAtomicPerform op st := rfl
@[simp] theorem exec_postPerform (msg : Nat) (st : State) : exec (.postPerform msg) st = execPostPerform msg st := rfl
@[simp] theorem exec_postAck (ack : Nat) (st : State) : exec (.postAck ack) st = execPostAck ack st := rfl
@[simp] theorem exec_waitLineWake (ctx : Nat) (st : State) : exec (.waitLineWake ctx) st = execWaitLineWake ctx st := rfl
@[simp] theorem exec_invPage (gs vpage pslot : Nat) (st : State) : exec (.invPage gs vpage pslot) st = execInvPage gs vpage pslot st := rfl
@[simp] theorem exec_invSlot (gs pslot : Nat) (st : State) : exec (.invSlot gs pslot) st = execInvSlot gs pslot st := rfl
@[simp] theorem exec_invAll (gs : Nat) (st : State) : exec (.invAll gs) st = execInvAll gs st := rfl
@[simp] theorem exec_invalidationDropEnd (gs : Nat) (st : State) : exec (.invalidationDropEnd gs) st = execInvalidationDropEnd gs st := rfl
@[simp] theorem exec_migrationDepart (ctx : Nat) (st : State) : exec (.migrationDepart ctx) st = execMigrationDepart ctx st := rfl
@[simp] theorem exec_landingOffer (src dst : Nat) (st : State) : exec (.landingOffer src dst) st = execLandingOffer src dst st := rfl
@[simp] theorem exec_landingGrant (gs : Nat) (st : State) : exec (.landingGrant gs) st = execLandingGrant gs st := rfl
@[simp] theorem exec_grantReturn (gs src : Nat) (st : State) : exec (.grantReturn gs src) st = execGrantReturn gs src st := rfl
@[simp] theorem exec_contextLanding (msg : Nat) (st : State) : exec (.contextLanding msg) st = execContextLanding msg st := rfl
@[simp] theorem exec_landingAck (ack : Nat) (st : State) : exec (.landingAck ack) st = execLandingAck ack st := rfl
@[simp] theorem exec_contextPlace (ctx : Nat) (st : State) : exec (.contextPlace ctx) st = execContextPlace ctx st := rfl
@[simp] theorem exec_coreToCoreArrival (ctx : Nat) (st : State) : exec (.coreToCoreArrival ctx) st = execCoreToCoreArrival ctx st := rfl
@[simp] theorem exec_groupSplit (ctx : Nat) (st : State) : exec (.groupSplit ctx) st = execGroupSplit ctx st := rfl
@[simp] theorem exec_visitChainLeg (ctx : Nat) (st : State) : exec (.visitChainLeg ctx) st = execVisitChainLeg ctx st := rfl
@[simp] theorem exec_joinArrival (ctx : Nat) (st : State) : exec (.joinArrival ctx) st = execJoinArrival ctx st := rfl
@[simp] theorem exec_rstackExtensionClaim (ctx : Nat) (st : State) : exec (.rstackExtensionClaim ctx) st = execRstackExtensionClaim ctx st := rfl
@[simp] theorem exec_doorbell (gs page slot khandle args : Nat) (st : State) : exec (.doorbell gs page slot khandle args) st = execDoorbell gs page slot khandle args st := rfl
@[simp] theorem exec_bankLaunchStart (gs : Nat) (st : State) : exec (.bankLaunchStart gs) st = execBankLaunchStart gs st := rfl
@[simp] theorem exec_bankPassStart (gs : Nat) (st : State) : exec (.bankPassStart gs) st = execBankPassStart gs st := rfl
@[simp] theorem exec_bankColumnCycle (gs : Nat) (st : State) : exec (.bankColumnCycle gs) st = execBankColumnCycle gs st := rfl
@[simp] theorem exec_bankPassEnd (gs : Nat) (st : State) : exec (.bankPassEnd gs) st = execBankPassEnd gs st := rfl
@[simp] theorem exec_rowEmulationEnd (gs : Nat) (st : State) : exec (.rowEmulationEnd gs) st = execRowEmulationEnd gs st := rfl
@[simp] theorem exec_bankLaunchComplete (gs : Nat) (st : State) : exec (.bankLaunchComplete gs) st = execBankLaunchComplete gs st := rfl
@[simp] theorem exec_scrubVisitStart (gs bank : Nat) (st : State) : exec (.scrubVisitStart gs bank) st = execScrubVisitStart gs bank st := rfl
@[simp] theorem exec_scrubVisitEnd (gs bank : Nat) (st : State) : exec (.scrubVisitEnd gs bank) st = execScrubVisitEnd gs bank st := rfl
@[simp] theorem exec_seasonBoundary (gs : Nat) (st : State) : exec (.seasonBoundary gs) st = execSeasonBoundary gs st := rfl
@[simp] theorem exec_dramRefresh (gs bank : Nat) (st : State) : exec (.dramRefresh gs bank) st = execDramRefresh gs bank st := rfl
@[simp] theorem exec_scrubCtlWrite (gs value : Nat) (st : State) : exec (.scrubCtlWrite gs value) st = execScrubCtlWrite gs value st := rfl
@[simp] theorem exec_meshUncorrectable (pkg : Nat) (owner : Option Nat) (st : State) : exec (.meshUncorrectable pkg owner) st = execMeshUncorrectable pkg owner st := rfl
@[simp] theorem exec_channelFlitReceive (ch : Nat) (flit : BitVec 576) (st : State) : exec (.channelFlitReceive ch flit) st = execChannelFlitReceive ch flit st := rfl
@[simp] theorem exec_ackSendTimer (ch : Nat) (st : State) : exec (.ackSendTimer ch) st = execAckSendTimer ch st := rfl
@[simp] theorem exec_replayTimeout (ch : Nat) (st : State) : exec (.replayTimeout ch) st = execReplayTimeout ch st := rfl
@[simp] theorem exec_spareSwitch (ch : Nat) (st : State) : exec (.spareSwitch ch) st = execSpareSwitch ch st := rfl
@[simp] theorem exec_spareSwitchEnd (ch : Nat) (st : State) : exec (.spareSwitchEnd ch) st = execSpareSwitchEnd ch st := rfl
@[simp] theorem exec_retrain (ch : Nat) (ok : Bool) (st : State) : exec (.retrain ch ok) st = execRetrain ch ok st := rfl
@[simp] theorem exec_training (ch inc : Nat) (st : State) : exec (.training ch inc) st = execTraining ch inc st := rfl
@[simp] theorem exec_lossOfLight (ch : Nat) (st : State) : exec (.lossOfLight ch) st = execLossOfLight ch st := rfl
@[simp] theorem exec_peerDown (pkg peer : Nat) (st : State) : exec (.peerDown pkg peer) st = execPeerDown pkg peer st := rfl
@[simp] theorem exec_tileReadServe (msg : Nat) (st : State) : exec (.tileReadServe msg) st = execTileReadServe msg st := rfl
@[simp] theorem exec_tileWriteServe (msg : Nat) (st : State) : exec (.tileWriteServe msg) st = execTileWriteServe msg st := rfl
@[simp] theorem exec_copyStart (cmd : Nat) (st : State) : exec (.copyStart cmd) st = execCopyStart cmd st := rfl
@[simp] theorem exec_copySectorIssue (cmd : Nat) (st : State) : exec (.copySectorIssue cmd) st = execCopySectorIssue cmd st := rfl
@[simp] theorem exec_copySectorLand (cmd sector : Nat) (st : State) : exec (.copySectorLand cmd sector) st = execCopySectorLand cmd sector st := rfl
@[simp] theorem exec_kStepEnd (cmd : Nat) (st : State) : exec (.kStepEnd cmd) st = execKStepEnd cmd st := rfl
@[simp] theorem exec_mloopStepStart (cmd : Nat) (st : State) : exec (.mloopStepStart cmd) st = execMloopStepStart cmd st := rfl
@[simp] theorem exec_mloopFetchSector (cmd : Nat) (st : State) : exec (.mloopFetchSector cmd) st = execMloopFetchSector cmd st := rfl
@[simp] theorem exec_mldStart (cmd : Nat) (st : State) : exec (.mldStart cmd) st = execMldStart cmd st := rfl
@[simp] theorem exec_tileWordComplete (cmd : Nat) (st : State) : exec (.tileWordComplete cmd) st = execTileWordComplete cmd st := rfl
@[simp] theorem exec_mstStart (cmd : Nat) (st : State) : exec (.mstStart cmd) st = execMstStart cmd st := rfl
@[simp] theorem exec_mstCaptureEnd (cmd : Nat) (st : State) : exec (.mstCaptureEnd cmd) st = execMstCaptureEnd cmd st := rfl
@[simp] theorem exec_epilogueStoreSector (cmd sector : Nat) (st : State) : exec (.epilogueStoreSector cmd sector) st = execEpilogueStoreSector cmd sector st := rfl
@[simp] theorem exec_vrsetStart (cmd : Nat) (st : State) : exec (.vrsetStart cmd) st = execVrsetStart cmd st := rfl
@[simp] theorem exec_vractStart (cmd : Nat) (st : State) : exec (.vractStart cmd) st = execVractStart cmd st := rfl
@[simp] theorem exec_vrrunStart (cmd : Nat) (st : State) : exec (.vrrunStart cmd) st = execVrrunStart cmd st := rfl
@[simp] theorem exec_vrRowHandoff (cmd : Nat) (st : State) : exec (.vrRowHandoff cmd) st = execVrRowHandoff cmd st := rfl
@[simp] theorem exec_vrRowDone (cmd row : Nat) (st : State) : exec (.vrRowDone cmd row) st = execVrRowDone cmd row st := rfl
@[simp] theorem exec_vrResultPerform (cmd row : Nat) (st : State) : exec (.vrResultPerform cmd row) st = execVrResultPerform cmd row st := rfl
@[simp] theorem exec_barrierArrival (msg : Nat) (st : State) : exec (.barrierArrival msg) st = execBarrierArrival msg st := rfl
@[simp] theorem exec_barrierRelease (ctx entry : Nat) (st : State) : exec (.barrierRelease ctx entry) st = execBarrierRelease ctx entry st := rfl
@[simp] theorem exec_joinHoldTimeout (ctx entry : Nat) (st : State) : exec (.joinHoldTimeout ctx entry) st = execJoinHoldTimeout ctx entry st := rfl
@[simp] theorem exec_loopIteration (ctx : Nat) (st : State) : exec (.loopIteration ctx) st = execLoopIteration ctx st := rfl
@[simp] theorem exec_ninthPathRelease (ctx entry : Nat) (st : State) : exec (.ninthPathRelease ctx entry) st = execNinthPathRelease ctx entry st := rfl
@[simp] theorem exec_groupEnd (ctx : Nat) (st : State) : exec (.groupEnd ctx) st = execGroupEnd ctx st := rfl
@[simp] theorem exec_joinkAnswer (joink : Nat) (st : State) : exec (.joinkAnswer joink) st = execJoinkAnswer joink st := rfl
@[simp] theorem exec_reportDelivery (report : Nat) (st : State) : exec (.reportDelivery report) st = execReportDelivery report st := rfl
@[simp] theorem exec_landingNotice (notice : Nat) (st : State) : exec (.landingNotice notice) st = execLandingNotice notice st := rfl
@[simp] theorem exec_launchCheck (launch : Nat) (st : State) : exec (.launchCheck launch) st = execLaunchCheck launch st := rfl
@[simp] theorem exec_priorityAging (launch : Nat) (st : State) : exec (.priorityAging launch) st = execPriorityAging launch st := rfl
@[simp] theorem exec_teamPlace (gs : Nat) (st : State) : exec (.teamPlace gs) st = execTeamPlace gs st := rfl
@[simp] theorem exec_coreHot (gc temp : Nat) (st : State) : exec (.coreHot gc temp) st = execCoreHot gc temp st := rfl
@[simp] theorem exec_coreCool (gc temp : Nat) (st : State) : exec (.coreCool gc temp) st = execCoreCool gc temp st := rfl
@[simp] theorem exec_droopEvent (gc : Nat) (st : State) : exec (.droopEvent gc) st = execDroopEvent gc st := rfl
@[simp] theorem exec_avoidExpiry (gc : Nat) (st : State) : exec (.avoidExpiry gc) st = execAvoidExpiry gc st := rfl
@[simp] theorem exec_schedCtlWrite (gs value : Nat) (st : State) : exec (.schedCtlWrite gs value) st = execSchedCtlWrite gs value st := rfl
@[simp] theorem exec_preempt (gs : Nat) (st : State) : exec (.preempt gs) st = execPreempt gs st := rfl
@[simp] theorem exec_groupEvict (ctx : Nat) (st : State) : exec (.groupEvict ctx) st = execGroupEvict ctx st := rfl
@[simp] theorem exec_evictionSaveEnd (save : Nat) (st : State) : exec (.evictionSaveEnd save) st = execEvictionSaveEnd save st := rfl
@[simp] theorem exec_groupReturn (save : Nat) (st : State) : exec (.groupReturn save) st = execGroupReturn save st := rfl
@[simp] theorem exec_restoreEnd (save : Nat) (st : State) : exec (.restoreEnd save) st = execRestoreEnd save st := rfl
@[simp] theorem exec_activeFill (gc : Nat) (st : State) : exec (.activeFill gc) st = execActiveFill gc st := rfl
@[simp] theorem exec_pendingExchange (gc : Nat) (st : State) : exec (.pendingExchange gc) st = execPendingExchange gc st := rfl
@[simp] theorem exec_pathPromotion (ctx entry : Nat) (st : State) : exec (.pathPromotion ctx entry) st = execPathPromotion ctx entry st := rfl
@[simp] theorem exec_growEviction (gc : Nat) (st : State) : exec (.growEviction gc) st = execGrowEviction gc st := rfl
@[simp] theorem exec_faultRetry (gs place : Nat) (st : State) : exec (.faultRetry gs place) st = execFaultRetry gs place st := rfl
@[simp] theorem exec_faultKill (gs place : Nat) (st : State) : exec (.faultKill gs place) st = execFaultKill gs place st := rfl
@[simp] theorem exec_haltLineArrival (stop : Nat) (st : State) : exec (.haltLineArrival stop) st = execHaltLineArrival stop st := rfl
@[simp] theorem exec_partitionKill (pkg pslot : Nat) (st : State) : exec (.partitionKill pkg pslot) st = execPartitionKill pkg pslot st := rfl
@[simp] theorem exec_vctlArm (gs core pred value : Nat) (st : State) : exec (.vctlArm gs core pred value) st = execVctlArm gs core pred value st := rfl
@[simp] theorem exec_vctlDisarm (gs core pred value : Nat) (st : State) : exec (.vctlDisarm gs core pred value) st = execVctlDisarm gs core pred value st := rfl
@[simp] theorem exec_stopArrival (stop : Nat) (st : State) : exec (.stopArrival stop) st = execStopArrival stop st := rfl
@[simp] theorem exec_haltRequest (gs value : Nat) (st : State) : exec (.haltRequest gs value) st = execHaltRequest gs value st := rfl
@[simp] theorem exec_haltAtRegion (gs value : Nat) (st : State) : exec (.haltAtRegion gs value) st = execHaltAtRegion gs value st := rfl
@[simp] theorem exec_dumpRequest (gs value : Nat) (st : State) : exec (.dumpRequest gs value) st = execDumpRequest gs value st := rfl
@[simp] theorem exec_traceEnable (gs value : Nat) (st : State) : exec (.traceEnable gs value) st = execTraceEnable gs value st := rfl
@[simp] theorem exec_traceDisable (gs value : Nat) (st : State) : exec (.traceDisable gs value) st = execTraceDisable gs value st := rfl
@[simp] theorem exec_traceDrainEnd (gs : Nat) (st : State) : exec (.traceDrainEnd gs) st = execTraceDrainEnd gs st := rfl
@[simp] theorem exec_histClr (gc : Nat) (st : State) : exec (.histClr gc) st = execHistClr gc st := rfl
@[simp] theorem exec_dumpImageWritten (dump : Nat) (st : State) : exec (.dumpImageWritten dump) st = execDumpImageWritten dump st := rfl
@[simp] theorem exec_dumpPeerAck (dump : Nat) (st : State) : exec (.dumpPeerAck dump) st = execDumpPeerAck dump st := rfl
@[simp] theorem exec_hostWrite (pkg bar off : Nat) (data : List Byte) (st : State) : exec (.hostWrite pkg bar off data) st = execHostWrite pkg bar off data st := rfl
@[simp] theorem exec_hostRead (pkg bar off size : Nat) (st : State) : exec (.hostRead pkg bar off size) st = execHostRead pkg bar off size st := rfl
@[simp] theorem exec_linkDown (pkg : Nat) (surprise : Bool) (st : State) : exec (.linkDown pkg surprise) st = execLinkDown pkg surprise st := rfl
@[simp] theorem exec_linkUp (pkg : Nat) (st : State) : exec (.linkUp pkg) st = execLinkUp pkg st := rfl
@[simp] theorem exec_hqCtlWrite (pkg q value : Nat) (st : State) : exec (.hqCtlWrite pkg q value) st = execHqCtlWrite pkg q value st := rfl
@[simp] theorem exec_hqTailWrite (pkg q value : Nat) (st : State) : exec (.hqTailWrite pkg q value) st = execHqTailWrite pkg q value st := rfl
@[simp] theorem exec_hqNop (pkg q : Nat) (st : State) : exec (.hqNop pkg q) st = execHqNop pkg q st := rfl
@[simp] theorem exec_hqLaunch (pkg q : Nat) (st : State) : exec (.hqLaunch pkg q) st = execHqLaunch pkg q st := rfl
@[simp] theorem exec_hqSignal (pkg q : Nat) (st : State) : exec (.hqSignal pkg q) st = execHqSignal pkg q st := rfl
@[simp] theorem exec_hqBadEntry (pkg q : Nat) (st : State) : exec (.hqBadEntry pkg q) st = execHqBadEntry pkg q st := rfl
@[simp] theorem exec_privAreaWrite (gs off value : Nat) (st : State) : exec (.privAreaWrite gs off value) st = execPrivAreaWrite gs off value st := rfl
@[simp] theorem exec_deviceReset (pkg : Nat) (images : List FwImage) (st : State) : exec (.deviceReset pkg images) st = execDeviceReset pkg images st := rfl
@[simp] theorem exec_selfTestEnd (pkg stks unit code planes : Nat) (st : State) : exec (.selfTestEnd pkg stks unit code planes) st = execSelfTestEnd pkg stks unit code planes st := rfl
@[simp] theorem exec_attGo (pkg value : Nat) (st : State) : exec (.attGo pkg value) st = execAttGo pkg value st := rfl
@[simp] theorem exec_attReportDone (pkg : Nat) (st : State) : exec (.attReportDone pkg) st = execAttReportDone pkg st := rfl
@[simp] theorem exec_mctpAttestRequest (pkg nonce : Nat) (st : State) : exec (.mctpAttestRequest pkg nonce) st = execMctpAttestRequest pkg nonce st := rfl
@[simp] theorem exec_pwrCtlWrite (pkg value : Nat) (st : State) : exec (.pwrCtlWrite pkg value) st = execPwrCtlWrite pkg value st := rfl
@[simp] theorem exec_capEffect (pkg : Nat) (st : State) : exec (.capEffect pkg) st = execCapEffect pkg st := rfl
@[simp] theorem exec_registerWrite (gs off size value : Nat) (st : State) : exec (.registerWrite gs off size value) st = execRegisterWrite gs off size value st := rfl
@[simp] theorem exec_softError (gs bank row col : Nat) (uncorrectable : Bool) (st : State) : exec (.softError gs bank row col uncorrectable) st = execSoftError gs bank row col uncorrectable st := rfl
@[simp] theorem exec_rdctxCopyComplete (cmd : Nat) (st : State) : exec (.rdctxCopyComplete cmd) st = execRdctxCopyComplete cmd st := rfl
@[simp] theorem exec_wrctxWriteEnd (cmd : Nat) (st : State) : exec (.wrctxWriteEnd cmd) st = execWrctxWriteEnd cmd st := rfl
@[simp] theorem exec_coreCycle (gc : Nat) (st : State) : exec (.coreCycle gc) st = execCoreCycle gc st := rfl

end Sys2Proof.Machine
end

