-- ==== Sys2Proof/Laws/Map.lean ====
section
/-! SUPPORT. What the sparse maps of State do: reads after writes, the canonical form, and the lanes of a mask. -/

namespace Sys2Proof.Machine

section

variable {α : Type}

@[simp] theorem mfind_nil (k : Nat) : mfind ([] : Map α) k = none := rfl

theorem mfind_mput (m : Map α) (k j : Nat) (v : α) : mfind (mput m k v) j = if j = k then some v else mfind m j := by
  induction m with
  | nil => simp only [mput, mfind, eq_comm]
  | cons kv m ih =>
    obtain ⟨k', v'⟩ := kv
    unfold mput
    split
    · simp only [mfind, eq_comm]
    · split
      · next h => subst h; simp only [mfind]; split <;> simp_all [eq_comm]
      · simp only [mfind, ih]
        split <;> split <;> simp_all

@[simp] theorem mfind_mput_same (m : Map α) (k : Nat) (v : α) : mfind (mput m k v) k = some v := by simp [mfind_mput]

theorem mfind_mput_other (m : Map α) {k j : Nat} (v : α) (h : j ≠ k) : mfind (mput m k v) j = mfind m j := by
  simp [mfind_mput, h]

theorem mfind_mdel (m : Map α) (k j : Nat) : mfind (mdel m k) j = if j = k then none else mfind m j := by
  induction m with
  | nil => simp [mdel]
  | cons kv m ih =>
    obtain ⟨k', v'⟩ := kv
    unfold mdel
    split
    · next h => subst h; rw [ih]; simp only [mfind]; by_cases hj : j = k' <;> simp [hj, eq_comm]
    · simp only [mfind, ih]; split <;> split <;> simp_all

theorem risesFrom_mono {b b' : Nat} (m : Map α) (h : b' ≤ b) (hm : risesFrom b m = true) : risesFrom b' m = true := by
  cases m with
  | nil => rfl
  | cons kv m => simp only [risesFrom, Bool.and_eq_true, decide_eq_true_eq] at *; exact ⟨by omega, hm.2⟩

theorem risesFrom_mput (m : Map α) (b k : Nat) (v : α) (hb : b ≤ k) (hm : risesFrom b m = true) :
    risesFrom b (mput m k v) = true := by
  induction m generalizing b with
  | nil => simp [mput, risesFrom, hb]
  | cons kv m ih =>
    obtain ⟨k', v'⟩ := kv
    simp only [risesFrom, Bool.and_eq_true, decide_eq_true_eq] at hm
    unfold mput
    split
    · simp only [risesFrom, Bool.and_eq_true, decide_eq_true_eq]; exact ⟨hb, by omega, hm.2⟩
    · split
      · next h => subst h; simp only [risesFrom, Bool.and_eq_true, decide_eq_true_eq]; exact ⟨hb, hm.2⟩
      · simp only [risesFrom, Bool.and_eq_true, decide_eq_true_eq]
        exact ⟨hm.1, ih _ (by omega) hm.2⟩

theorem risesFrom_mdel (m : Map α) (b k : Nat) (hm : risesFrom b m = true) : risesFrom b (mdel m k) = true := by
  induction m generalizing b with
  | nil => rfl
  | cons kv m ih =>
    obtain ⟨k', v'⟩ := kv
    simp only [risesFrom, Bool.and_eq_true, decide_eq_true_eq] at hm
    unfold mdel
    split
    · exact risesFrom_mono _ (by omega) (ih _ hm.2)
    · simp only [risesFrom, Bool.and_eq_true, decide_eq_true_eq]; exact ⟨hm.1, ih _ hm.2⟩

theorem mem_mput (m : Map α) (k : Nat) (v : α) (x : Nat × α) (h : x ∈ mput m k v) : x = (k, v) ∨ x ∈ m := by
  induction m with
  | nil => simpa [mput] using h
  | cons kv m ih =>
    obtain ⟨k', v'⟩ := kv
    unfold mput at h
    split at h
    · simpa using h
    · split at h <;> rcases List.mem_cons.mp h with h | h
      · exact .inl h
      · exact .inr (.tail _ h)
      · exact .inr (h ▸ .head _)
      · exact (ih h).imp_right (.tail _)

theorem mem_mdel (m : Map α) (k : Nat) (x : Nat × α) (h : x ∈ mdel m k) : x ∈ m := by
  induction m with
  | nil => exact h
  | cons kv m ih =>
    obtain ⟨k', v'⟩ := kv
    unfold mdel at h
    split at h
    · exact .tail _ (ih h)
    · rcases List.mem_cons.mp h with h | h
      · exact h ▸ .head _
      · exact .tail _ (ih h)

variable [DecidableEq α]

/-- The value at a key after a write. -/
theorem mget_mset (m : Map α) (k j : Nat) (v d : α) : mget (mset m k v d) j d = if j = k then v else mget m j d := by
  unfold mget mset
  split
  · next h => rw [mfind_mdel]; split <;> simp [h]
  · rw [mfind_mput]; split <;> simp

@[simp] theorem mget_mset_same (m : Map α) (k : Nat) (v d : α) : mget (mset m k v d) k d = v := by simp [mget_mset]

theorem mget_mset_other (m : Map α) {k j : Nat} (v d : α) (h : j ≠ k) : mget (mset m k v d) j d = mget m j d := by
  simp [mget_mset, h]

/-- A write keeps the canonical form. -/
theorem canonical_mset (m : Map α) (k : Nat) (v d : α) (h : canonical m d = true) : canonical (mset m k v d) d = true := by
  simp only [canonical, Bool.and_eq_true, List.all_eq_true, decide_eq_true_eq] at *
  unfold mset
  split
  · exact ⟨risesFrom_mdel _ _ _ h.1, fun x hx => h.2 x (mem_mdel _ _ _ hx)⟩
  · next hv =>
    refine ⟨risesFrom_mput _ _ _ _ (Nat.zero_le _) h.1, fun x hx => ?_⟩
    rcases mem_mput _ _ _ _ hx with rfl | hx
    · exact hv
    · exact h.2 x hx

end

/-! ## Lanes -/

theorem mem_lanesFrom (m : Mask) (n l x : Nat) : x ∈ lanesFrom m n l ↔ l ≤ x ∧ x < l + n ∧ m.getLsbD x = true := by
  induction n generalizing l with
  | zero => simp [lanesFrom]; omega
  | succ n ih =>
    unfold lanesFrom
    split
    · next h =>
      rw [List.mem_cons, ih]
      constructor
      · rintro (rfl | ⟨a, b, c⟩)
        · exact ⟨Nat.le_refl _, by omega, h⟩
        · exact ⟨by omega, by omega, c⟩
      · rintro ⟨a, b, c⟩
        rcases Nat.eq_or_lt_of_le a with rfl | a
        · exact .inl rfl
        · exact .inr ⟨by omega, by omega, c⟩
    · next h =>
      rw [ih]
      constructor
      · rintro ⟨a, b, c⟩; exact ⟨by omega, by omega, c⟩
      · rintro ⟨a, b, c⟩
        rcases Nat.eq_or_lt_of_le a with rfl | a
        · exact absurd c h
        · exact ⟨by omega, by omega, c⟩

/-- A lane is listed exactly where its bit is set. -/
@[simp] theorem mem_lanesOf (m : Mask) (x : Nat) : x ∈ lanesOf m ↔ m.getLsbD x = true := by
  rw [lanesOf, mem_lanesFrom]
  refine ⟨fun h => h.2.2, fun h => ⟨Nat.zero_le _, ?_, h⟩⟩
  rcases Nat.lt_or_ge x 64 with hx | hx
  · omega
  · rw [BitVec.getLsbD_of_ge _ _ hx] at h; exact absurd h (by decide)

theorem lanesFrom_lt (m : Mask) (n l : Nat) : (lanesFrom m n l).Pairwise (· < ·) := by
  induction n generalizing l with
  | zero => exact .nil
  | succ n ih =>
    unfold lanesFrom
    split
    · refine .cons (fun x hx => ?_) (ih _)
      have := ((mem_lanesFrom m n (l + 1) x).mp hx).1
      omega
    · exact ih _

/-- Lanes are listed in ascending order (08 R159). -/
theorem lanesOf_lt (m : Mask) : (lanesOf m).Pairwise (· < ·) := lanesFrom_lt m 64 0

theorem lanesOf_nodup (m : Mask) : (lanesOf m).Nodup := (lanesOf_lt m).imp Nat.ne_of_lt

theorem lanesOf_bound {m : Mask} {x : Nat} (h : x ∈ lanesOf m) : x < 64 := by
  have := (mem_lanesFrom m 64 0 x).mp h
  omega

/-! ## Bytes -/

@[simp] theorem bytesOf_length (n x : Nat) : (bytesOf n x).length = n := by
  induction n generalizing x with
  | zero => rfl
  | succ n ih => simp [bytesOf, ih]

/-- A number's bytes read back as the number (00 R4). -/
theorem ofBytes_bytesOf (n x : Nat) : ofBytes (bytesOf n x) = x % 256 ^ n := by
  induction n generalizing x with
  | zero => simp [bytesOf, ofBytes, Nat.mod_one]
  | succ n ih =>
    have h := Nat.mod_mul (x := x) (a := 256) (b := 256 ^ n)
    rw [Nat.pow_succ', h]
    simp only [bytesOf, ofBytes, ih, BitVec.toNat_ofNat]

end Sys2Proof.Machine
end

