-- ==== Sys2Proof/Laws/State.lean ====
section
/-! SUPPORT. One lemma per field and per named update of State and of a context, so that no proof unfolds a record update. -/

namespace Sys2Proof.Machine

/-! ## Fields of State after an update of a unit -/

@[simp] theorem State.setStk_mem (s : State) (gs : Nat) (k : Stack) : (s.setStk gs k).mem = s.mem := rfl
@[simp] theorem State.setStk_poison (s : State) (gs : Nat) (k : Stack) : (s.setStk gs k).poison = s.poison := rfl
@[simp] theorem State.setStk_absent (s : State) (gs : Nat) (k : Stack) : (s.setStk gs k).absent = s.absent := rfl
@[simp] theorem State.setStk_pkgs (s : State) (gs : Nat) (k : Stack) : (s.setStk gs k).pkgs = s.pkgs := rfl
@[simp] theorem State.setStk_cores (s : State) (gs : Nat) (k : Stack) : (s.setStk gs k).cores = s.cores := rfl
@[simp] theorem State.setStk_launches (s : State) (gs : Nat) (k : Stack) : (s.setStk gs k).launches = s.launches := rfl
@[simp] theorem State.setStk_teams (s : State) (gs : Nat) (k : Stack) : (s.setStk gs k).teams = s.teams := rfl
@[simp] theorem State.setStk_ctxs (s : State) (gs : Nat) (k : Stack) : (s.setStk gs k).ctxs = s.ctxs := rfl
@[simp] theorem State.setStk_accs (s : State) (gs : Nat) (k : Stack) : (s.setStk gs k).accs = s.accs := rfl
@[simp] theorem State.setStk_chan (s : State) (gs : Nat) (k : Stack) : (s.setStk gs k).chan = s.chan := rfl
@[simp] theorem State.setStk_acks (s : State) (gs : Nat) (k : Stack) : (s.setStk gs k).acks = s.acks := rfl
@[simp] theorem State.setStk_landAcks (s : State) (gs : Nat) (k : Stack) : (s.setStk gs k).landAcks = s.landAcks := rfl
@[simp] theorem State.setStk_notices (s : State) (gs : Nat) (k : Stack) : (s.setStk gs k).notices = s.notices := rfl
@[simp] theorem State.setStk_bars (s : State) (gs : Nat) (k : Stack) : (s.setStk gs k).bars = s.bars := rfl
@[simp] theorem State.setStk_rels (s : State) (gs : Nat) (k : Stack) : (s.setStk gs k).rels = s.rels := rfl
@[simp] theorem State.setStk_joinks (s : State) (gs : Nat) (k : Stack) : (s.setStk gs k).joinks = s.joinks := rfl
@[simp] theorem State.setStk_stops (s : State) (gs : Nat) (k : Stack) : (s.setStk gs k).stops = s.stops := rfl
@[simp] theorem State.setStk_reports (s : State) (gs : Nat) (k : Stack) : (s.setStk gs k).reports = s.reports := rfl
@[simp] theorem State.setStk_cmds (s : State) (gs : Nat) (k : Stack) : (s.setStk gs k).cmds = s.cmds := rfl
@[simp] theorem State.setStk_saves (s : State) (gs : Nat) (k : Stack) : (s.setStk gs k).saves = s.saves := rfl
@[simp] theorem State.setStk_dumps (s : State) (gs : Nat) (k : Stack) : (s.setStk gs k).dumps = s.dumps := rfl
@[simp] theorem State.setStk_cursor (s : State) (gs : Nat) (k : Stack) : (s.setStk gs k).cursor = s.cursor := rfl
@[simp] theorem State.setStk_agenda (s : State) (gs : Nat) (k : Stack) : (s.setStk gs k).agenda = s.agenda := rfl
@[simp] theorem State.setStk_nextId (s : State) (gs : Nat) (k : Stack) : (s.setStk gs k).nextId = s.nextId := rfl
@[simp] theorem State.setStk_freeCount (s : State) (gs : Nat) (k : Stack) : (s.setStk gs k).freeCount = s.freeCount := rfl
@[simp] theorem State.setCore_mem (s : State) (gc : Nat) (k : Core) : (s.setCore gc k).mem = s.mem := rfl
@[simp] theorem State.setCore_poison (s : State) (gc : Nat) (k : Core) : (s.setCore gc k).poison = s.poison := rfl
@[simp] theorem State.setCore_absent (s : State) (gc : Nat) (k : Core) : (s.setCore gc k).absent = s.absent := rfl
@[simp] theorem State.setCore_pkgs (s : State) (gc : Nat) (k : Core) : (s.setCore gc k).pkgs = s.pkgs := rfl
@[simp] theorem State.setCore_stks (s : State) (gc : Nat) (k : Core) : (s.setCore gc k).stks = s.stks := rfl
@[simp] theorem State.setCore_launches (s : State) (gc : Nat) (k : Core) : (s.setCore gc k).launches = s.launches := rfl
@[simp] theorem State.setCore_teams (s : State) (gc : Nat) (k : Core) : (s.setCore gc k).teams = s.teams := rfl
@[simp] theorem State.setCore_ctxs (s : State) (gc : Nat) (k : Core) : (s.setCore gc k).ctxs = s.ctxs := rfl
@[simp] theorem State.setCore_accs (s : State) (gc : Nat) (k : Core) : (s.setCore gc k).accs = s.accs := rfl
@[simp] theorem State.setCore_chan (s : State) (gc : Nat) (k : Core) : (s.setCore gc k).chan = s.chan := rfl
@[simp] theorem State.setCore_acks (s : State) (gc : Nat) (k : Core) : (s.setCore gc k).acks = s.acks := rfl
@[simp] theorem State.setCore_landAcks (s : State) (gc : Nat) (k : Core) : (s.setCore gc k).landAcks = s.landAcks := rfl
@[simp] theorem State.setCore_notices (s : State) (gc : Nat) (k : Core) : (s.setCore gc k).notices = s.notices := rfl
@[simp] theorem State.setCore_bars (s : State) (gc : Nat) (k : Core) : (s.setCore gc k).bars = s.bars := rfl
@[simp] theorem State.setCore_rels (s : State) (gc : Nat) (k : Core) : (s.setCore gc k).rels = s.rels := rfl
@[simp] theorem State.setCore_joinks (s : State) (gc : Nat) (k : Core) : (s.setCore gc k).joinks = s.joinks := rfl
@[simp] theorem State.setCore_stops (s : State) (gc : Nat) (k : Core) : (s.setCore gc k).stops = s.stops := rfl
@[simp] theorem State.setCore_reports (s : State) (gc : Nat) (k : Core) : (s.setCore gc k).reports = s.reports := rfl
@[simp] theorem State.setCore_cmds (s : State) (gc : Nat) (k : Core) : (s.setCore gc k).cmds = s.cmds := rfl
@[simp] theorem State.setCore_saves (s : State) (gc : Nat) (k : Core) : (s.setCore gc k).saves = s.saves := rfl
@[simp] theorem State.setCore_dumps (s : State) (gc : Nat) (k : Core) : (s.setCore gc k).dumps = s.dumps := rfl
@[simp] theorem State.setCore_cursor (s : State) (gc : Nat) (k : Core) : (s.setCore gc k).cursor = s.cursor := rfl
@[simp] theorem State.setCore_agenda (s : State) (gc : Nat) (k : Core) : (s.setCore gc k).agenda = s.agenda := rfl
@[simp] theorem State.setCore_nextId (s : State) (gc : Nat) (k : Core) : (s.setCore gc k).nextId = s.nextId := rfl
@[simp] theorem State.setCore_freeCount (s : State) (gc : Nat) (k : Core) : (s.setCore gc k).freeCount = s.freeCount := rfl
@[simp] theorem State.setPkg_mem (s : State) (p : Nat) (k : Pkg) : (s.setPkg p k).mem = s.mem := rfl
@[simp] theorem State.setPkg_poison (s : State) (p : Nat) (k : Pkg) : (s.setPkg p k).poison = s.poison := rfl
@[simp] theorem State.setPkg_absent (s : State) (p : Nat) (k : Pkg) : (s.setPkg p k).absent = s.absent := rfl
@[simp] theorem State.setPkg_stks (s : State) (p : Nat) (k : Pkg) : (s.setPkg p k).stks = s.stks := rfl
@[simp] theorem State.setPkg_cores (s : State) (p : Nat) (k : Pkg) : (s.setPkg p k).cores = s.cores := rfl
@[simp] theorem State.setPkg_launches (s : State) (p : Nat) (k : Pkg) : (s.setPkg p k).launches = s.launches := rfl
@[simp] theorem State.setPkg_teams (s : State) (p : Nat) (k : Pkg) : (s.setPkg p k).teams = s.teams := rfl
@[simp] theorem State.setPkg_ctxs (s : State) (p : Nat) (k : Pkg) : (s.setPkg p k).ctxs = s.ctxs := rfl
@[simp] theorem State.setPkg_accs (s : State) (p : Nat) (k : Pkg) : (s.setPkg p k).accs = s.accs := rfl
@[simp] theorem State.setPkg_chan (s : State) (p : Nat) (k : Pkg) : (s.setPkg p k).chan = s.chan := rfl
@[simp] theorem State.setPkg_acks (s : State) (p : Nat) (k : Pkg) : (s.setPkg p k).acks = s.acks := rfl
@[simp] theorem State.setPkg_landAcks (s : State) (p : Nat) (k : Pkg) : (s.setPkg p k).landAcks = s.landAcks := rfl
@[simp] theorem State.setPkg_notices (s : State) (p : Nat) (k : Pkg) : (s.setPkg p k).notices = s.notices := rfl
@[simp] theorem State.setPkg_bars (s : State) (p : Nat) (k : Pkg) : (s.setPkg p k).bars = s.bars := rfl
@[simp] theorem State.setPkg_rels (s : State) (p : Nat) (k : Pkg) : (s.setPkg p k).rels = s.rels := rfl
@[simp] theorem State.setPkg_joinks (s : State) (p : Nat) (k : Pkg) : (s.setPkg p k).joinks = s.joinks := rfl
@[simp] theorem State.setPkg_stops (s : State) (p : Nat) (k : Pkg) : (s.setPkg p k).stops = s.stops := rfl
@[simp] theorem State.setPkg_reports (s : State) (p : Nat) (k : Pkg) : (s.setPkg p k).reports = s.reports := rfl
@[simp] theorem State.setPkg_cmds (s : State) (p : Nat) (k : Pkg) : (s.setPkg p k).cmds = s.cmds := rfl
@[simp] theorem State.setPkg_saves (s : State) (p : Nat) (k : Pkg) : (s.setPkg p k).saves = s.saves := rfl
@[simp] theorem State.setPkg_dumps (s : State) (p : Nat) (k : Pkg) : (s.setPkg p k).dumps = s.dumps := rfl
@[simp] theorem State.setPkg_cursor (s : State) (p : Nat) (k : Pkg) : (s.setPkg p k).cursor = s.cursor := rfl
@[simp] theorem State.setPkg_agenda (s : State) (p : Nat) (k : Pkg) : (s.setPkg p k).agenda = s.agenda := rfl
@[simp] theorem State.setPkg_nextId (s : State) (p : Nat) (k : Pkg) : (s.setPkg p k).nextId = s.nextId := rfl
@[simp] theorem State.setPkg_freeCount (s : State) (p : Nat) (k : Pkg) : (s.setPkg p k).freeCount = s.freeCount := rfl
@[simp] theorem State.setCtx_mem (s : State) (cid : Nat) (c : Ctx) : (s.setCtx cid c).mem = s.mem := rfl
@[simp] theorem State.setCtx_poison (s : State) (cid : Nat) (c : Ctx) : (s.setCtx cid c).poison = s.poison := rfl
@[simp] theorem State.setCtx_absent (s : State) (cid : Nat) (c : Ctx) : (s.setCtx cid c).absent = s.absent := rfl
@[simp] theorem State.setCtx_pkgs (s : State) (cid : Nat) (c : Ctx) : (s.setCtx cid c).pkgs = s.pkgs := rfl
@[simp] theorem State.setCtx_stks (s : State) (cid : Nat) (c : Ctx) : (s.setCtx cid c).stks = s.stks := rfl
@[simp] theorem State.setCtx_cores (s : State) (cid : Nat) (c : Ctx) : (s.setCtx cid c).cores = s.cores := rfl
@[simp] theorem State.setCtx_launches (s : State) (cid : Nat) (c : Ctx) : (s.setCtx cid c).launches = s.launches := rfl
@[simp] theorem State.setCtx_teams (s : State) (cid : Nat) (c : Ctx) : (s.setCtx cid c).teams = s.teams := rfl
@[simp] theorem State.setCtx_accs (s : State) (cid : Nat) (c : Ctx) : (s.setCtx cid c).accs = s.accs := rfl
@[simp] theorem State.setCtx_chan (s : State) (cid : Nat) (c : Ctx) : (s.setCtx cid c).chan = s.chan := rfl
@[simp] theorem State.setCtx_acks (s : State) (cid : Nat) (c : Ctx) : (s.setCtx cid c).acks = s.acks := rfl
@[simp] theorem State.setCtx_landAcks (s : State) (cid : Nat) (c : Ctx) : (s.setCtx cid c).landAcks = s.landAcks := rfl
@[simp] theorem State.setCtx_notices (s : State) (cid : Nat) (c : Ctx) : (s.setCtx cid c).notices = s.notices := rfl
@[simp] theorem State.setCtx_bars (s : State) (cid : Nat) (c : Ctx) : (s.setCtx cid c).bars = s.bars := rfl
@[simp] theorem State.setCtx_rels (s : State) (cid : Nat) (c : Ctx) : (s.setCtx cid c).rels = s.rels := rfl
@[simp] theorem State.setCtx_joinks (s : State) (cid : Nat) (c : Ctx) : (s.setCtx cid c).joinks = s.joinks := rfl
@[simp] theorem State.setCtx_stops (s : State) (cid : Nat) (c : Ctx) : (s.setCtx cid c).stops = s.stops := rfl
@[simp] theorem State.setCtx_reports (s : State) (cid : Nat) (c : Ctx) : (s.setCtx cid c).reports = s.reports := rfl
@[simp] theorem State.setCtx_cmds (s : State) (cid : Nat) (c : Ctx) : (s.setCtx cid c).cmds = s.cmds := rfl
@[simp] theorem State.setCtx_saves (s : State) (cid : Nat) (c : Ctx) : (s.setCtx cid c).saves = s.saves := rfl
@[simp] theorem State.setCtx_dumps (s : State) (cid : Nat) (c : Ctx) : (s.setCtx cid c).dumps = s.dumps := rfl
@[simp] theorem State.setCtx_cursor (s : State) (cid : Nat) (c : Ctx) : (s.setCtx cid c).cursor = s.cursor := rfl
@[simp] theorem State.setCtx_agenda (s : State) (cid : Nat) (c : Ctx) : (s.setCtx cid c).agenda = s.agenda := rfl
@[simp] theorem State.setCtx_nextId (s : State) (cid : Nat) (c : Ctx) : (s.setCtx cid c).nextId = s.nextId := rfl
@[simp] theorem State.setCtx_freeCount (s : State) (cid : Nat) (c : Ctx) : (s.setCtx cid c).freeCount = s.freeCount := rfl
@[simp] theorem State.setTeam_mem (s : State) (k : Nat) (t : Team) : (s.setTeam k t).mem = s.mem := rfl
@[simp] theorem State.setTeam_poison (s : State) (k : Nat) (t : Team) : (s.setTeam k t).poison = s.poison := rfl
@[simp] theorem State.setTeam_absent (s : State) (k : Nat) (t : Team) : (s.setTeam k t).absent = s.absent := rfl
@[simp] theorem State.setTeam_pkgs (s : State) (k : Nat) (t : Team) : (s.setTeam k t).pkgs = s.pkgs := rfl
@[simp] theorem State.setTeam_stks (s : State) (k : Nat) (t : Team) : (s.setTeam k t).stks = s.stks := rfl
@[simp] theorem State.setTeam_cores (s : State) (k : Nat) (t : Team) : (s.setTeam k t).cores = s.cores := rfl
@[simp] theorem State.setTeam_launches (s : State) (k : Nat) (t : Team) : (s.setTeam k t).launches = s.launches := rfl
@[simp] theorem State.setTeam_ctxs (s : State) (k : Nat) (t : Team) : (s.setTeam k t).ctxs = s.ctxs := rfl
@[simp] theorem State.setTeam_accs (s : State) (k : Nat) (t : Team) : (s.setTeam k t).accs = s.accs := rfl
@[simp] theorem State.setTeam_chan (s : State) (k : Nat) (t : Team) : (s.setTeam k t).chan = s.chan := rfl
@[simp] theorem State.setTeam_acks (s : State) (k : Nat) (t : Team) : (s.setTeam k t).acks = s.acks := rfl
@[simp] theorem State.setTeam_landAcks (s : State) (k : Nat) (t : Team) : (s.setTeam k t).landAcks = s.landAcks := rfl
@[simp] theorem State.setTeam_notices (s : State) (k : Nat) (t : Team) : (s.setTeam k t).notices = s.notices := rfl
@[simp] theorem State.setTeam_bars (s : State) (k : Nat) (t : Team) : (s.setTeam k t).bars = s.bars := rfl
@[simp] theorem State.setTeam_rels (s : State) (k : Nat) (t : Team) : (s.setTeam k t).rels = s.rels := rfl
@[simp] theorem State.setTeam_joinks (s : State) (k : Nat) (t : Team) : (s.setTeam k t).joinks = s.joinks := rfl
@[simp] theorem State.setTeam_stops (s : State) (k : Nat) (t : Team) : (s.setTeam k t).stops = s.stops := rfl
@[simp] theorem State.setTeam_reports (s : State) (k : Nat) (t : Team) : (s.setTeam k t).reports = s.reports := rfl
@[simp] theorem State.setTeam_cmds (s : State) (k : Nat) (t : Team) : (s.setTeam k t).cmds = s.cmds := rfl
@[simp] theorem State.setTeam_saves (s : State) (k : Nat) (t : Team) : (s.setTeam k t).saves = s.saves := rfl
@[simp] theorem State.setTeam_dumps (s : State) (k : Nat) (t : Team) : (s.setTeam k t).dumps = s.dumps := rfl
@[simp] theorem State.setTeam_cursor (s : State) (k : Nat) (t : Team) : (s.setTeam k t).cursor = s.cursor := rfl
@[simp] theorem State.setTeam_agenda (s : State) (k : Nat) (t : Team) : (s.setTeam k t).agenda = s.agenda := rfl
@[simp] theorem State.setTeam_nextId (s : State) (k : Nat) (t : Team) : (s.setTeam k t).nextId = s.nextId := rfl
@[simp] theorem State.setTeam_freeCount (s : State) (k : Nat) (t : Team) : (s.setTeam k t).freeCount = s.freeCount := rfl
@[simp] theorem State.setLaunch_mem (s : State) (k : Nat) (l : Launch) : (s.setLaunch k l).mem = s.mem := rfl
@[simp] theorem State.setLaunch_poison (s : State) (k : Nat) (l : Launch) : (s.setLaunch k l).poison = s.poison := rfl
@[simp] theorem State.setLaunch_absent (s : State) (k : Nat) (l : Launch) : (s.setLaunch k l).absent = s.absent := rfl
@[simp] theorem State.setLaunch_pkgs (s : State) (k : Nat) (l : Launch) : (s.setLaunch k l).pkgs = s.pkgs := rfl
@[simp] theorem State.setLaunch_stks (s : State) (k : Nat) (l : Launch) : (s.setLaunch k l).stks = s.stks := rfl
@[simp] theorem State.setLaunch_cores (s : State) (k : Nat) (l : Launch) : (s.setLaunch k l).cores = s.cores := rfl
@[simp] theorem State.setLaunch_teams (s : State) (k : Nat) (l : Launch) : (s.setLaunch k l).teams = s.teams := rfl
@[simp] theorem State.setLaunch_ctxs (s : State) (k : Nat) (l : Launch) : (s.setLaunch k l).ctxs = s.ctxs := rfl
@[simp] theorem State.setLaunch_accs (s : State) (k : Nat) (l : Launch) : (s.setLaunch k l).accs = s.accs := rfl
@[simp] theorem State.setLaunch_chan (s : State) (k : Nat) (l : Launch) : (s.setLaunch k l).chan = s.chan := rfl
@[simp] theorem State.setLaunch_acks (s : State) (k : Nat) (l : Launch) : (s.setLaunch k l).acks = s.acks := rfl
@[simp] theorem State.setLaunch_landAcks (s : State) (k : Nat) (l : Launch) : (s.setLaunch k l).landAcks = s.landAcks := rfl
@[simp] theorem State.setLaunch_notices (s : State) (k : Nat) (l : Launch) : (s.setLaunch k l).notices = s.notices := rfl
@[simp] theorem State.setLaunch_bars (s : State) (k : Nat) (l : Launch) : (s.setLaunch k l).bars = s.bars := rfl
@[simp] theorem State.setLaunch_rels (s : State) (k : Nat) (l : Launch) : (s.setLaunch k l).rels = s.rels := rfl
@[simp] theorem State.setLaunch_joinks (s : State) (k : Nat) (l : Launch) : (s.setLaunch k l).joinks = s.joinks := rfl
@[simp] theorem State.setLaunch_stops (s : State) (k : Nat) (l : Launch) : (s.setLaunch k l).stops = s.stops := rfl
@[simp] theorem State.setLaunch_reports (s : State) (k : Nat) (l : Launch) : (s.setLaunch k l).reports = s.reports := rfl
@[simp] theorem State.setLaunch_cmds (s : State) (k : Nat) (l : Launch) : (s.setLaunch k l).cmds = s.cmds := rfl
@[simp] theorem State.setLaunch_saves (s : State) (k : Nat) (l : Launch) : (s.setLaunch k l).saves = s.saves := rfl
@[simp] theorem State.setLaunch_dumps (s : State) (k : Nat) (l : Launch) : (s.setLaunch k l).dumps = s.dumps := rfl
@[simp] theorem State.setLaunch_cursor (s : State) (k : Nat) (l : Launch) : (s.setLaunch k l).cursor = s.cursor := rfl
@[simp] theorem State.setLaunch_agenda (s : State) (k : Nat) (l : Launch) : (s.setLaunch k l).agenda = s.agenda := rfl
@[simp] theorem State.setLaunch_nextId (s : State) (k : Nat) (l : Launch) : (s.setLaunch k l).nextId = s.nextId := rfl
@[simp] theorem State.setLaunch_freeCount (s : State) (k : Nat) (l : Launch) : (s.setLaunch k l).freeCount = s.freeCount := rfl
@[simp] theorem State.setByte_poison (s : State) (pa : Nat) (b : Byte) : (s.setByte pa b).poison = s.poison := rfl
@[simp] theorem State.setByte_absent (s : State) (pa : Nat) (b : Byte) : (s.setByte pa b).absent = s.absent := rfl
@[simp] theorem State.setByte_pkgs (s : State) (pa : Nat) (b : Byte) : (s.setByte pa b).pkgs = s.pkgs := rfl
@[simp] theorem State.setByte_stks (s : State) (pa : Nat) (b : Byte) : (s.setByte pa b).stks = s.stks := rfl
@[simp] theorem State.setByte_cores (s : State) (pa : Nat) (b : Byte) : (s.setByte pa b).cores = s.cores := rfl
@[simp] theorem State.setByte_launches (s : State) (pa : Nat) (b : Byte) : (s.setByte pa b).launches = s.launches := rfl
@[simp] theorem State.setByte_teams (s : State) (pa : Nat) (b : Byte) : (s.setByte pa b).teams = s.teams := rfl
@[simp] theorem State.setByte_ctxs (s : State) (pa : Nat) (b : Byte) : (s.setByte pa b).ctxs = s.ctxs := rfl
@[simp] theorem State.setByte_accs (s : State) (pa : Nat) (b : Byte) : (s.setByte pa b).accs = s.accs := rfl
@[simp] theorem State.setByte_chan (s : State) (pa : Nat) (b : Byte) : (s.setByte pa b).chan = s.chan := rfl
@[simp] theorem State.setByte_acks (s : State) (pa : Nat) (b : Byte) : (s.setByte pa b).acks = s.acks := rfl
@[simp] theorem State.setByte_landAcks (s : State) (pa : Nat) (b : Byte) : (s.setByte pa b).landAcks = s.landAcks := rfl
@[simp] theorem State.setByte_notices (s : State) (pa : Nat) (b : Byte) : (s.setByte pa b).notices = s.notices := rfl
@[simp] theorem State.setByte_bars (s : State) (pa : Nat) (b : Byte) : (s.setByte pa b).bars = s.bars := rfl
@[simp] theorem State.setByte_rels (s : State) (pa : Nat) (b : Byte) : (s.setByte pa b).rels = s.rels := rfl
@[simp] theorem State.setByte_joinks (s : State) (pa : Nat) (b : Byte) : (s.setByte pa b).joinks = s.joinks := rfl
@[simp] theorem State.setByte_stops (s : State) (pa : Nat) (b : Byte) : (s.setByte pa b).stops = s.stops := rfl
@[simp] theorem State.setByte_reports (s : State) (pa : Nat) (b : Byte) : (s.setByte pa b).reports = s.reports := rfl
@[simp] theorem State.setByte_cmds (s : State) (pa : Nat) (b : Byte) : (s.setByte pa b).cmds = s.cmds := rfl
@[simp] theorem State.setByte_saves (s : State) (pa : Nat) (b : Byte) : (s.setByte pa b).saves = s.saves := rfl
@[simp] theorem State.setByte_dumps (s : State) (pa : Nat) (b : Byte) : (s.setByte pa b).dumps = s.dumps := rfl
@[simp] theorem State.setByte_cursor (s : State) (pa : Nat) (b : Byte) : (s.setByte pa b).cursor = s.cursor := rfl
@[simp] theorem State.setByte_agenda (s : State) (pa : Nat) (b : Byte) : (s.setByte pa b).agenda = s.agenda := rfl
@[simp] theorem State.setByte_nextId (s : State) (pa : Nat) (b : Byte) : (s.setByte pa b).nextId = s.nextId := rfl
@[simp] theorem State.setByte_freeCount (s : State) (pa : Nat) (b : Byte) : (s.setByte pa b).freeCount = s.freeCount := rfl
@[simp] theorem State.setBytes_poison (s : State) (pa : Nat) (bs : List Byte) : (s.setBytes pa bs).poison = s.poison := rfl
@[simp] theorem State.setBytes_absent (s : State) (pa : Nat) (bs : List Byte) : (s.setBytes pa bs).absent = s.absent := rfl
@[simp] theorem State.setBytes_pkgs (s : State) (pa : Nat) (bs : List Byte) : (s.setBytes pa bs).pkgs = s.pkgs := rfl
@[simp] theorem State.setBytes_stks (s : State) (pa : Nat) (bs : List Byte) : (s.setBytes pa bs).stks = s.stks := rfl
@[simp] theorem State.setBytes_cores (s : State) (pa : Nat) (bs : List Byte) : (s.setBytes pa bs).cores = s.cores := rfl
@[simp] theorem State.setBytes_launches (s : State) (pa : Nat) (bs : List Byte) : (s.setBytes pa bs).launches = s.launches := rfl
@[simp] theorem State.setBytes_teams (s : State) (pa : Nat) (bs : List Byte) : (s.setBytes pa bs).teams = s.teams := rfl
@[simp] theorem State.setBytes_ctxs (s : State) (pa : Nat) (bs : List Byte) : (s.setBytes pa bs).ctxs = s.ctxs := rfl
@[simp] theorem State.setBytes_accs (s : State) (pa : Nat) (bs : List Byte) : (s.setBytes pa bs).accs = s.accs := rfl
@[simp] theorem State.setBytes_chan (s : State) (pa : Nat) (bs : List Byte) : (s.setBytes pa bs).chan = s.chan := rfl
@[simp] theorem State.setBytes_acks (s : State) (pa : Nat) (bs : List Byte) : (s.setBytes pa bs).acks = s.acks := rfl
@[simp] theorem State.setBytes_landAcks (s : State) (pa : Nat) (bs : List Byte) : (s.setBytes pa bs).landAcks = s.landAcks := rfl
@[simp] theorem State.setBytes_notices (s : State) (pa : Nat) (bs : List Byte) : (s.setBytes pa bs).notices = s.notices := rfl
@[simp] theorem State.setBytes_bars (s : State) (pa : Nat) (bs : List Byte) : (s.setBytes pa bs).bars = s.bars := rfl
@[simp] theorem State.setBytes_rels (s : State) (pa : Nat) (bs : List Byte) : (s.setBytes pa bs).rels = s.rels := rfl
@[simp] theorem State.setBytes_joinks (s : State) (pa : Nat) (bs : List Byte) : (s.setBytes pa bs).joinks = s.joinks := rfl
@[simp] theorem State.setBytes_stops (s : State) (pa : Nat) (bs : List Byte) : (s.setBytes pa bs).stops = s.stops := rfl
@[simp] theorem State.setBytes_reports (s : State) (pa : Nat) (bs : List Byte) : (s.setBytes pa bs).reports = s.reports := rfl
@[simp] theorem State.setBytes_cmds (s : State) (pa : Nat) (bs : List Byte) : (s.setBytes pa bs).cmds = s.cmds := rfl
@[simp] theorem State.setBytes_saves (s : State) (pa : Nat) (bs : List Byte) : (s.setBytes pa bs).saves = s.saves := rfl
@[simp] theorem State.setBytes_dumps (s : State) (pa : Nat) (bs : List Byte) : (s.setBytes pa bs).dumps = s.dumps := rfl
@[simp] theorem State.setBytes_cursor (s : State) (pa : Nat) (bs : List Byte) : (s.setBytes pa bs).cursor = s.cursor := rfl
@[simp] theorem State.setBytes_agenda (s : State) (pa : Nat) (bs : List Byte) : (s.setBytes pa bs).agenda = s.agenda := rfl
@[simp] theorem State.setBytes_nextId (s : State) (pa : Nat) (bs : List Byte) : (s.setBytes pa bs).nextId = s.nextId := rfl
@[simp] theorem State.setBytes_freeCount (s : State) (pa : Nat) (bs : List Byte) : (s.setBytes pa bs).freeCount = s.freeCount := rfl

/-! ## Fields of a context after an update -/

@[simp] theorem Ctx.setPath_team (c : Ctx) (e : Nat) (p : Path) : (c.setPath e p).team = c.team := rfl
@[simp] theorem Ctx.setPath_launch (c : Ctx) (e : Nat) (p : Path) : (c.setPath e p).launch = c.launch := rfl
@[simp] theorem Ctx.setPath_gidx (c : Ctx) (e : Nat) (p : Path) : (c.setPath e p).gidx = c.gidx := rfl
@[simp] theorem Ctx.setPath_pslot (c : Ctx) (e : Nat) (p : Path) : (c.setPath e p).pslot = c.pslot := rfl
@[simp] theorem Ctx.setPath_user (c : Ctx) (e : Nat) (p : Path) : (c.setPath e p).user = c.user := rfl
@[simp] theorem Ctx.setPath_debug (c : Ctx) (e : Nat) (p : Path) : (c.setPath e p).debug = c.debug := rfl
@[simp] theorem Ctx.setPath_width (c : Ctx) (e : Nat) (p : Path) : (c.setPath e p).width = c.width := rfl
@[simp] theorem Ctx.setPath_walloc (c : Ctx) (e : Nat) (p : Path) : (c.setPath e p).walloc = c.walloc := rfl
@[simp] theorem Ctx.setPath_live (c : Ctx) (e : Nat) (p : Path) : (c.setPath e p).live = c.live := rfl
@[simp] theorem Ctx.setPath_inHandler (c : Ctx) (e : Nat) (p : Path) : (c.setPath e p).inHandler = c.inHandler := rfl
@[simp] theorem Ctx.setPath_splitPart (c : Ctx) (e : Nat) (p : Path) : (c.setPath e p).splitPart = c.splitPart := rfl
@[simp] theorem Ctx.setPath_haltPend (c : Ctx) (e : Nat) (p : Path) : (c.setPath e p).haltPend = c.haltPend := rfl
@[simp] theorem Ctx.setPath_part (c : Ctx) (e : Nat) (p : Path) : (c.setPath e p).part = c.part := rfl
@[simp] theorem Ctx.setPath_nparts (c : Ctx) (e : Nat) (p : Path) : (c.setPath e p).nparts = c.nparts := rfl
@[simp] theorem Ctx.setPath_splitGen (c : Ctx) (e : Nat) (p : Path) : (c.setPath e p).splitGen = c.splitGen := rfl
@[simp] theorem Ctx.setPath_leader (c : Ctx) (e : Nat) (p : Path) : (c.setPath e p).leader = c.leader := rfl
@[simp] theorem Ctx.setPath_leaderPath (c : Ctx) (e : Nat) (p : Path) : (c.setPath e p).leaderPath = c.leaderPath := rfl
@[simp] theorem Ctx.setPath_birthGc (c : Ctx) (e : Nat) (p : Path) : (c.setPath e p).birthGc = c.birthGc := rfl
@[simp] theorem Ctx.setPath_baseGc (c : Ctx) (e : Nat) (p : Path) : (c.setPath e p).baseGc = c.baseGc := rfl
@[simp] theorem Ctx.setPath_trap (c : Ctx) (e : Nat) (p : Path) : (c.setPath e p).trap = c.trap := rfl
@[simp] theorem Ctx.setPath_codeBase (c : Ctx) (e : Nat) (p : Path) : (c.setPath e p).codeBase = c.codeBase := rfl
@[simp] theorem Ctx.setPath_privBase (c : Ctx) (e : Nat) (p : Path) : (c.setPath e p).privBase = c.privBase := rfl
@[simp] theorem Ctx.setPath_lanes (c : Ctx) (e : Nat) (p : Path) : (c.setPath e p).lanes = c.lanes := rfl
@[simp] theorem Ctx.setPath_preds (c : Ctx) (e : Nat) (p : Path) : (c.setPath e p).preds = c.preds := rfl
@[simp] theorem Ctx.setPath_sregs (c : Ctx) (e : Nat) (p : Path) : (c.setPath e p).sregs = c.sregs := rfl
@[simp] theorem Ctx.setPath_sPrev (c : Ctx) (e : Nat) (p : Path) : (c.setPath e p).sPrev = c.sPrev := rfl
@[simp] theorem Ctx.setPath_fstat (c : Ctx) (e : Nat) (p : Path) : (c.setPath e p).fstat = c.fstat := rfl
@[simp] theorem Ctx.setPath_slotFlags (c : Ctx) (e : Nat) (p : Path) : (c.setPath e p).slotFlags = c.slotFlags := rfl
@[simp] theorem Ctx.setPath_vregs (c : Ctx) (e : Nat) (p : Path) : (c.setPath e p).vregs = c.vregs := rfl
@[simp] theorem Ctx.setPath_dead (c : Ctx) (e : Nat) (p : Path) : (c.setPath e p).dead = c.dead := rfl
@[simp] theorem Ctx.setPath_rstack (c : Ctx) (e : Nat) (p : Path) : (c.setPath e p).rstack = c.rstack := rfl
@[simp] theorem Ctx.setPath_ext (c : Ctx) (e : Nat) (p : Path) : (c.setPath e p).ext = c.ext := rfl
@[simp] theorem Ctx.setPath_wslot (c : Ctx) (e : Nat) (p : Path) : (c.setPath e p).wslot = c.wslot := rfl
@[simp] theorem Ctx.setPath_loops (c : Ctx) (e : Nat) (p : Path) : (c.setPath e p).loops = c.loops := rfl
@[simp] theorem Ctx.setPath_loopRegs (c : Ctx) (e : Nat) (p : Path) : (c.setPath e p).loopRegs = c.loopRegs := rfl
@[simp] theorem Ctx.setPath_err42 (c : Ctx) (e : Nat) (p : Path) : (c.setPath e p).err42 = c.err42 := rfl
@[simp] theorem Ctx.setPath_splitB (c : Ctx) (e : Nat) (p : Path) : (c.setPath e p).splitB = c.splitB := rfl
@[simp] theorem Ctx.setPath_visit (c : Ctx) (e : Nat) (p : Path) : (c.setPath e p).visit = c.visit := rfl
@[simp] theorem Ctx.setPath_ftz (c : Ctx) (e : Nat) (p : Path) : (c.setPath e p).ftz = c.ftz := rfl
@[simp] theorem Ctx.setPath_seed (c : Ctx) (e : Nat) (p : Path) : (c.setPath e p).seed = c.seed := rfl
@[simp] theorem Ctx.setPath_scnt (c : Ctx) (e : Nat) (p : Path) : (c.setPath e p).scnt = c.scnt := rfl
@[simp] theorem Ctx.setPath_rdepth (c : Ctx) (e : Nat) (p : Path) : (c.setPath e p).rdepth = c.rdepth := rfl
@[simp] theorem Ctx.setPath_region (c : Ctx) (e : Nat) (p : Path) : (c.setPath e p).region = c.region := rfl
@[simp] theorem Ctx.setPath_anchor (c : Ctx) (e : Nat) (p : Path) : (c.setPath e p).anchor = c.anchor := rfl
@[simp] theorem Ctx.setPath_fcause (c : Ctx) (e : Nat) (p : Path) : (c.setPath e p).fcause = c.fcause := rfl
@[simp] theorem Ctx.setPath_faddr (c : Ctx) (e : Nat) (p : Path) : (c.setPath e p).faddr = c.faddr := rfl
@[simp] theorem Ctx.setPath_fpc (c : Ctx) (e : Nat) (p : Path) : (c.setPath e p).fpc = c.fpc := rfl
@[simp] theorem Ctx.setPath_flanes (c : Ctx) (e : Nat) (p : Path) : (c.setPath e p).flanes = c.flanes := rfl
@[simp] theorem Ctx.setPath_place (c : Ctx) (e : Nat) (p : Path) : (c.setPath e p).place = c.place := rfl
@[simp] theorem Ctx.setPath_gc (c : Ctx) (e : Nat) (p : Path) : (c.setPath e p).gc = c.gc := rfl
@[simp] theorem Ctx.setPath_slotNo (c : Ctx) (e : Nat) (p : Path) : (c.setPath e p).slotNo = c.slotNo := rfl
@[simp] theorem Ctx.setPath_stall (c : Ctx) (e : Nat) (p : Path) : (c.setPath e p).stall = c.stall := rfl
@[simp] theorem Ctx.setPath_since (c : Ctx) (e : Nat) (p : Path) : (c.setPath e p).since = c.since := rfl
@[simp] theorem Ctx.setPath_depart (c : Ctx) (e : Nat) (p : Path) : (c.setPath e p).depart = c.depart := rfl
@[simp] theorem Ctx.setPath_split (c : Ctx) (e : Nat) (p : Path) : (c.setPath e p).split = c.split := rfl
@[simp] theorem Ctx.setPath_chain (c : Ctx) (e : Nat) (p : Path) : (c.setPath e p).chain = c.chain := rfl
@[simp] theorem Ctx.setPath_chainEntry (c : Ctx) (e : Nat) (p : Path) : (c.setPath e p).chainEntry = c.chainEntry := rfl
@[simp] theorem Ctx.setPath_chainDone (c : Ctx) (e : Nat) (p : Path) : (c.setPath e p).chainDone = c.chainDone := rfl
@[simp] theorem Ctx.setPath_chainSec (c : Ctx) (e : Nat) (p : Path) : (c.setPath e p).chainSec = c.chainSec := rfl
@[simp] theorem Ctx.setPath_chainAddr (c : Ctx) (e : Nat) (p : Path) : (c.setPath e p).chainAddr = c.chainAddr := rfl
@[simp] theorem Ctx.setPath_chainAcq (c : Ctx) (e : Nat) (p : Path) : (c.setPath e p).chainAcq = c.chainAcq := rfl
@[simp] theorem Ctx.setPath_visits (c : Ctx) (e : Nat) (p : Path) : (c.setPath e p).visits = c.visits := rfl
@[simp] theorem Ctx.setPath_parked (c : Ctx) (e : Nat) (p : Path) : (c.setPath e p).parked = c.parked := rfl
@[simp] theorem Ctx.setPath_stop (c : Ctx) (e : Nat) (p : Path) : (c.setPath e p).stop = c.stop := rfl
@[simp] theorem Ctx.setPath_pathStop (c : Ctx) (e : Nat) (p : Path) : (c.setPath e p).pathStop = c.pathStop := rfl
@[simp] theorem Ctx.setPath_stopRec (c : Ctx) (e : Nat) (p : Path) : (c.setPath e p).stopRec = c.stopRec := rfl
@[simp] theorem Ctx.setPath_step (c : Ctx) (e : Nat) (p : Path) : (c.setPath e p).step = c.step := rfl
@[simp] theorem Ctx.setPath_lineWait (c : Ctx) (e : Nat) (p : Path) : (c.setPath e p).lineWait = c.lineWait := rfl
@[simp] theorem Ctx.setPath_grow (c : Ctx) (e : Nat) (p : Path) : (c.setPath e p).grow = c.grow := rfl
@[simp] theorem Ctx.setPath_coll (c : Ctx) (e : Nat) (p : Path) : (c.setPath e p).coll = c.coll := rfl
@[simp] theorem Ctx.setPath_lastArr (c : Ctx) (e : Nat) (p : Path) : (c.setPath e p).lastArr = c.lastArr := rfl
@[simp] theorem Ctx.setPath_bornAt (c : Ctx) (e : Nat) (p : Path) : (c.setPath e p).bornAt = c.bornAt := rfl
@[simp] theorem Ctx.setPath_activeAt (c : Ctx) (e : Nat) (p : Path) : (c.setPath e p).activeAt = c.activeAt := rfl
@[simp] theorem Ctx.setPath_atRegion (c : Ctx) (e : Nat) (p : Path) : (c.setPath e p).atRegion = c.atRegion := rfl
@[simp] theorem Ctx.setPath_lost (c : Ctx) (e : Nat) (p : Path) : (c.setPath e p).lost = c.lost := rfl
@[simp] theorem Ctx.setPath_seen (c : Ctx) (e : Nat) (p : Path) : (c.setPath e p).seen = c.seen := rfl
@[simp] theorem Ctx.setPath_atWord (c : Ctx) (e : Nat) (p : Path) : (c.setPath e p).atWord = c.atWord := rfl
@[simp] theorem Ctx.setPath_met (c : Ctx) (e : Nat) (p : Path) : (c.setPath e p).met = c.met := rfl
@[simp] theorem Ctx.setPath_joinedAt (c : Ctx) (e : Nat) (p : Path) : (c.setPath e p).joinedAt = c.joinedAt := rfl
@[simp] theorem Ctx.setPath_win (c : Ctx) (e : Nat) (p : Path) : (c.setPath e p).win = c.win := rfl
@[simp] theorem Ctx.setPath_lastIssue (c : Ctx) (e : Nat) (p : Path) : (c.setPath e p).lastIssue = c.lastIssue := rfl
@[simp] theorem Ctx.setV_team (c : Ctx) (r l v : Nat) : (c.setV r l v).team = c.team := rfl
@[simp] theorem Ctx.setV_launch (c : Ctx) (r l v : Nat) : (c.setV r l v).launch = c.launch := rfl
@[simp] theorem Ctx.setV_gidx (c : Ctx) (r l v : Nat) : (c.setV r l v).gidx = c.gidx := rfl
@[simp] theorem Ctx.setV_pslot (c : Ctx) (r l v : Nat) : (c.setV r l v).pslot = c.pslot := rfl
@[simp] theorem Ctx.setV_user (c : Ctx) (r l v : Nat) : (c.setV r l v).user = c.user := rfl
@[simp] theorem Ctx.setV_debug (c : Ctx) (r l v : Nat) : (c.setV r l v).debug = c.debug := rfl
@[simp] theorem Ctx.setV_width (c : Ctx) (r l v : Nat) : (c.setV r l v).width = c.width := rfl
@[simp] theorem Ctx.setV_walloc (c : Ctx) (r l v : Nat) : (c.setV r l v).walloc = c.walloc := rfl
@[simp] theorem Ctx.setV_live (c : Ctx) (r l v : Nat) : (c.setV r l v).live = c.live := rfl
@[simp] theorem Ctx.setV_inHandler (c : Ctx) (r l v : Nat) : (c.setV r l v).inHandler = c.inHandler := rfl
@[simp] theorem Ctx.setV_splitPart (c : Ctx) (r l v : Nat) : (c.setV r l v).splitPart = c.splitPart := rfl
@[simp] theorem Ctx.setV_haltPend (c : Ctx) (r l v : Nat) : (c.setV r l v).haltPend = c.haltPend := rfl
@[simp] theorem Ctx.setV_part (c : Ctx) (r l v : Nat) : (c.setV r l v).part = c.part := rfl
@[simp] theorem Ctx.setV_nparts (c : Ctx) (r l v : Nat) : (c.setV r l v).nparts = c.nparts := rfl
@[simp] theorem Ctx.setV_splitGen (c : Ctx) (r l v : Nat) : (c.setV r l v).splitGen = c.splitGen := rfl
@[simp] theorem Ctx.setV_leader (c : Ctx) (r l v : Nat) : (c.setV r l v).leader = c.leader := rfl
@[simp] theorem Ctx.setV_leaderPath (c : Ctx) (r l v : Nat) : (c.setV r l v).leaderPath = c.leaderPath := rfl
@[simp] theorem Ctx.setV_birthGc (c : Ctx) (r l v : Nat) : (c.setV r l v).birthGc = c.birthGc := rfl
@[simp] theorem Ctx.setV_baseGc (c : Ctx) (r l v : Nat) : (c.setV r l v).baseGc = c.baseGc := rfl
@[simp] theorem Ctx.setV_trap (c : Ctx) (r l v : Nat) : (c.setV r l v).trap = c.trap := rfl
@[simp] theorem Ctx.setV_codeBase (c : Ctx) (r l v : Nat) : (c.setV r l v).codeBase = c.codeBase := rfl
@[simp] theorem Ctx.setV_privBase (c : Ctx) (r l v : Nat) : (c.setV r l v).privBase = c.privBase := rfl
@[simp] theorem Ctx.setV_lanes (c : Ctx) (r l v : Nat) : (c.setV r l v).lanes = c.lanes := rfl
@[simp] theorem Ctx.setV_paths (c : Ctx) (r l v : Nat) : (c.setV r l v).paths = c.paths := rfl
@[simp] theorem Ctx.setV_preds (c : Ctx) (r l v : Nat) : (c.setV r l v).preds = c.preds := rfl
@[simp] theorem Ctx.setV_sregs (c : Ctx) (r l v : Nat) : (c.setV r l v).sregs = c.sregs := rfl
@[simp] theorem Ctx.setV_sPrev (c : Ctx) (r l v : Nat) : (c.setV r l v).sPrev = c.sPrev := rfl
@[simp] theorem Ctx.setV_fstat (c : Ctx) (r l v : Nat) : (c.setV r l v).fstat = c.fstat := rfl
@[simp] theorem Ctx.setV_slotFlags (c : Ctx) (r l v : Nat) : (c.setV r l v).slotFlags = c.slotFlags := rfl
@[simp] theorem Ctx.setV_rstack (c : Ctx) (r l v : Nat) : (c.setV r l v).rstack = c.rstack := rfl
@[simp] theorem Ctx.setV_ext (c : Ctx) (r l v : Nat) : (c.setV r l v).ext = c.ext := rfl
@[simp] theorem Ctx.setV_wslot (c : Ctx) (r l v : Nat) : (c.setV r l v).wslot = c.wslot := rfl
@[simp] theorem Ctx.setV_loops (c : Ctx) (r l v : Nat) : (c.setV r l v).loops = c.loops := rfl
@[simp] theorem Ctx.setV_loopRegs (c : Ctx) (r l v : Nat) : (c.setV r l v).loopRegs = c.loopRegs := rfl
@[simp] theorem Ctx.setV_err42 (c : Ctx) (r l v : Nat) : (c.setV r l v).err42 = c.err42 := rfl
@[simp] theorem Ctx.setV_splitB (c : Ctx) (r l v : Nat) : (c.setV r l v).splitB = c.splitB := rfl
@[simp] theorem Ctx.setV_visit (c : Ctx) (r l v : Nat) : (c.setV r l v).visit = c.visit := rfl
@[simp] theorem Ctx.setV_ftz (c : Ctx) (r l v : Nat) : (c.setV r l v).ftz = c.ftz := rfl
@[simp] theorem Ctx.setV_seed (c : Ctx) (r l v : Nat) : (c.setV r l v).seed = c.seed := rfl
@[simp] theorem Ctx.setV_scnt (c : Ctx) (r l v : Nat) : (c.setV r l v).scnt = c.scnt := rfl
@[simp] theorem Ctx.setV_rdepth (c : Ctx) (r l v : Nat) : (c.setV r l v).rdepth = c.rdepth := rfl
@[simp] theorem Ctx.setV_region (c : Ctx) (r l v : Nat) : (c.setV r l v).region = c.region := rfl
@[simp] theorem Ctx.setV_anchor (c : Ctx) (r l v : Nat) : (c.setV r l v).anchor = c.anchor := rfl
@[simp] theorem Ctx.setV_fcause (c : Ctx) (r l v : Nat) : (c.setV r l v).fcause = c.fcause := rfl
@[simp] theorem Ctx.setV_faddr (c : Ctx) (r l v : Nat) : (c.setV r l v).faddr = c.faddr := rfl
@[simp] theorem Ctx.setV_fpc (c : Ctx) (r l v : Nat) : (c.setV r l v).fpc = c.fpc := rfl
@[simp] theorem Ctx.setV_flanes (c : Ctx) (r l v : Nat) : (c.setV r l v).flanes = c.flanes := rfl
@[simp] theorem Ctx.setV_place (c : Ctx) (r l v : Nat) : (c.setV r l v).place = c.place := rfl
@[simp] theorem Ctx.setV_gc (c : Ctx) (r l v : Nat) : (c.setV r l v).gc = c.gc := rfl
@[simp] theorem Ctx.setV_slotNo (c : Ctx) (r l v : Nat) : (c.setV r l v).slotNo = c.slotNo := rfl
@[simp] theorem Ctx.setV_stall (c : Ctx) (r l v : Nat) : (c.setV r l v).stall = c.stall := rfl
@[simp] theorem Ctx.setV_since (c : Ctx) (r l v : Nat) : (c.setV r l v).since = c.since := rfl
@[simp] theorem Ctx.setV_depart (c : Ctx) (r l v : Nat) : (c.setV r l v).depart = c.depart := rfl
@[simp] theorem Ctx.setV_split (c : Ctx) (r l v : Nat) : (c.setV r l v).split = c.split := rfl
@[simp] theorem Ctx.setV_chain (c : Ctx) (r l v : Nat) : (c.setV r l v).chain = c.chain := rfl
@[simp] theorem Ctx.setV_chainEntry (c : Ctx) (r l v : Nat) : (c.setV r l v).chainEntry = c.chainEntry := rfl
@[simp] theorem Ctx.setV_chainDone (c : Ctx) (r l v : Nat) : (c.setV r l v).chainDone = c.chainDone := rfl
@[simp] theorem Ctx.setV_chainSec (c : Ctx) (r l v : Nat) : (c.setV r l v).chainSec = c.chainSec := rfl
@[simp] theorem Ctx.setV_chainAddr (c : Ctx) (r l v : Nat) : (c.setV r l v).chainAddr = c.chainAddr := rfl
@[simp] theorem Ctx.setV_chainAcq (c : Ctx) (r l v : Nat) : (c.setV r l v).chainAcq = c.chainAcq := rfl
@[simp] theorem Ctx.setV_visits (c : Ctx) (r l v : Nat) : (c.setV r l v).visits = c.visits := rfl
@[simp] theorem Ctx.setV_parked (c : Ctx) (r l v : Nat) : (c.setV r l v).parked = c.parked := rfl
@[simp] theorem Ctx.setV_stop (c : Ctx) (r l v : Nat) : (c.setV r l v).stop = c.stop := rfl
@[simp] theorem Ctx.setV_pathStop (c : Ctx) (r l v : Nat) : (c.setV r l v).pathStop = c.pathStop := rfl
@[simp] theorem Ctx.setV_stopRec (c : Ctx) (r l v : Nat) : (c.setV r l v).stopRec = c.stopRec := rfl
@[simp] theorem Ctx.setV_step (c : Ctx) (r l v : Nat) : (c.setV r l v).step = c.step := rfl
@[simp] theorem Ctx.setV_lineWait (c : Ctx) (r l v : Nat) : (c.setV r l v).lineWait = c.lineWait := rfl
@[simp] theorem Ctx.setV_grow (c : Ctx) (r l v : Nat) : (c.setV r l v).grow = c.grow := rfl
@[simp] theorem Ctx.setV_coll (c : Ctx) (r l v : Nat) : (c.setV r l v).coll = c.coll := rfl
@[simp] theorem Ctx.setV_lastArr (c : Ctx) (r l v : Nat) : (c.setV r l v).lastArr = c.lastArr := rfl
@[simp] theorem Ctx.setV_bornAt (c : Ctx) (r l v : Nat) : (c.setV r l v).bornAt = c.bornAt := rfl
@[simp] theorem Ctx.setV_activeAt (c : Ctx) (r l v : Nat) : (c.setV r l v).activeAt = c.activeAt := rfl
@[simp] theorem Ctx.setV_atRegion (c : Ctx) (r l v : Nat) : (c.setV r l v).atRegion = c.atRegion := rfl
@[simp] theorem Ctx.setV_lost (c : Ctx) (r l v : Nat) : (c.setV r l v).lost = c.lost := rfl
@[simp] theorem Ctx.setV_seen (c : Ctx) (r l v : Nat) : (c.setV r l v).seen = c.seen := rfl
@[simp] theorem Ctx.setV_atWord (c : Ctx) (r l v : Nat) : (c.setV r l v).atWord = c.atWord := rfl
@[simp] theorem Ctx.setV_met (c : Ctx) (r l v : Nat) : (c.setV r l v).met = c.met := rfl
@[simp] theorem Ctx.setV_joinedAt (c : Ctx) (r l v : Nat) : (c.setV r l v).joinedAt = c.joinedAt := rfl
@[simp] theorem Ctx.setV_win (c : Ctx) (r l v : Nat) : (c.setV r l v).win = c.win := rfl
@[simp] theorem Ctx.setV_lastIssue (c : Ctx) (r l v : Nat) : (c.setV r l v).lastIssue = c.lastIssue := rfl
@[simp] theorem Ctx.orFlags_team (c : Ctx) (fs : List (Nat × Flags)) : (c.orFlags fs).team = c.team := rfl
@[simp] theorem Ctx.orFlags_launch (c : Ctx) (fs : List (Nat × Flags)) : (c.orFlags fs).launch = c.launch := rfl
@[simp] theorem Ctx.orFlags_gidx (c : Ctx) (fs : List (Nat × Flags)) : (c.orFlags fs).gidx = c.gidx := rfl
@[simp] theorem Ctx.orFlags_pslot (c : Ctx) (fs : List (Nat × Flags)) : (c.orFlags fs).pslot = c.pslot := rfl
@[simp] theorem Ctx.orFlags_user (c : Ctx) (fs : List (Nat × Flags)) : (c.orFlags fs).user = c.user := rfl
@[simp] theorem Ctx.orFlags_debug (c : Ctx) (fs : List (Nat × Flags)) : (c.orFlags fs).debug = c.debug := rfl
@[simp] theorem Ctx.orFlags_width (c : Ctx) (fs : List (Nat × Flags)) : (c.orFlags fs).width = c.width := rfl
@[simp] theorem Ctx.orFlags_walloc (c : Ctx) (fs : List (Nat × Flags)) : (c.orFlags fs).walloc = c.walloc := rfl
@[simp] theorem Ctx.orFlags_live (c : Ctx) (fs : List (Nat × Flags)) : (c.orFlags fs).live = c.live := rfl
@[simp] theorem Ctx.orFlags_inHandler (c : Ctx) (fs : List (Nat × Flags)) : (c.orFlags fs).inHandler = c.inHandler := rfl
@[simp] theorem Ctx.orFlags_splitPart (c : Ctx) (fs : List (Nat × Flags)) : (c.orFlags fs).splitPart = c.splitPart := rfl
@[simp] theorem Ctx.orFlags_haltPend (c : Ctx) (fs : List (Nat × Flags)) : (c.orFlags fs).haltPend = c.haltPend := rfl
@[simp] theorem Ctx.orFlags_part (c : Ctx) (fs : List (Nat × Flags)) : (c.orFlags fs).part = c.part := rfl
@[simp] theorem Ctx.orFlags_nparts (c : Ctx) (fs : List (Nat × Flags)) : (c.orFlags fs).nparts = c.nparts := rfl
@[simp] theorem Ctx.orFlags_splitGen (c : Ctx) (fs : List (Nat × Flags)) : (c.orFlags fs).splitGen = c.splitGen := rfl
@[simp] theorem Ctx.orFlags_leader (c : Ctx) (fs : List (Nat × Flags)) : (c.orFlags fs).leader = c.leader := rfl
@[simp] theorem Ctx.orFlags_leaderPath (c : Ctx) (fs : List (Nat × Flags)) : (c.orFlags fs).leaderPath = c.leaderPath := rfl
@[simp] theorem Ctx.orFlags_birthGc (c : Ctx) (fs : List (Nat × Flags)) : (c.orFlags fs).birthGc = c.birthGc := rfl
@[simp] theorem Ctx.orFlags_baseGc (c : Ctx) (fs : List (Nat × Flags)) : (c.orFlags fs).baseGc = c.baseGc := rfl
@[simp] theorem Ctx.orFlags_trap (c : Ctx) (fs : List (Nat × Flags)) : (c.orFlags fs).trap = c.trap := rfl
@[simp] theorem Ctx.orFlags_codeBase (c : Ctx) (fs : List (Nat × Flags)) : (c.orFlags fs).codeBase = c.codeBase := rfl
@[simp] theorem Ctx.orFlags_privBase (c : Ctx) (fs : List (Nat × Flags)) : (c.orFlags fs).privBase = c.privBase := rfl
@[simp] theorem Ctx.orFlags_lanes (c : Ctx) (fs : List (Nat × Flags)) : (c.orFlags fs).lanes = c.lanes := rfl
@[simp] theorem Ctx.orFlags_paths (c : Ctx) (fs : List (Nat × Flags)) : (c.orFlags fs).paths = c.paths := rfl
@[simp] theorem Ctx.orFlags_preds (c : Ctx) (fs : List (Nat × Flags)) : (c.orFlags fs).preds = c.preds := rfl
@[simp] theorem Ctx.orFlags_sregs (c : Ctx) (fs : List (Nat × Flags)) : (c.orFlags fs).sregs = c.sregs := rfl
@[simp] theorem Ctx.orFlags_sPrev (c : Ctx) (fs : List (Nat × Flags)) : (c.orFlags fs).sPrev = c.sPrev := rfl
@[simp] theorem Ctx.orFlags_slotFlags (c : Ctx) (fs : List (Nat × Flags)) : (c.orFlags fs).slotFlags = c.slotFlags := rfl
@[simp] theorem Ctx.orFlags_vregs (c : Ctx) (fs : List (Nat × Flags)) : (c.orFlags fs).vregs = c.vregs := rfl
@[simp] theorem Ctx.orFlags_dead (c : Ctx) (fs : List (Nat × Flags)) : (c.orFlags fs).dead = c.dead := rfl
@[simp] theorem Ctx.orFlags_rstack (c : Ctx) (fs : List (Nat × Flags)) : (c.orFlags fs).rstack = c.rstack := rfl
@[simp] theorem Ctx.orFlags_ext (c : Ctx) (fs : List (Nat × Flags)) : (c.orFlags fs).ext = c.ext := rfl
@[simp] theorem Ctx.orFlags_wslot (c : Ctx) (fs : List (Nat × Flags)) : (c.orFlags fs).wslot = c.wslot := rfl
@[simp] theorem Ctx.orFlags_loops (c : Ctx) (fs : List (Nat × Flags)) : (c.orFlags fs).loops = c.loops := rfl
@[simp] theorem Ctx.orFlags_loopRegs (c : Ctx) (fs : List (Nat × Flags)) : (c.orFlags fs).loopRegs = c.loopRegs := rfl
@[simp] theorem Ctx.orFlags_err42 (c : Ctx) (fs : List (Nat × Flags)) : (c.orFlags fs).err42 = c.err42 := rfl
@[simp] theorem Ctx.orFlags_splitB (c : Ctx) (fs : List (Nat × Flags)) : (c.orFlags fs).splitB = c.splitB := rfl
@[simp] theorem Ctx.orFlags_visit (c : Ctx) (fs : List (Nat × Flags)) : (c.orFlags fs).visit = c.visit := rfl
@[simp] theorem Ctx.orFlags_ftz (c : Ctx) (fs : List (Nat × Flags)) : (c.orFlags fs).ftz = c.ftz := rfl
@[simp] theorem Ctx.orFlags_seed (c : Ctx) (fs : List (Nat × Flags)) : (c.orFlags fs).seed = c.seed := rfl
@[simp] theorem Ctx.orFlags_scnt (c : Ctx) (fs : List (Nat × Flags)) : (c.orFlags fs).scnt = c.scnt := rfl
@[simp] theorem Ctx.orFlags_rdepth (c : Ctx) (fs : List (Nat × Flags)) : (c.orFlags fs).rdepth = c.rdepth := rfl
@[simp] theorem Ctx.orFlags_region (c : Ctx) (fs : List (Nat × Flags)) : (c.orFlags fs).region = c.region := rfl
@[simp] theorem Ctx.orFlags_anchor (c : Ctx) (fs : List (Nat × Flags)) : (c.orFlags fs).anchor = c.anchor := rfl
@[simp] theorem Ctx.orFlags_fcause (c : Ctx) (fs : List (Nat × Flags)) : (c.orFlags fs).fcause = c.fcause := rfl
@[simp] theorem Ctx.orFlags_faddr (c : Ctx) (fs : List (Nat × Flags)) : (c.orFlags fs).faddr = c.faddr := rfl
@[simp] theorem Ctx.orFlags_fpc (c : Ctx) (fs : List (Nat × Flags)) : (c.orFlags fs).fpc = c.fpc := rfl
@[simp] theorem Ctx.orFlags_flanes (c : Ctx) (fs : List (Nat × Flags)) : (c.orFlags fs).flanes = c.flanes := rfl
@[simp] theorem Ctx.orFlags_place (c : Ctx) (fs : List (Nat × Flags)) : (c.orFlags fs).place = c.place := rfl
@[simp] theorem Ctx.orFlags_gc (c : Ctx) (fs : List (Nat × Flags)) : (c.orFlags fs).gc = c.gc := rfl
@[simp] theorem Ctx.orFlags_slotNo (c : Ctx) (fs : List (Nat × Flags)) : (c.orFlags fs).slotNo = c.slotNo := rfl
@[simp] theorem Ctx.orFlags_stall (c : Ctx) (fs : List (Nat × Flags)) : (c.orFlags fs).stall = c.stall := rfl
@[simp] theorem Ctx.orFlags_since (c : Ctx) (fs : List (Nat × Flags)) : (c.orFlags fs).since = c.since := rfl
@[simp] theorem Ctx.orFlags_depart (c : Ctx) (fs : List (Nat × Flags)) : (c.orFlags fs).depart = c.depart := rfl
@[simp] theorem Ctx.orFlags_split (c : Ctx) (fs : List (Nat × Flags)) : (c.orFlags fs).split = c.split := rfl
@[simp] theorem Ctx.orFlags_chain (c : Ctx) (fs : List (Nat × Flags)) : (c.orFlags fs).chain = c.chain := rfl
@[simp] theorem Ctx.orFlags_chainEntry (c : Ctx) (fs : List (Nat × Flags)) : (c.orFlags fs).chainEntry = c.chainEntry := rfl
@[simp] theorem Ctx.orFlags_chainDone (c : Ctx) (fs : List (Nat × Flags)) : (c.orFlags fs).chainDone = c.chainDone := rfl
@[simp] theorem Ctx.orFlags_chainSec (c : Ctx) (fs : List (Nat × Flags)) : (c.orFlags fs).chainSec = c.chainSec := rfl
@[simp] theorem Ctx.orFlags_chainAddr (c : Ctx) (fs : List (Nat × Flags)) : (c.orFlags fs).chainAddr = c.chainAddr := rfl
@[simp] theorem Ctx.orFlags_chainAcq (c : Ctx) (fs : List (Nat × Flags)) : (c.orFlags fs).chainAcq = c.chainAcq := rfl
@[simp] theorem Ctx.orFlags_visits (c : Ctx) (fs : List (Nat × Flags)) : (c.orFlags fs).visits = c.visits := rfl
@[simp] theorem Ctx.orFlags_parked (c : Ctx) (fs : List (Nat × Flags)) : (c.orFlags fs).parked = c.parked := rfl
@[simp] theorem Ctx.orFlags_stop (c : Ctx) (fs : List (Nat × Flags)) : (c.orFlags fs).stop = c.stop := rfl
@[simp] theorem Ctx.orFlags_pathStop (c : Ctx) (fs : List (Nat × Flags)) : (c.orFlags fs).pathStop = c.pathStop := rfl
@[simp] theorem Ctx.orFlags_stopRec (c : Ctx) (fs : List (Nat × Flags)) : (c.orFlags fs).stopRec = c.stopRec := rfl
@[simp] theorem Ctx.orFlags_step (c : Ctx) (fs : List (Nat × Flags)) : (c.orFlags fs).step = c.step := rfl
@[simp] theorem Ctx.orFlags_lineWait (c : Ctx) (fs : List (Nat × Flags)) : (c.orFlags fs).lineWait = c.lineWait := rfl
@[simp] theorem Ctx.orFlags_grow (c : Ctx) (fs : List (Nat × Flags)) : (c.orFlags fs).grow = c.grow := rfl
@[simp] theorem Ctx.orFlags_coll (c : Ctx) (fs : List (Nat × Flags)) : (c.orFlags fs).coll = c.coll := rfl
@[simp] theorem Ctx.orFlags_lastArr (c : Ctx) (fs : List (Nat × Flags)) : (c.orFlags fs).lastArr = c.lastArr := rfl
@[simp] theorem Ctx.orFlags_bornAt (c : Ctx) (fs : List (Nat × Flags)) : (c.orFlags fs).bornAt = c.bornAt := rfl
@[simp] theorem Ctx.orFlags_activeAt (c : Ctx) (fs : List (Nat × Flags)) : (c.orFlags fs).activeAt = c.activeAt := rfl
@[simp] theorem Ctx.orFlags_atRegion (c : Ctx) (fs : List (Nat × Flags)) : (c.orFlags fs).atRegion = c.atRegion := rfl
@[simp] theorem Ctx.orFlags_lost (c : Ctx) (fs : List (Nat × Flags)) : (c.orFlags fs).lost = c.lost := rfl
@[simp] theorem Ctx.orFlags_seen (c : Ctx) (fs : List (Nat × Flags)) : (c.orFlags fs).seen = c.seen := rfl
@[simp] theorem Ctx.orFlags_atWord (c : Ctx) (fs : List (Nat × Flags)) : (c.orFlags fs).atWord = c.atWord := rfl
@[simp] theorem Ctx.orFlags_met (c : Ctx) (fs : List (Nat × Flags)) : (c.orFlags fs).met = c.met := rfl
@[simp] theorem Ctx.orFlags_joinedAt (c : Ctx) (fs : List (Nat × Flags)) : (c.orFlags fs).joinedAt = c.joinedAt := rfl
@[simp] theorem Ctx.orFlags_win (c : Ctx) (fs : List (Nat × Flags)) : (c.orFlags fs).win = c.win := rfl
@[simp] theorem Ctx.orFlags_lastIssue (c : Ctx) (fs : List (Nat × Flags)) : (c.orFlags fs).lastIssue = c.lastIssue := rfl

end Sys2Proof.Machine
end

