-- ==== Sys2Proof/Laws/Ops.lean ====
section
/-! SUPPORT. What the named operations over units, memory and paths do: reads after writes, memory's canonical form, and what moving a
path to its next word may change. -/

namespace Sys2Proof.Machine

/-! ## Units -/

@[simp] theorem State.stk_setStk (s : State) (gs g : Nat) (k : Stack) : (s.setStk gs k).stk g = if g = gs then k else s.stk g :=
  mget_mset _ _ _ _ _

@[simp] theorem State.core_setCore (s : State) (gc g : Nat) (k : Core) : (s.setCore gc k).core g = if g = gc then k else s.core g :=
  mget_mset _ _ _ _ _

@[simp] theorem State.pkg_setPkg (s : State) (p q : Nat) (k : Pkg) : (s.setPkg p k).pkg q = if q = p then k else s.pkg q :=
  mget_mset _ _ _ _ _

@[simp] theorem State.ctx?_setCtx (s : State) (k j : Nat) (c : Ctx) : (s.setCtx k c).ctx? j = if j = k then some c else s.ctx? j :=
  mfind_mput _ _ _ _

@[simp] theorem State.team?_setTeam (s : State) (k j : Nat) (t : Team) : (s.setTeam k t).team? j = if j = k then some t else s.team? j :=
  mfind_mput _ _ _ _

@[simp] theorem State.launch?_setLaunch (s : State) (k j : Nat) (l : Launch) :
    (s.setLaunch k l).launch? j = if j = k then some l else s.launch? j := mfind_mput _ _ _ _

@[simp] theorem State.core_setCtx (s : State) (k gc : Nat) (c : Ctx) : (s.setCtx k c).core gc = s.core gc := rfl

@[simp] theorem State.stk_setCtx (s : State) (k gs : Nat) (c : Ctx) : (s.setCtx k c).stk gs = s.stk gs := rfl

@[simp] theorem State.byte_setCtx (s : State) (k a : Nat) (c : Ctx) : (s.setCtx k c).byte a = s.byte a := rfl

/-! ## Memory -/

/-- A byte reads as it was last written; every other byte as before. -/
theorem State.byte_setByte (s : State) (pa a : Nat) (b : Byte) : (s.setByte pa b).byte a = if a = pa then b else s.byte a :=
  mget_mset _ _ _ _ _

theorem mget_memWrite (m : List Host.Cell) (pa a : Nat) (bs : List Byte) :
    mget (memWrite m pa bs) a memDefault = if pa ≤ a ∧ a < pa + bs.length then bs.getD (a - pa) 0 else mget m a memDefault := by
  induction bs generalizing m pa with
  | nil => simp only [memWrite, List.length_nil]; split <;> [omega; rfl]
  | cons b bs ih =>
    simp only [memWrite, ih, List.length_cons, mget_mset]
    by_cases h : a = pa
    · subst h; simp
    · by_cases h' : pa + 1 ≤ a ∧ a < pa + 1 + bs.length
      · rw [if_pos h', if_pos ⟨by omega, by omega⟩, show a - pa = (a - (pa + 1)) + 1 by omega, List.getD_cons_succ]
      · rw [if_neg h', if_neg h, if_neg (by omega)]

/-- A run of bytes reads as written; every byte outside it as before. -/
theorem State.byte_setBytes (s : State) (pa a : Nat) (bs : List Byte) :
    (s.setBytes pa bs).byte a = if pa ≤ a ∧ a < pa + bs.length then bs.getD (a - pa) 0 else s.byte a := mget_memWrite _ _ _ _

theorem memWrite_wf (m : List Host.Cell) (pa : Nat) (bs : List Byte) (h : Memory.wf m) : Memory.wf (memWrite m pa bs) := by
  induction bs generalizing m pa with
  | nil => exact h
  | cons b bs ih => exact ih _ _ (canonical_mset _ _ _ _ h)

/-- Writing one byte keeps the canonical form. -/
theorem State.setByte_wf (s : State) (pa : Nat) (b : Byte) (h : Memory.wf s.mem) : Memory.wf (s.setByte pa b).mem :=
  canonical_mset _ _ _ _ h

/-- Writing a run of bytes keeps the canonical form. -/
theorem State.setBytes_wf (s : State) (pa : Nat) (bs : List Byte) (h : Memory.wf s.mem) : Memory.wf (s.setBytes pa bs).mem :=
  memWrite_wf _ _ _ h

/-- Writing a number keeps the canonical form. -/
theorem State.setNum_wf (s : State) (pa n v : Nat) (h : Memory.wf s.mem) : Memory.wf (s.setNum pa n v).mem :=
  memWrite_wf _ _ _ h

theorem State.freshColumn_mem (s : State) (cell : Nat) : (s.freshColumn cell).mem = s.mem := by
  unfold State.freshColumn
  simp only
  split
  · split <;> rfl
  · rfl

theorem State.patchByte_mem (s : State) (cell : Nat) (b : Byte) : (s.patchByte cell b).mem = s.mem := by
  unfold State.patchByte
  simp only
  split
  · split <;> rfl
  · rfl

/-- Operations that each leave memory alone leave it alone one after another. -/
theorem State.mem_foldl {β : Type} (f : State → β → State) (hf : ∀ (t : State) (b : β), (f t b).mem = t.mem) (l : List β) (s : State) :
    (l.foldl f s).mem = s.mem := by
  induction l generalizing s with
  | nil => rfl
  | cons b l ih => exact (ih _).trans (hf s b)

theorem State.patchCells_mem (s : State) (gs : Nat) (cs : List (Nat × Byte)) : (s.patchCells gs cs).mem = s.mem := by
  unfold State.patchCells
  split
  · rfl
  · exact State.mem_foldl _ (fun t c => t.patchByte_mem _ _) _ _

/-- Memory after a store is the bytes written and nothing else. -/
theorem State.store_mem (s : State) (pa : Nat) (bs : List Byte) : (s.store pa bs).mem = memWrite s.mem pa bs :=
  (State.mem_foldl _ (fun t k => t.freshColumn_mem _) _ _).trans (State.patchCells_mem _ _ _)

/-- The two differ in nothing but memory, poison and what stands stored in struck columns. -/
def OnlyErrs (s t : State) : Prop :=
  { t with mem := s.mem, poison := s.poison, stks := s.stks } = s ∧ ∀ gs, { t.stk gs with errs := (s.stk gs).errs } = s.stk gs

theorem OnlyErrs.refl (s : State) : OnlyErrs s s := ⟨rfl, fun _ => rfl⟩

theorem OnlyErrs.trans {s t u : State} (h : OnlyErrs s t) (k : OnlyErrs t u) : OnlyErrs s u := by
  refine ⟨?_, fun gs => ?_⟩
  · rw [← h.1, ← k.1]
  · rw [← h.2 gs, ← k.2 gs]

theorem OnlyErrs.pkgs {s t : State} (h : OnlyErrs s t) : t.pkgs = s.pkgs := by rw [← h.1]

theorem OnlyErrs.dumpDst {s t : State} (h : OnlyErrs s t) (gs : Nat) : (t.stk gs).dumpDst = (s.stk gs).dumpDst := by
  rw [← h.2 gs]
  rfl

theorem OnlyErrs.foldl {β : Type} (f : State → β → State) (hf : ∀ t b, OnlyErrs t (f t b)) (l : List β) (s : State) : OnlyErrs s (l.foldl f s) := by
  induction l generalizing s with
  | nil => exact .refl s
  | cons b l ih => exact (hf s b).trans (ih _)

theorem State.updStk_onlyErrs (s : State) (g : Nat) (m : Map (List (Nat × Bool × Nat))) : OnlyErrs s (s.updStk g fun k => { k with errs := m }) := by
  refine ⟨rfl, fun gs => ?_⟩
  by_cases h : gs = g <;> simp [State.updStk, h]

theorem State.freshColumn_onlyErrs (s : State) (cell : Nat) : OnlyErrs s (s.freshColumn cell) := by
  unfold State.freshColumn
  simp only
  split
  · split
    · exact .refl s
    · exact State.updStk_onlyErrs ..
  · exact .refl s

theorem State.patchByte_onlyErrs (s : State) (cell : Nat) (b : Byte) : OnlyErrs s (s.patchByte cell b) := by
  unfold State.patchByte
  simp only
  split
  · split
    · exact .refl s
    · exact State.updStk_onlyErrs ..
  · exact .refl s

theorem State.patchCells_onlyErrs (s : State) (gs : Nat) (cs : List (Nat × Byte)) : OnlyErrs s (s.patchCells gs cs) := by
  unfold State.patchCells
  split
  · exact .refl s
  · exact .foldl _ (fun t c => t.patchByte_onlyErrs _ _) _ _

/-- A store writes memory, poison and struck columns, and nothing else of the machine. -/
theorem State.store_onlyErrs (s : State) (pa : Nat) (bs : List Byte) : OnlyErrs s (s.store pa bs) := by
  have h : OnlyErrs s ((s.setBytes pa bs).patchCells (paGs pa) (bs.zipIdx.map fun b => (pa + b.2, b.1))) :=
    .trans (t := s.setBytes pa bs) ⟨rfl, fun _ => rfl⟩ (State.patchCells_onlyErrs _ _ _)
  exact h.trans (.trans (t := State.cleanWhole _ pa bs.length) ⟨rfl, fun _ => rfl⟩ (.foldl _ (fun t k => t.freshColumn_onlyErrs _) _ _))

/-- Storing with the effect on poison and on struck columns keeps the canonical form. -/
theorem State.store_wf (s : State) (pa : Nat) (bs : List Byte) (h : Memory.wf s.mem) : Memory.wf (s.store pa bs).mem := by
  rw [State.store_mem]
  exact memWrite_wf _ _ _ h

theorem State.bytes_length (s : State) (pa n : Nat) : (s.bytes pa n).length = n := by
  induction n generalizing pa with
  | zero => rfl
  | succ n ih => simp [State.bytes, ih]

theorem State.bytes_getD (s : State) (pa n i : Nat) (h : i < n) : (s.bytes pa n).getD i 0 = s.byte (pa + i) := by
  induction n generalizing pa i with
  | zero => omega
  | succ n ih =>
    cases i with
    | zero => rfl
    | succ i =>
      simp only [State.bytes, List.getD_cons_succ]
      rw [ih _ _ (by omega)]
      congr 1
      omega

/-! ## Paths -/

theorem Ctx.path_setPath (c : Ctx) (e k : Nat) (p : Path) (h : e < c.paths.length) :
    (c.setPath e p).path k = if k = e then p else c.path k := by
  unfold Ctx.setPath Ctx.path
  simp only [List.getD_eq_getElem?_getD, List.getElem?_set]
  by_cases hk : k = e
  · subst hk; simp [h]
  · simp [hk, Ne.symm hk]

/-- A valid path stands in the table. -/
theorem Ctx.lt_of_v {c : Ctx} {e : Nat} (h : (c.path e).v = true) : e < c.paths.length := by
  rcases Nat.lt_or_ge e c.paths.length with h' | h'
  · exact h'
  · rw [Ctx.path, List.getD_eq_getElem?_getD, List.getElem?_eq_none h'] at h
    exact absurd h (by decide)

@[simp] theorem Ctx.setPath_length (c : Ctx) (e : Nat) (p : Path) : (c.setPath e p).paths.length = c.paths.length := by
  simp [Ctx.setPath]

theorem SameBut.refl (c : Ctx) : SameBut c c := rfl

theorem SameBut.trans {a b c : Ctx} (h : SameBut a b) (h' : SameBut b c) : SameBut a c := Eq.trans h' h

theorem Ctx.sameBody_setPath (c : Ctx) (e : Nat) (p : Path) : SameBut c (c.setPath e p) := rfl

theorem Ctx.sameBody_leaveClause (c : Ctx) (e : Nat) : SameBut c (c.leaveClause e) := rfl

theorem Ctx.sameBody_foldl {β : Type} (f : Ctx → β → Ctx) (hf : ∀ (d : Ctx) (b : β), SameBut d (f d b)) (l : List β) (c : Ctx) :
    SameBut c (l.foldl f c) := by
  induction l generalizing c with
  | nil => exact rfl
  | cons b l ih => exact (hf c b).trans (ih _)

theorem Ctx.sameBody_closeLoops (c : Ctx) (n : Nat) : SameBut c (c.closeLoops n) := by
  induction n generalizing c with
  | zero => exact rfl
  | succ n ih =>
    unfold Ctx.closeLoops
    split
    · exact rfl
    · simp only
      split
      · exact rfl
      · exact SameBut.trans (a := c) rfl (ih _)

theorem Ctx.sameBody_releaseJoins (c : Ctx) : SameBut c c.releaseJoins := by
  unfold Ctx.releaseJoins
  refine Ctx.sameBody_foldl _ (fun d b => ?_) _ _
  simp only
  split <;> exact rfl

theorem Ctx.sameBody_mergePair (c : Ctx) (i j : Nat) : SameBut c (c.mergePair i j) := by
  unfold Ctx.mergePair
  split <;> exact rfl

theorem Ctx.sameBody_mergePaths (c : Ctx) : SameBut c c.mergePaths := by
  unfold Ctx.mergePaths
  refine Ctx.sameBody_foldl _ (fun d i => Ctx.sameBody_foldl _ (fun d j => ?_) _ _) _ _
  split
  · exact Ctx.sameBody_mergePair _ _ _
  · exact rfl

/-- Settling changes no register, predicate, scalar, flag or other field outside the path table. -/
theorem Ctx.sameBody_settle (c : Ctx) : SameBut c c.settle :=
  ((c.sameBody_closeLoops 3).trans (Ctx.sameBody_releaseJoins _)).trans (Ctx.sameBody_mergePaths _)

theorem Ctx.sameBody_issuedAt (c : Ctx) (now : Nat) : SameBut c { c with lastIssue := now } := rfl

theorem Ctx.sameBody_fallTo (c : Ctx) (e pc now : Nat) : SameBut c (c.fallTo e pc now) := by
  unfold Ctx.fallTo
  simp only
  split <;> exact rfl

/-- Stepping on to the next word changes no register, predicate, scalar, flag or other field outside the path table. -/
theorem Ctx.sameBody_advanceTo (c : Ctx) (e n now : Nat) (t : Option Latch) (w : Wait) : SameBut c (c.advanceTo e n now t w) := by
  unfold Ctx.advanceTo
  simp only
  split
  · exact rfl
  · split
    · exact ((((Ctx.sameBody_setPath c e _).trans (Ctx.sameBody_issuedAt _ now)).trans (Ctx.sameBody_fallTo _ _ _ _))).trans
        (Ctx.sameBody_settle _)
    · exact (Ctx.sameBody_setPath c e _).trans (Ctx.sameBody_issuedAt _ now)

theorem Ctx.sameBody_advance (c : Ctx) (e n now : Nat) (t : Option Latch) : SameBut c (c.advance e n now t) :=
  c.sameBody_advanceTo _ _ _ _ _

/-- Within a clause stepping on takes `n` words off, moves the pc behind them and moves the latch in (06 R110). -/
theorem Ctx.advance_within (c : Ctx) (e n now : Nat) (t : Option Latch) (k : Clause) (hv : (c.path e).v = true)
    (hk : (c.path e).clause = some k) (hw : k.words.drop n ≠ []) :
    (c.advance e n now t).path e = { c.path e with
      clause := some { k with words := k.words.drop n, wait := 0 }
      pc := (c.path e).pc + 4 * n
      latches := (t :: (c.path e).latches).take 8
      lastIssue := now } := by
  have hw' : (k.words.drop n).isEmpty = false := by cases h : k.words.drop n <;> simp_all
  unfold Ctx.advance Ctx.advanceTo
  simp only [hk, hw']
  rw [if_neg (by simp)]
  exact (Ctx.path_setPath _ _ _ _ (Ctx.lt_of_v hv)).trans (if_pos rfl)

end Sys2Proof.Machine
end

