-- ==== Sys2Proof/Laws/Memory.lean ====
section
/-! SUPPORT. What a write behind a reference does to the bytes of memory, and that it keeps memory's canonical form. -/

namespace Sys2Proof.Machine

theorem writeCells_wf (m : List Host.Cell) (r : Nat) (bs : List Byte) (h : Memory.wf m) : Memory.wf (writeCells m r bs) := by
  induction bs generalizing m r with
  | nil => exact h
  | cons b bs ih => exact ih _ _ (canonical_mset _ _ _ _ h)

/-- Cells that a write of bytes from a reference does not name keep their bytes. -/
theorem mget_writeCells_other (m : List Host.Cell) (r a : Nat) (bs : List Byte) (h : ∀ i, i < bs.length → a ≠ refCell (r + i)) :
    mget (writeCells m r bs) a memDefault = mget m a memDefault := by
  induction bs generalizing m r with
  | nil => rfl
  | cons b bs ih =>
    rw [writeCells, ih _ _ (fun i hi => by have := h (i + 1) (by simp only [List.length_cons]; omega); rwa [show r + 1 + i = r + (i + 1) by omega])]
    exact mget_mset_other _ _ _ (by have := h 0 (by simp); simpa using this)

/-- Memory after a write at a home is the cells written and nothing else. -/
theorem State.cellStore_mem (s : State) (r : Nat) (bs : List Byte) : (s.cellStore r bs).mem = writeCells s.mem r bs := by
  unfold State.cellStore
  refine (State.mem_foldl (fun (t : State) b => _) (fun t b => ?_) _ _).trans (State.patchCells_mem _ _ _)
  exact State.freshColumn_mem _ _

/-- Memory after a write behind a reference: a launch record keeps its bytes, any other place takes the cells written. -/
theorem State.refStore_mem (s : State) (r : Nat) (bs : List Byte) :
    (s.refStore r bs).mem = if isRecord (refPa r) then s.mem else writeCells s.mem r bs := by
  unfold State.refStore
  split
  · rfl
  · exact State.cellStore_mem _ _ _

/-- A write behind a reference keeps the canonical form. -/
theorem State.refStore_wf (s : State) (r : Nat) (bs : List Byte) (h : Memory.wf s.mem) : Memory.wf (s.refStore r bs).mem := by
  rw [State.refStore_mem]
  split
  · exact h
  · exact writeCells_wf _ _ _ h

/-- Bytes that a write behind a reference does not name are as before. -/
theorem State.byte_refStore_other (s : State) (r a : Nat) (bs : List Byte) (h : ∀ i, i < bs.length → a ≠ refCell (r + i)) :
    (s.refStore r bs).byte a = s.byte a := by
  unfold State.byte
  rw [State.refStore_mem]
  split
  · rfl
  · exact mget_writeCells_other _ _ _ _ h

/-- Reading behind a reference changes no byte of memory. -/
theorem State.decodeRead_mem (s : State) (r n : Nat) : (s.decodeRead r n).1.mem = s.mem := by
  unfold State.decodeRead
  generalize refBlocks r n = l
  generalize hp : ((s, 0) : State × Nat) = p
  have ht : p.1.mem = s.mem := by rw [← hp]
  clear hp
  induction l generalizing p with
  | nil => exact ht
  | cons b l ih =>
    rw [List.foldl_cons]
    refine ih _ ?_
    obtain ⟨t, c⟩ := p
    simp only
    split
    · exact ht
    · split
      · exact ht
      · split <;> exact ht

theorem State.touchRow_mem (s : State) (r : Nat) : (s.touchRow r).mem = s.mem := by
  unfold State.touchRow
  simp only
  split <;> rfl

end Sys2Proof.Machine
end

