-- ==== Sys2Proof/Laws/Operands.lean ====
section
/-! SUPPORT. What the write-back every word shares leaves: registers, predicates, scalars, flags and the latch (06 R110, 10 R205-R208). -/

namespace Sys2Proof.Machine

/-! ## The issuer -/

/-- What an issuer is: the context under the cursor, its path valid and in a clause. -/
theorem State.issuer_spec {s : State} {e : Env} (h : s.issuer = some e) :
    e.s = s ∧ s.ctx? e.cid = some e.c ∧ e.p = e.c.path e.e ∧ (e.c.path e.e).v = true ∧ e.cid = s.cursor.ctx ∧ e.e = s.cursor.entry := by
  unfold State.issuer at h
  split at h
  · cases h
  · next c hc =>
    simp only at h
    split at h
    · next hv =>
      cases h
      simp only [Bool.and_eq_true] at hv
      exact ⟨rfl, hc, rfl, hv.1, rfl, rfl⟩
    · cases h

/-- With an issuer a word answers a next state. -/
theorem withIssuer_some {s : State} {e : Env} (h : s.issuer = some e) (k : Env → State) : withIssuer s k = .next (k e) := by
  simp [withIssuer, h]

/-- Without one it stops. -/
theorem withIssuer_none {s : State} (h : s.issuer = none) (k : Env → State) : withIssuer s k = .fault .noIssuer := by
  simp [withIssuer, h]

/-- A word with no defect that reads no dead register runs. -/
theorem Env.checked_ok (e : Env) (act : Mask) (ds regs : List Nat) (b : State) (h : ds = []) (hd : e.deadReg act regs = none) :
    e.checked act ds regs b = b := by
  subst h
  simp [Env.checked, firstDefect, hd]

/-- A word with a defect takes the fault of its least code, and nothing else of it happens. -/
theorem Env.checked_defect (e : Env) (act : Mask) (ds regs : List Nat) (b : State) (k : Nat) (h : firstDefect ds = some k) :
    e.checked act ds regs b = e.fault k e.lanes := by
  simp [Env.checked, h]

/-! ## Registers -/

theorem key_inj {r r' l l' : Nat} (h : l < 64) (h' : l' < 64) : r * 64 + l = r' * 64 + l' ↔ r = r' ∧ l = l' := by omega

theorem Ctx.v_setV (c : Ctx) (r l v r' l' : Nat) (h : l < 64) (h' : l' < 64) :
    (c.setV r l v).v r' l' = if r' = r ∧ l' = l then BitVec.ofNat 32 v else c.v r' l' := by
  unfold Ctx.setV Ctx.v
  simp only [mget_mset, key_inj h' h]

theorem Ctx.v_setVW (c : Ctx) (wide : Bool) (d l v r l' : Nat) (h : l < 64) (h' : l' < 64) :
    (c.setVW wide d l v).v r l' = if l' = l ∧ wide = true ∧ r = d + 1 then BitVec.ofNat 32 (v / 2 ^ 32)
      else if l' = l ∧ r = d then BitVec.ofNat 32 v else c.v r l' := by
  unfold Ctx.setVW
  cases wide
  · simp only [Bool.false_eq_true, ↓reduceIte, Ctx.v_setV _ _ _ _ _ _ h h', false_and, and_comm]
  · simp only [↓reduceIte, Ctx.v_setV _ _ _ _ _ _ h h', true_and, and_comm]

/-- A write of lanes' values leaves every other register of every other lane. -/
theorem Ctx.v_writeV_other (c : Ctx) (wide : Bool) (d r l : Nat) (rs : List (Nat × Nat)) (hb : ∀ x ∈ rs, x.1 < 64) (hl : l < 64)
    (h : (∀ x ∈ rs, x.1 ≠ l) ∨ (r ≠ d ∧ (wide = true → r ≠ d + 1))) : (c.writeV wide d rs).v r l = c.v r l := by
  induction rs generalizing c with
  | nil => rfl
  | cons x rs ih =>
    have h2 : (∀ x ∈ rs, x.1 ≠ l) ∨ (r ≠ d ∧ (wide = true → r ≠ d + 1)) := h.imp_left fun g y hy => g y (.tail _ hy)
    rw [Ctx.writeV, List.foldl_cons]
    refine (ih _ (fun y hy => hb y (.tail _ hy)) h2).trans ?_
    rw [Ctx.v_setVW _ _ _ _ _ _ _ (hb x (.head _)) hl]
    rcases h with h | h
    · have := h x (.head _)
      rw [if_neg (by rintro ⟨a, -⟩; exact this a.symm), if_neg (by rintro ⟨a, -⟩; exact this a.symm)]
    · rw [if_neg (by rintro ⟨-, a, b⟩; exact h.2 a b), if_neg (by rintro ⟨-, b⟩; exact h.1 b)]

/-- A lane that is written holds its value. -/
theorem Ctx.v_writeV_same (c : Ctx) (wide : Bool) (d l v : Nat) (rs : List (Nat × Nat)) (hb : ∀ x ∈ rs, x.1 < 64)
    (hn : (rs.map (·.1)).Nodup) (hm : (l, v) ∈ rs) :
    (c.writeV wide d rs).v d l = BitVec.ofNat 32 v ∧ (wide = true → (c.writeV wide d rs).v (d + 1) l = BitVec.ofNat 32 (v / 2 ^ 32)) := by
  induction rs generalizing c with
  | nil => cases hm
  | cons x rs ih =>
    have hl : l < 64 := hb _ hm
    simp only [List.map_cons, List.nodup_cons] at hn
    rcases List.mem_cons.mp hm with rfl | hm'
    · have ho : ∀ y ∈ rs, y.1 ≠ l := fun y hy hyl => hn.1 (List.mem_map.mpr ⟨y, hy, hyl⟩)
      have hb' : ∀ y ∈ rs, y.1 < 64 := fun y hy => hb y (.tail _ hy)
      rw [Ctx.writeV, List.foldl_cons]
      refine ⟨?_, fun hw => ?_⟩
      · refine (Ctx.v_writeV_other _ wide d d l rs hb' hl (.inl ho)).trans ?_
        rw [Ctx.v_setVW _ _ _ _ _ _ _ hl hl, if_neg (by omega), if_pos ⟨rfl, rfl⟩]
      · refine (Ctx.v_writeV_other _ wide d (d + 1) l rs hb' hl (.inl ho)).trans ?_
        rw [Ctx.v_setVW _ _ _ _ _ _ _ hl hl, if_pos ⟨rfl, hw, rfl⟩]
    · exact ih _ (fun y hy => hb y (.tail _ hy)) hn.2 hm'

/-- Writing vector registers changes them and their dead marks alone. -/
theorem Ctx.writeV_rest (c : Ctx) (wide : Bool) (d : Nat) (rs : List (Nat × Nat)) :
    c.writeV wide d rs = { c with vregs := (c.writeV wide d rs).vregs, dead := (c.writeV wide d rs).dead } := by
  induction rs generalizing c with
  | nil => rfl
  | cons x rs ih =>
    refine (ih (c.setVW wide d x.1 x.2)).trans ?_
    cases wide <;> rfl

/-! ## Flags -/

/-- Every lane's flags are ORed into its FSTAT; other lanes keep theirs (02 R35). -/
theorem Ctx.fstat_orFlags (c : Ctx) (g : Nat → Flags) (ls : List Nat) (hn : ls.Nodup) (l : Nat) :
    mget (c.orFlags (ls.map fun i => (i, g i))).fstat l 0 = mget c.fstat l 0 ||| (if l ∈ ls then g l else 0) := by
  unfold Ctx.orFlags
  simp only
  generalize c.fstat = m
  induction ls generalizing m with
  | nil => simp
  | cons x ls ih =>
    rw [List.nodup_cons] at hn
    rw [List.map_cons, List.foldl_cons, ih hn.2, mget_mset]
    by_cases hx : l = x
    · subst hx; simp [hn.1]
    · simp [hx]

theorem Ctx.orFlags_rest (c : Ctx) (fs : List (Nat × Flags)) : { c.orFlags fs with fstat := c.fstat } = c := rfl

theorem State.watchFlags_zero (s : State) (cid e l : Nat) : s.watchFlags cid e l 0 = s := by
  simp [State.watchFlags, State.watchFlagsOf]

/-- Where no lane raises a flag nothing is shown to the exception predicates. -/
theorem State.watchAll_zero (s : State) (cid e : Nat) (ls : List Nat) (g : Nat → Flags) (h : ∀ l ∈ ls, g l = 0) :
    s.watchAll cid e (ls.map fun l => (l, g l)) = s := by
  unfold State.watchAll
  induction ls with
  | nil => rfl
  | cons x ls ih =>
    rw [List.map_cons, List.foldl_cons, h x (.head _), State.watchFlags_zero]
    exact ih fun l hl => h l (.tail _ hl)

/-! ## The latch -/

theorem foldl_mset_other {α : Type} (ls : List α) (key : α → Nat) (f : α → BitVec 64) (m : Map (BitVec 64)) (k : Nat) (h : ∀ x ∈ ls, key x ≠ k) :
    mget (ls.foldl (fun m x => mset m (key x) (f x) 0) m) k 0 = mget m k 0 := by
  induction ls generalizing m with
  | nil => rfl
  | cons x ls ih =>
    rw [List.foldl_cons, ih _ fun y hy => h y (.tail _ hy), mget_mset_other _ _ _ (Ne.symm (h x (.head _)))]

theorem foldl_mset_same {α : Type} (ls : List α) (key : α → Nat) (f : α → BitVec 64) (m : Map (BitVec 64)) (x : α) (hx : x ∈ ls)
    (hn : (ls.map key).Nodup) : mget (ls.foldl (fun m x => mset m (key x) (f x) 0) m) (key x) 0 = f x := by
  induction ls generalizing m with
  | nil => cases hx
  | cons y ls ih =>
    simp only [List.map_cons, List.nodup_cons] at hn
    rw [List.foldl_cons]
    rcases List.mem_cons.mp hx with rfl | hx'
    · rw [foldl_mset_other _ _ _ _ _ fun z hz hk => hn.1 (List.mem_map.mpr ⟨z, hz, hk⟩), mget_mset_same]
    · exact ih _ hx' hn.2

/-- A vector latch holds the result in an active lane and, in a lane of the path that is not active, the destination's unchanged
value or zero under NWB (06 R110). -/
theorem vecLatch_read (c : Ctx) (wide n : Bool) (d : Nat) (path act : Mask) (f : Nat → Nat) (l : Nat) :
    (vecLatch c wide n d path act ((lanesOf act).map fun l => (l, f l))).read l =
      if act.getLsbD l = true then f l % 2 ^ 64
      else if path.getLsbD l = true then
        (if n then 0 else (c.v d l).toNat + (if wide then (c.v (d + 1) l).toNat * 2 ^ 32 else 0)) % 2 ^ 64
      else 0 := by
  unfold vecLatch Latch.read
  simp only [Bool.false_eq_true, ↓reduceIte]
  have hn : ((lanesOf (path &&& ~~~act)).map (fun x : Nat => x)).Nodup := by simpa using lanesOf_nodup _
  have hn' : (((lanesOf act).map fun l => (l, f l)).map (fun x : Nat × Nat => x.1)).Nodup := by
    simpa [Function.comp_def] using lanesOf_nodup act
  by_cases ha : act.getLsbD l = true
  · rw [if_pos ha, foldl_mset_other _ (fun x => x) _ _ _ (fun x hx hk => by
      subst hk; rw [mem_lanesOf, BitVec.getLsbD_and, BitVec.getLsbD_not] at hx; simp [ha] at hx)]
    rw [foldl_mset_same _ (fun x : Nat × Nat => x.1) (fun x => BitVec.ofNat 64 x.2) _ (l, f l)
      (List.mem_map.mpr ⟨l, (mem_lanesOf _ _).mpr ha, rfl⟩) hn']
    simp
  · rw [if_neg ha]
    by_cases hp : path.getLsbD l = true
    · rw [if_pos hp]
      have hl : l < 64 := by
        rcases Nat.lt_or_ge l 64 with h | h
        · exact h
        · rw [BitVec.getLsbD_of_ge _ _ h] at hp; exact absurd hp (by decide)
      have := foldl_mset_same (lanesOf (path &&& ~~~act)) (fun x => x)
        (fun l => BitVec.ofNat 64 (if n then 0 else (c.v d l).toNat + (if wide then (c.v (d + 1) l).toNat * 2 ^ 32 else 0)))
        (((lanesOf act).map fun l => (l, f l)).foldl (fun m lv => mset m lv.1 (BitVec.ofNat 64 lv.2) 0) []) l
        (by rw [mem_lanesOf, BitVec.getLsbD_and, BitVec.getLsbD_not]; rw [hp, Bool.eq_false_iff.mpr ha]; simp [hl]) hn
      rw [this]
      simp
    · rw [if_neg hp, foldl_mset_other _ (fun x => x) _ _ _ (fun x hx hk => by
        subst hk; rw [mem_lanesOf, BitVec.getLsbD_and] at hx; simp [hp] at hx)]
      rw [foldl_mset_other _ (fun x : Nat × Nat => x.1) (fun x => BitVec.ofNat 64 x.2) _ _ (fun x hx hk => by
        obtain ⟨i, hi, rfl⟩ := List.mem_map.mp hx; subst hk; exact ha ((mem_lanesOf _ _).mp hi))]
      rfl

/-! ## The write-back -/

theorem OnlyCtx.setCtx (s : State) (cid : Nat) (c : Ctx) : OnlyCtx s (s.setCtx cid c) cid c :=
  ⟨by simp, fun k hk => by simp [hk], fun _ => rfl, rfl⟩

/-- Stepping a context on that has the issuer's path table steps the path on. -/
theorem StepsOn.advance {s : State} {e : Env} (he : s.issuer = some e) (c : Ctx) (hc : c.paths = e.c.paths) (nw : Nat)
    (t : Option Latch) (L : Option Latch → Prop) (hL : L t) : StepsOn e (c.advance e.e nw e.now t) nw L := by
  obtain ⟨-, -, hp, hv, -, -⟩ := State.issuer_spec he
  intro k hk hw
  have hpe : c.path e.e = e.p := by rw [hp]; unfold Ctx.path; rw [hc]
  have h := c.advance_within e.e nw e.now t k (by rw [hpe, hp]; exact hv) (by rw [hpe]; exact hk) hw
  rw [h, hpe]
  exact ⟨t, hL, rfl, rfl, rfl, rfl⟩

theorem SameBut.vregs {c d : Ctx} (h : SameBut c d) : d.vregs = c.vregs := (congrArg Ctx.vregs h : d.body.vregs = c.body.vregs)
theorem SameBut.dead {c d : Ctx} (h : SameBut c d) : d.dead = c.dead := (congrArg Ctx.dead h : d.body.dead = c.body.dead)
theorem SameBut.fstat {c d : Ctx} (h : SameBut c d) : d.fstat = c.fstat := (congrArg Ctx.fstat h : d.body.fstat = c.body.fstat)
theorem SameBut.preds {c d : Ctx} (h : SameBut c d) : d.preds = c.preds := (congrArg Ctx.preds h : d.body.preds = c.body.preds)
theorem SameBut.sregs {c d : Ctx} (h : SameBut c d) : d.sregs = c.sregs := (congrArg Ctx.sregs h : d.body.sregs = c.body.sregs)

/-- A word that writes its lanes' results back completes with a vector result: everything `Env.perLane` does. -/
theorem GivesVector.of_perLane {s : State} {e : Env} (he : s.issuer = some e) (i : Instr) (nw : Nat) (wide n : Bool) (d : Nat) (act : Mask)
    (draws : Nat) (f res : Nat → Nat × Flags) (hi : exec i s = .next (e.perLane nw wide n d act draws f))
    (hf : ∀ l, act.getLsbD l = true → f l = res l) : GivesVector i s e nw wide n d act draws res := by
  obtain ⟨hs, -, -, -, -, -⟩ := State.issuer_spec he
  have hfl : ((lanesOf act).map fun l => (l, f l)) = ((lanesOf act).map fun l => (l, res l)) :=
    List.map_congr_left fun l hl => by rw [hf l ((mem_lanesOf _ _).mp hl)]
  unfold Env.perLane at hi
  rw [hfl] at hi
  unfold Env.finishV at hi
  simp only [List.map_map, Function.comp_def, hs] at hi
  generalize hvs : ((lanesOf act).map fun l => (l, (res l).1)) = vs at hi
  generalize hc0 : (if n = true then e.c else e.c.writeV wide d vs) = c0 at hi
  have h0 : c0 = { e.c with vregs := c0.vregs, dead := c0.dead } := by
    rw [← hc0]; split
    · rfl
    · exact Ctx.writeV_rest _ _ _ _
  generalize hlt : vecLatch e.c wide n d e.lanes act vs = lt at hi
  generalize hc1 : ({ c0.orFlags ((lanesOf act).map fun l => (l, (res l).2)) with scnt := c0.scnt + BitVec.ofNat 32 draws } : Ctx) = c1 at hi
  have h1 : c1 = { e.c with vregs := c0.vregs, dead := c0.dead, fstat := c1.fstat, scnt := e.c.scnt + BitVec.ofNat 32 draws } := by
    have hsc : c0.scnt = e.c.scnt := by rw [h0]
    have hc : c1 = { c0 with fstat := c1.fstat, scnt := c0.scnt + BitVec.ofNat 32 draws } := by rw [← hc1]; rfl
    rw [hsc, h0] at hc
    exact hc
  have hst : c1.fstat = (c0.orFlags ((lanesOf act).map fun l => (l, (res l).2))).fstat := by rw [← hc1]
  have hb := Ctx.sameBody_advance c1 e.e nw e.now (some lt)
  have hvr : (c1.advance e.e nw e.now (some lt)).vregs = c0.vregs := by rw [hb.vregs, h1]
  have hdd : (c1.advance e.e nw e.now (some lt)).dead = c0.dead := by rw [hb.dead, h1]
  have hpth : c1.paths = e.c.paths := by rw [h1]
  have hv2 : ∀ r l, (c1.advance e.e nw e.now (some lt)).v r l = c0.v r l := fun r l => by unfold Ctx.v; rw [hvr]
  have hbd : ∀ x ∈ vs, x.1 < 64 := by
    intro x hx; rw [← hvs] at hx; obtain ⟨l, hl, rfl⟩ := List.mem_map.mp hx; exact lanesOf_bound hl
  have hnd : (vs.map (·.1)).Nodup := by rw [← hvs]; simpa [Function.comp_def] using lanesOf_nodup act
  refine ⟨_, _, hi, OnlyCtx.setCtx _ _ _, ?_, ?_, ?_, ?_, ?_⟩
  · intro l hl hn
    subst hn
    rw [hv2, hv2, ← hc0, if_neg (by simp)]
    exact Ctx.v_writeV_same _ _ _ _ _ _ hbd hnd (by rw [← hvs]; exact List.mem_map.mpr ⟨l, (mem_lanesOf _ _).mpr hl, rfl⟩)
  · intro r l hl h
    rw [hv2, ← hc0]
    by_cases hn : n = true
    · rw [if_pos hn]
    · rw [if_neg hn]
      refine Ctx.v_writeV_other _ _ _ _ _ _ hbd hl ?_
      rcases h with h | h | h
      · exact absurd h hn
      · left; intro x hx hxl; rw [← hvs] at hx; obtain ⟨i, hi, rfl⟩ := List.mem_map.mp hx
        rw [mem_lanesOf] at hi; simp only at hxl; rw [hxl, h] at hi; exact absurd hi (by decide)
      · exact .inr h
  · intro l
    have h := Ctx.fstat_orFlags c0 (fun l => (res l).2) (lanesOf act) (lanesOf_nodup _) l
    have h' : c0.fstat = e.c.fstat := by rw [h0]
    rw [h'] at h
    simp only [mem_lanesOf] at h
    rw [hb.fstat, hst]
    exact h
  · unfold SameBut
    rw [hvr, hdd, hb.fstat, ← h1]
    exact hb
  · refine StepsOn.advance he c1 hpth nw (some lt) _ ⟨lt, rfl, ?_, ?_, fun l hl => ?_, fun l hp hl => ?_⟩
    · rw [← hlt]; rfl
    · rw [← hlt]; rfl
    · rw [← hlt, ← hvs, vecLatch_read, if_pos hl]
    · rw [← hlt, ← hvs, vecLatch_read, if_neg (by simp [hl]), if_pos hp]
      have h1 := (e.c.v d l).isLt
      have h2 := (e.c.v (d + 1) l).isLt
      refine Nat.mod_eq_of_lt ?_
      split
      · omega
      · split <;> omega

/-- The lanes of a list, as a mask. -/
theorem maskOf_getLsbD (ls : List Nat) (l : Nat) (hl : l < 64) : (maskOf ls).getLsbD l = decide (l ∈ ls) := by
  have key : ∀ (m : Mask), (ls.foldl (fun m l => m ||| laneBit l) m).getLsbD l = (m.getLsbD l || decide (l ∈ ls)) := by
    induction ls with
    | nil => intro m; simp
    | cons x ls ih =>
      intro m
      rw [List.foldl_cons, ih, BitVec.getLsbD_or]
      have hx : (laneBit x).getLsbD l = decide (l = x) := by
        unfold laneBit
        rw [BitVec.getLsbD_ofNat, Nat.testBit_two_pow]
        simp [hl, eq_comm]
      rw [hx]
      simp [Bool.or_assoc]
  have := key 0
  rw [maskOf, this]
  simp

/-- A word that writes its lanes' bits back completes with a predicate result: everything `Env.finishP` does. -/
theorem GivesPredicate.of_finishP {s : State} {e : Env} (he : s.issuer = some e) (i : Instr) (nw : Nat) (n : Bool) (d : Nat) (act : Mask)
    (f res : Nat → Bool × Flags) (hi : exec i s = .next (e.finishP nw n d act ((lanesOf act).map fun l => (l, f l))))
    (hf : ∀ l, act.getLsbD l = true → f l = res l) : GivesPredicate i s e nw n d act res := by
  obtain ⟨hs, -, -, -, -, -⟩ := State.issuer_spec he
  have hfl : ((lanesOf act).map fun l => (l, f l)) = ((lanesOf act).map fun l => (l, res l)) :=
    List.map_congr_left fun l hl => by rw [hf l ((mem_lanesOf _ _).mp hl)]
  rw [hfl] at hi
  unfold Env.finishP at hi
  simp only [List.map_map, Function.comp_def, hs] at hi
  generalize hon : maskOf ((((lanesOf act).map fun l => (l, res l)).filter fun r => r.2.1).map (·.1)) = on at hi
  have hob : ∀ l, act.getLsbD l = true → on.getLsbD l = (res l).1 := by
    intro l hl
    have hl' : l < 64 := lanesOf_bound ((mem_lanesOf _ _).mpr hl)
    rw [← hon, maskOf_getLsbD _ _ hl']
    simp [hl]
  have hob' : ∀ l, l < 64 → act.getLsbD l = false → on.getLsbD l = false := by
    intro l hl' hl
    rw [← hon, maskOf_getLsbD _ _ hl']
    simp [hl]
  generalize hvals : ((lanesOf e.lanes).foldl (fun m l => mset m l
    (if (if act.getLsbD l = true then on.getLsbD l else if n = true then false else (e.c.pred d).getLsbD l) = true then (1 : BitVec 64) else 0) 0) [])
    = vals at hi
  generalize hc0 : (if (n || decide (d = 0)) = true then e.c else
    { e.c with preds := mset e.c.preds d (e.c.pred d &&& ~~~act ||| on) 0 }) = c0 at hi
  have h0 : c0 = { e.c with preds := c0.preds } := by rw [← hc0]; split <;> rfl
  generalize hc1 : c0.orFlags ((lanesOf act).map fun l => (l, (res l).2)) = c1 at hi
  have h1 : c1 = { e.c with preds := c0.preds, fstat := c1.fstat } := by
    have hc : c1 = { c0 with fstat := c1.fstat } := by rw [← hc1]; rfl
    rw [h0] at hc
    exact hc
  have hpth : c1.paths = e.c.paths := by rw [h1]
  have hb := Ctx.sameBody_advance c1 e.e nw e.now (some ⟨false, false, vals⟩)
  have hpr : (c1.advance e.e nw e.now (some ⟨false, false, vals⟩)).preds = c0.preds := by rw [hb.preds, h1]
  refine ⟨_, _, hi, OnlyCtx.setCtx _ _ _, ?_, ?_, ?_, ?_⟩
  · intro k l hl
    unfold Ctx.pred
    rw [hpr]
    by_cases hk : k = 0
    · subst hk; simp
    · rw [if_neg hk, if_neg hk, ← hc0]
      by_cases hn : n = true
      · simp [hn]
      · by_cases hd : d = 0
        · subst hd; simp [hk]
        · rw [if_neg (by simp [hn, hd])]
          simp only [mget_mset]
          by_cases hkd : k = d
          · subst hkd
            rw [if_pos rfl, BitVec.getLsbD_or, BitVec.getLsbD_and, BitVec.getLsbD_not]
            by_cases ha : act.getLsbD l = true
            · simp [ha, hob l ha, hn, hk]
            · have ha' := Bool.eq_false_iff.mpr ha
              simp only [ha', hob' l hl ha', Ctx.pred, if_neg hk, hl]
              simp
          · simp [hkd]
  · intro l
    have h := Ctx.fstat_orFlags c0 (fun l => (res l).2) (lanesOf act) (lanesOf_nodup _) l
    have h' : c0.fstat = e.c.fstat := by rw [h0]
    rw [h'] at h
    simp only [mem_lanesOf] at h
    rw [hb.fstat, ← hc1]
    exact h
  · unfold SameBut
    rw [hpr, hb.fstat, ← h1]
    exact hb
  · refine StepsOn.advance he c1 hpth nw _ _ ⟨_, rfl, rfl, fun l hl hp => ?_, fun l hp hl => ?_⟩
    all_goals
      unfold Latch.read
      simp only [Bool.false_eq_true, ↓reduceIte]
      have hm := foldl_mset_same (lanesOf e.lanes) (fun x => x)
        (fun l => (if (if act.getLsbD l = true then on.getLsbD l else if n = true then false else (e.c.pred d).getLsbD l) = true then (1 : BitVec 64) else 0))
        [] l ((mem_lanesOf _ _).mpr hp) (by simpa using lanesOf_nodup e.lanes)
    · rw [← hvals, hm, if_pos hl, hob l hl]
      unfold b2n
      split <;> rfl
    · rw [← hvals, hm]
      simp only [hl, Bool.false_eq_true, ↓reduceIte]
      cases n
      · cases (e.c.pred d).getLsbD l <;> rfl
      · rfl

/-- A word that writes a scalar back completes with a scalar result: everything `Env.finishS` does. -/
theorem GivesScalar.of_finishS {s : State} {e : Env} (he : s.issuer = some e) (i : Instr) (nw : Nat) (n : Bool) (d v : Nat)
    (hi : exec i s = .next (e.finishS nw n d v)) : GivesScalar i s e nw n d v := by
  obtain ⟨hs, -, -, -, -, -⟩ := State.issuer_spec he
  unfold Env.finishS at hi
  simp only [hs] at hi
  generalize hc0 : (if n = true then e.c else { e.c with sregs := mset e.c.sregs d (BitVec.ofNat 32 v) 0 }) = c0 at hi
  have h0 : c0 = { e.c with sregs := c0.sregs } := by rw [← hc0]; split <;> rfl
  have hpth : c0.paths = e.c.paths := by rw [h0]
  have hb := Ctx.sameBody_advance c0 e.e nw e.now (some ⟨false, true, mset [] 0 (BitVec.ofNat 64 v) 0⟩)
  refine ⟨_, _, hi, OnlyCtx.setCtx _ _ _, ?_, ?_, ?_⟩
  · intro k
    unfold Ctx.sreg
    rw [hb.sregs, ← hc0]
    by_cases hn : n = true
    · simp [hn]
    · rw [if_neg hn]; simp only [mget_mset, Bool.eq_false_iff.mpr hn, and_true]
  · unfold SameBut
    rw [hb.sregs, ← h0]
    exact hb
  · refine StepsOn.advance he c0 hpth nw _ _ ⟨_, rfl, rfl, fun l => ?_⟩
    simp [Latch.read]

end Sys2Proof.Machine
end

