-- ==== Sys2Proof/Tests/Slice0.lean ====
section
/-! SUPPORT. The model's own tests: words the manual writes out, ill-formed terms, single steps with values of the manual, and for every
statement with hypotheses a state and operands that meet them. -/

set_option Elab.async false

namespace Sys2Proof.Tests

open Sys2Proof Sys2Proof.Machine Sys2Proof.Certificates

/-! ## Words of the manual -/

/-- An X word with every field zero. -/
def x0 : FmtX := ⟨0, 0, false, false, false, false, false, false, false, 0, 0⟩

/-- Integer words (06 Table 6-19, 20 Table 20-3). -/
theorem test_decode_integer :
    decodeTableWord 32 0x000B8690 = some (.iadd ⟨1, false, 112, 105, false, 0⟩) ∧
    decodeTableWord 32 0x00040EB0 = some (.iadd ⟨0, true, 1, 107, false, 0⟩) ∧
    decodeTableWord 64 0x06000000081B06B0 = some (.imad ⟨3, false, 96, 107, false, 0⟩ { x0 with sc := 3 }) ∧
    decodeTableWord 64 0x000000202C0B0440 = some (.iset ⟨1, false, 96, 68, false, 0⟩ { x0 with sub := 2 }) ∧
    decodeTableWord 32 0x32180000 = some (.movi ⟨3, false, 0⟩) ∧
    decodeTableWord 32 0x36C8F140 = some (.movx ⟨25, false, 30, 20, false, 0⟩) ∧
    decodeTableWord 32 0x39019310 = some (.movxw ⟨32, false, 50, 49, false, 0⟩) := by decide

/-- Floating and special-function words, written out from 06 Tables 6-8 and 6-16. -/
theorem test_decode_floating :
    decodeTableWord 32 0x40081030 = some (.fadd ⟨1, false, 2, 3, false, 0⟩) ∧
    decodeTableWord 32 0x80081000 = some (.rcp ⟨1, false, 2, 0, false, 0⟩) ∧
    decodeTableWord 32 0x8E0C100A = some (.tanh ⟨1, true, 2, 0, true, 2⟩) := by decide

/-- Cross-lane and scalar words (10 Table 10-13, 06 Table 6-19). -/
theorem test_decode_lanes :
    decodeTableWord 64 0x000001109A100800 = some (.scan ⟨2, false, 1, 0, false, 0⟩ { x0 with sub := 17 }) ∧
    decodeTableWord 64 0x000000009A200800 = some (.redx ⟨4, false, 1, 0, false, 0⟩ x0) ∧
    decodeTableWord 64 0x0000003096181690 = some (.shfl ⟨3, false, 2, 105, false, 0⟩ { x0 with sub := 3 }) ∧
    decodeTableWord 64 0x00000020982B0000 = some (.vote ⟨5, false, 96, 0, false, 0⟩ { x0 with sub := 2 }) ∧
    decodeTableWord 32 0x72200014 = some (.smovi ⟨4, false, 20⟩) := by decide

/-- Memory words (18 Table 18-6, 19 Table 19-6, 20 Table 20-3). -/
theorem test_decode_memory :
    decodeTableWord 32 0xA0A10006 = some (.ld ⟨20, 16, 0, 0, 0, 6⟩) ∧
    decodeTableWord 32 0xA4F886E7 = some (.atom ⟨31, 8, 6, 3, 2, 7⟩) ∧
    decodeTableWord 32 0xA8C1C001 = some (.post ⟨24, 28, 0, 0, 0, 1⟩) ∧
    decodeTableWord 32 0xA810601A = some (.post ⟨2, 6, 0, 0, 1, 10⟩) ∧
    decodeTableWord 32 0xAE416000 = some (.ldt ⟨8, 22, 0, 0, 0, 0⟩) ∧
    decodeTableWord 32 0xB0415010 = some (.stt ⟨8, 21, 0, 0, 1, 0⟩) := by decide

/-- Engine words (19 Tables 19-6 and 19-13); FILL and VRACT written out from 06 Tables 6-14 and 6-16. -/
theorem test_decode_engines :
    decodeTableWord 32 0xCA2214C0 = some (.fill ⟨2, 4, 5, 6, 0⟩) ∧
    decodeTableWord 32 0xE4110000 = some (.vract ⟨1, 2, 0, 0, 0⟩) ∧
    decodeTableWord 32 0xD6E63DC0 = some (.mldt ⟨14, 12, 15, 14, 0⟩) ∧
    decodeTableWord 64 0x00000030DB000000 = some (.maccv ⟨32, false, 0, 0, false, 0⟩ { x0 with sub := 3 }) ∧
    decodeTableWord 64 0x00000020DA010000 = some (.mvacc ⟨0, false, 32, 0, false, 0⟩ { x0 with sub := 2 }) ∧
    decodeTableWord 64 0x00000110D2A110C7 = some (.mloop ⟨10, 2, 4, 6, 7⟩ ⟨0, 2, 8⟩) ∧
    decodeTableWord 64 0xA4000000D0080100 = some (.mma ⟨1, false, 0, 16, false, 0⟩ { x0 with sc := 82 }) ∧
    decodeTableWord 64 0x000A0000D8E93C00 =
      some (.mst ⟨14, 18, 15, 0, 0⟩ ⟨true, false, true, false, 0, false, false, 0, false, 0, 0⟩) ∧
    decodeTableWord 64 0x00000025D8B6B800 =
      some (.mst ⟨11, 13, 14, 0, 0⟩ ⟨false, false, false, false, 0, false, false, 0, false, 9, 1⟩) := by decide

/-- Control and system words (06 Table 6-19, 18, 20 Tables 20-3 and 20-6). -/
theorem test_decode_control :
    decodeTableWord 32 0xE83FFFFA = some (.bra ⟨false, 1, 0x1FFFFA⟩) ∧
    decodeTableWord 32 0xE9200005 = some (.bra ⟨true, 1, 5⟩) ∧
    decodeTableWord 32 0xEE000004 = some .exitW ∧
    decodeTableWord 32 0xEE00000A = some .leave ∧
    decodeTableWord 32 0xF002200B = some (.loop 68 11) ∧
    decodeTableWord 32 0xF0080007 = some (.enter 7) ∧
    decodeTableWord 32 0xF2000000 = some (.bar 0 0 0 0) ∧
    decodeTableWord 32 0xF2000003 = some (.join 0) ∧
    decodeTableWord 32 0xF4000050 = some (.trap 5) ∧
    decodeTableWord 32 0xF60A1461 = some (.rdctx 1 66 70) ∧
    decodeTableWord 32 0xF66A14A0 = some (.step 13 66 74) ∧
    decodeTableWord 32 0xF67A14E3 = some (.resume 15 66 78) := by decide

/-- What is no instruction decodes to none (06 Table 6-17): a reserved opcode, a header, a reserved subop, an unused field. -/
theorem test_decode_refuses :
    decodeTableWord 32 0x3E000000 = none ∧ decodeTableWord 32 0xF8800001 = none ∧ decodeTableWord 32 0x7000000F = none ∧
    decodeTableWord 32 0xEE000014 = none ∧ decodeTableWord 64 0x00000001081B06B0 = none := by decide

/-! ## Ill-formed terms: one for each check of `fieldsAccepted` -/

def fA : FmtA := ⟨1, false, 2, 3, false, 0⟩
def fE : FmtE := ⟨2, 4, 6, 8, 10⟩

theorem test_illformed_unused_fields :
    ([.iabs fA, .popc fA, .clz fA, .brev fA, .mov fA, .fclass fA, .rcp fA, .rsq fA, .sqrt fA, .ex2 fA, .lg2 fA, .sin fA, .cos fA, .tanh fA,
      .p2v fA, .v2p fA, .mzero fA, .mscl { fA with b := 0, n := true }, .frnd fA x0, .zpk fA { x0 with ty := 14 },
      .mxpk fA { x0 with ty := 13 }, .smov ⟨1, false, 64, 65⟩, .vote fA x0, .redx fA x0, .scan fA { x0 with sub := 1 }, .matchW fA x0,
      .cpy fE ⟨0, 0, false⟩, .cpyi fE ⟨0, 0, false⟩, .fill fE, .mld fE, .mldt fE, .seal fE, .waitb fE, .vrrun fE, .vract fE,
      .mvacc fA x0, .maccv { fA with b := 0, a := 9 } { x0 with sub := 1 }, .mma { fA with n := true } x0, .mloop fE ⟨0, 0, 1⟩,
      .bar 1 0 0 0, .arrive 1 0 0, .await 1 0 false] : List Instr).all (fun i => !i.wf) = true := by decide

theorem test_illformed_accepted_values :
    ([.imulh fA { x0 with ty := 2 }, .imin fA { x0 with sub := 1 }, .imax fA { x0 with rnd := 1 }, .imad fA { x0 with ty := 6 },
      .imadw fA { x0 with sat := true }, .bfi fA { x0 with nega := true }, .iset fA { x0 with sub := 8 }, .sel fA { x0 with sub := 16 },
      .lea fA { x0 with sub := 8 }, .ffma fA { x0 with rnd := 5 }, .fset fA { x0 with sub := 6 }, .frnd { fA with b := 0 } { x0 with rnd := 5 },
      .duadd fA x0, .dumul fA { x0 with ty := 9, rnd := 5 }, .dufma fA { x0 with ty := 8 }, .dumin fA { x0 with ty := 9, sat := true },
      .dumax fA { x0 with ty := 10, sub := 1 }, .duset fA { x0 with ty := 9, sub := 6 }, .cvt fA x0, .zpk { fA with b := 0 } x0, .zupk fA x0,
      .mxpk { fA with b := 0 } { x0 with ty := 12 }, .mxupk fA { x0 with ty := 13, rnd := 1 }, .fdot4 fA { x0 with ty := 10 },
      .idot4 fA { x0 with ty := 4, rnd := 1 }, .sshlImm ⟨1, false, 64, 32⟩, .sshrImm ⟨1, false, 64, 40⟩, .plop fA { x0 with sub := 16 },
      .shfl fA { x0 with sub := 4 }, .vote { fA with b := 0 } { x0 with sub := 5 }, .redx { fA with b := 0 } { x0 with sub := 12 },
      .scan { fA with b := 0 } { x0 with sub := 13 }, .matchW { fA with b := 0 } { x0 with sub := 2 },
      .mma fA { x0 with sub := 16 }, .mvacc { fA with b := 0 } { x0 with sub := 8 }, .maccv { fA with b := 0, a := 1 } x0,
      .bra ⟨true, 0, 1⟩, .brc ⟨true, 0, 1⟩, .call ⟨true, 0, 1⟩] : List Instr).all (fun i => !i.wf) = true := by decide

theorem test_illformed_memory_and_control :
    ([.ld ⟨0, 8, 9, 0, 0, 4⟩, .ld ⟨0, 8, 0, 2, 0, 4⟩, .ld ⟨0, 8, 0, 0, 0, 7⟩, .st ⟨0, 8, 0, 1, 0, 4⟩,
      .st ⟨0, 8, 0, 0, 0, 1⟩, .atom ⟨0, 8, 9, 0, 0, 0⟩, .cas ⟨0, 8, 0, 0, 0, 6⟩, .post ⟨0, 8, 0, 0, 0, 13⟩, .post ⟨0, 8, 0, 1, 0, 0⟩,
      .migrate ⟨1, 8, 0, 0, 0, 0⟩, .migrateOne ⟨0, 8, 0, 0, 0, 0⟩, .home ⟨0, 8, 0, 0, 0, 1⟩, .ldt ⟨0, 8, 0, 0, 0, 3⟩, .stt ⟨0, 8, 0, 1, 0, 0⟩,
      .vrset fE ⟨false, false, 0, false, 5⟩, .vrset fE ⟨true, true, 1, false, 0⟩, .vrset fE ⟨false, false, 0, false, 0⟩,
      .mst fE ⟨false, false, false, false, 6, false, false, 0, false, 8, 0⟩,
      .mst fE ⟨false, false, false, false, 0, false, false, 0, false, 8, 0⟩, .mst fE ⟨false, false, false, false, 5, true, true, 0, false, 8, 0⟩] : List Instr).all (fun i => !i.wf) = true := by decide

/-! ## A small machine: one group of one path on core 0 of stack 0, its code at address 0 -/

/-- A translation that maps the lowest 16 GiB to themselves, every access permitted. -/
def leaf : TlbEntry := ⟨0, 0, 34, 0x33F⟩

/-- A translation of the next 16 GiB to the DRAM of stack 1. -/
def leafAway : TlbEntry := ⟨0, 1, 34, 0x4000000033F⟩

def nop : Word := 0xEE000005

/-- A path of lane 0 three words before the end of its clause of class 5. -/
def path1 : Path := { freePath with
  v := true
  pc := 4
  mask := 1
  clause := some ⟨0, 5, 0, 0, 0xFF, [nop, nop, nop], []⟩ }

def ctx1 : Ctx := { birthCtx with
  team := 2
  launch := 1
  user := true
  lanes := 1
  paths := path1 :: List.replicate 7 freePath
  place := .active }

def launch1 : Launch := ⟨.queue 0 0, 0, 0, 1, 0, 0, 0, true, .running, 0, 0, true, false, blankDesc, 0, 0, 0, 1, 0, false, false, 0, 0, 0⟩

def team1 : Team := ⟨1, 0, 0, 0, 0, 0, false, 0, 2, [], 1, [0], [], [], [], [], [], [], none⟩

/-- Clauses of one EXIT with header 0xF868_0000 at 0x10 and 0x18, and a jump table at 0x20 with one entry, 0x10, and the join 0x18. -/
def code1 : List Host.Cell := [(18, 0x68), (19, 0xF8), (20, 4), (23, 0xEE), (26, 0x68), (27, 0xF8), (28, 4), (31, 0xEE), (32, 1), (36, 0x18), (40, 0x10)]

/-- The machine with the group as `c`. -/
def st (c : Ctx) : State := { State.reset with
  mem := code1
  launches := [(1, launch1)]
  teams := [(2, team1)]
  ctxs := [(3, c)]
  cores := [(0, { Core.reset with tlb := [leaf, leafAway] })]
  cursor := ⟨3, 0, false, 0, none⟩
  nextId := 4 }

def env (c : Ctx) (p : Path) : Env := ⟨st c, 3, c, 0, p, false⟩

def s1 : State := st ctx1
def e1 : Env := env ctx1 path1

/-- A next state that satisfies `f`. -/
def after (o : Host.Outcome State Fault Refusal) (f : State → Bool) : Bool :=
  match o with
  | .next t => f t
  | _ => false

theorem issuer1 : s1.issuer = some e1 := rfl

/-- The one lane of the path. -/
theorem lane0 {l : Nat} (h : (1#64).getLsbD l = true) : l = 0 := by
  by_contra hl
  rw [BitVec.getLsbD_one] at h
  simp [hl] at h

theorem lane_of {m : Mask} {l : Nat} (hm : m = 1) (h : m.getLsbD l = true) : l = 0 := by subst hm; exact lane0 h

theorem ok_of {ε α : Type} {x : Except ε α} {a : α} (h : x.toOption = some a) : x = .ok a := by
  cases x with
  | error e => cases h
  | ok b => exact congrArg Except.ok (Option.some.inj h)

theorem pair_ok {σ ε α : Type} {p : σ × Except ε α} {a : α} (h : p.2.toOption = some a) : p = (p.1, .ok a) := Prod.ext rfl (ok_of h)

/-! ## Arithmetic, floating, cross-lane and scalar words -/

def fP : FmtA := ⟨1, false, 2, 3, false, 0⟩

theorem test_hyps_IntegerAndBitWordsComplete : s1.issuer = some e1 ∧ Ready2 e1 fA false .i32 .i32 ∧ Ready1 e1 fA false .i32 := by
  refine ⟨rfl, ?_, ?_⟩ <;> (try simp only [Ready1, Ready2, Writable, Readable, NoDead]) <;> decide +kernel

theorem test_hyps_BitFieldWordsComplete : s1.issuer = some e1 ∧ Ready2 e1 fA false .i32 .i32 ∧ Ready3 e1 fA { x0 with sc := 4 } false .i32 .i32 .i32 := by
  refine ⟨rfl, ?_, ?_⟩ <;> (try simp only [Ready2, Ready3, Writable, Readable, NoDead]) <;> decide +kernel

theorem test_hyps_TypedIntegerWordsComplete : s1.issuer = some e1 ∧ (x0.ty = 0 ∨ x0.ty = 1) ∧ Ready2 e1 fA false .i32 .i32 ∧
    Ready3 e1 fA x0 false .i32 .i32 .i32 ∧ Ready3 e1 { fA with d := 4 } x0 true .i32 .i32 .i64 := by
  refine ⟨rfl, ?_, ?_, ?_, ?_⟩ <;> (try simp only [Ready2, Ready3, Writable, Readable, NoDead]) <;> decide +kernel

theorem test_hyps_CompareSelectAndPredicateWordsComplete : s1.issuer = some e1 ∧ ReadyP e1 fA .i32 ∧
    (({ x0 with ty := 7, sub := 7 } : FmtX).ty = 6 ∨ ({ x0 with ty := 7, sub := 7 } : FmtX).ty = 7) ∧ ReadyP e1 ⟨7, false, 2, 4, false, 1⟩ .i64 ∧
    Ready2 e1 fA false .i32 .i32 ∧ (fA.d.toNat < 8 ∧ fA.a.toNat < 8 ∧ fA.b.toNat < 8) ∧
    (Writable e1 false fA.d ∧ Readable e1 .i32 fA.a ∧ NoDead e1 (e1.active fA) (srcRegs .i32 fA.a.toNat)) := by
  refine ⟨rfl, ?_, ?_, ?_, ?_, ?_, ?_⟩ <;> (try simp only [Ready2, ReadyP, Writable, Readable, NoDead]) <;> decide +kernel

/-- The group with four windows, so that v32 and above are not allocated. -/
def ctx4 : Ctx := { ctx1 with walloc := 4 }
def e4 : Env := env ctx4 path1

theorem active1 : e1.active fA = 1 := by decide +kernel
theorem active4 : e4.active fA = 1 := by decide +kernel

theorem test_hyps_MoveWordsComplete : s1.issuer = some e1 ∧ (Writable e1 false 1 ∧ NoDead e1 e1.lanes [1]) ∧
    (Readable e1 .i32 fA.a ∧ fA.b.toNat < 64 ∧ e1.c.unalloc fA.b.toNat = false ∧
      (∀ l, (e1.active fA).getLsbD l = true →
        e1.c.unalloc (fA.b.toNat + (opnd e1 fA.a l).toNat) = false ∧ fA.b.toNat + (opnd e1 fA.a l).toNat ∉ e1.longDst) ∧
      NoDead e1 (e1.active fA) (srcRegs .i32 fA.a.toNat ++ (lanesOf (e1.active fA)).map fun l => fA.b.toNat + (opnd e1 fA.a l).toNat)) ∧
    Ready2 e1 ⟨2, false, 4, 6, false, 0⟩ true .i64 .i32 := by
  refine ⟨rfl, ?_, ⟨?_, ?_, ?_, ?_, ?_⟩, ?_⟩
  · simp only [Writable, NoDead]; decide +kernel
  · simp only [Readable]; decide +kernel
  · decide
  · decide +kernel
  · intro l h
    obtain rfl := lane_of active1 h
    decide +kernel
  · simp only [NoDead]; decide +kernel
  · simp only [Ready2, Writable, Readable, NoDead]; decide +kernel

theorem issuer4 : (st ctx4).issuer = some e4 := rfl

/-- The clauses of the computed registers: v1 + A is allocated in `e1`; v1 + A and v3 + A with A = -1 lie above v31 in `e4`. -/
theorem test_hyps_ComputedRegisterMoves : Writable e1 false fA.d ∧ Readable e1 .i32 fA.a ∧ Readable e1 .i32 fA.b ∧
    NoDead e1 (e1.active fA) (srcRegs .i32 fA.a.toNat ++ srcRegs .i32 fA.b.toNat) ∧
    (∀ l, (e1.active fA).getLsbD l = true → e1.c.unalloc (fA.d.toNat + (opnd e1 fA.a l).toNat) = false) ∧
    (∃ l, (e4.active fA).getLsbD l = true ∧ e4.c.unalloc (fA.d.toNat + (opnd e4 (111 : BitVec 7) l).toNat) = true) ∧
    (∃ l, (e4.active fA).getLsbD l = true ∧ e4.c.unalloc (fA.b.toNat + (opnd e4 (111 : BitVec 7) l).toNat) = true) := by
  refine ⟨?_, ?_, ?_, ?_, ?_, ⟨0, ?_⟩, ⟨0, ?_⟩⟩
  case refine_5 =>
    intro l h
    obtain rfl := lane_of active1 h
    decide +kernel
  all_goals first | (simp only [Writable, Readable, NoDead]; decide +kernel) | decide +kernel

/-- A path whose clause has loaded v4 to v7, and the load is under way: 4 + 0 and 4 + 1 are late. -/
def pathLate : Path := { path1 with clause := some ⟨0, 5, 0, 0, 0xFF, [nop, nop, nop], [(4, 9), (5, 9)]⟩ }
def ctxLate : Ctx := { ctx1 with paths := pathLate :: List.replicate 7 freePath }
def stLate : State := { st ctxLate with accs := [⟨9, 3, 0, .load, 5, [⟨0, 0x100, 8, 4, 0, 0, 0x101, 0, false⟩], some 0, false, none, false, 0⟩] }
def eLate : Env := ⟨stLate, 3, ctxLate, 0, pathLate, false⟩

theorem test_hyps_ComputedRegisterLate : stLate.issuer = some eLate ∧ eLate.longDst = [4, 5] ∧ Readable eLate .i32 fA.b ∧
    (eLate.active { fA with b := 4 }).getLsbD 0 = true ∧ 4 + (opnd eLate fA.a 0).toNat ∈ eLate.longDst ∧ eLate.c.unalloc 4 = false := by
  refine ⟨rfl, ?_, ?_, ?_, ?_, ?_⟩ <;> (try simp only [Readable]) <;> decide +kernel

theorem test_hyps_FloatingWordsComplete : s1.issuer = some e1 ∧ Ready2 e1 fA false .f32 .f32 ∧ Ready3 e1 fA x0 false .f32 .f32 .f32 ∧
    Ready1 e1 fA false .f32 ∧ Ready2 e1 fA false .f32 .i32 ∧ ReadyP e1 fA .f32 := by
  refine ⟨rfl, ?_, ?_, ?_, ?_, ?_⟩ <;> (try simp only [Ready1, Ready2, Ready3, ReadyP, Writable, Readable, NoDead]) <;> decide +kernel

theorem test_hyps_PackedWordsComplete : s1.issuer = some e1 ∧ ((9 : BitVec 5) = 9 ∨ (9 : BitVec 5) = 10) ∧ Ready2 e1 fA false (.p16 9) (.p16 9) ∧
    Ready3 e1 fA { x0 with ty := 9 } false (.p16 9) (.p16 9) (.p16 9) ∧ ReadyP e1 fA (.p16 9) := by
  refine ⟨rfl, ?_, ?_, ?_, ?_⟩ <;> (try simp only [Ready2, Ready3, ReadyP, Writable, Readable, NoDead]) <;> decide +kernel

/-- s64 from FP32 (a pair), BF16 from FP32, E4M3 from FP32 in the high half. -/
theorem test_hyps_ConversionWordsComplete : s1.issuer = some e1 ∧
    (32 ≤ elemBits 6 ∧ elemBits 6 = 64 ∧ Ready1 e1 { fA with d := 4 } true (cvtPos 8)) ∧
    (elemBits 9 < 32 ∧ Ready2 e1 fA false (cvtPos 8) (cvtPos 8)) ∧ (elemBits 11 = 8 ∧ NoDead e1 (e1.active fA) [fA.d.toNat]) := by
  refine ⟨rfl, ?_, ?_, ?_⟩ <;> (try simp only [Ready1, Ready2, Writable, Readable, NoDead]) <;> decide +kernel

/-- A group of 32 lanes, its one path of lane 0. -/
def ctx32 : Ctx := { ctx1 with width := 32 }
def e32 : Env := env ctx32 path1

theorem test_hyps_BlockPackWordsComplete : (st ctx32).issuer = some e32 ∧ (∀ l, (e32.active fA).getLsbD l = true → l < e32.c.width) ∧
    e32.c.width = 32 ∧ Ready1 e32 fA false .f32 ∧ Ready2 e32 fA false .i32 .i32 := by
  refine ⟨rfl, ?_, rfl, ?_, ?_⟩
  · intro l h
    have hm : e32.active fA = 1 := by decide +kernel
    obtain rfl := lane_of hm h
    decide
  all_goals simp only [Ready1, Ready2, Writable, Readable, NoDead]; decide +kernel

theorem test_hyps_DotWordsComplete : s1.issuer = some e1 ∧ Ready3 e1 fA { x0 with ty := 12 } false (.f8 12) (.f8 12) .f32 ∧
    Ready3 e1 fA { x0 with ty := 4 } false (.i8 4) (.i8 4) .i32 := by
  refine ⟨rfl, ?_, ?_⟩ <;> (try simp only [Ready3, Writable, Readable, NoDead]) <;> decide +kernel

theorem test_hyps_SpecialFunctionWordsComplete : s1.issuer = some e1 ∧ Ready1 e1 fA false .f32 := by
  refine ⟨rfl, ?_⟩
  simp only [Ready1, Writable, Readable, NoDead]
  decide +kernel

/-- Codes of the two general clauses: a negative finite value and a NaN. -/
theorem test_hyps_SpecialFunctionsOfSpecialInputs : fDecode 8 0xC0000000 = .fin true 0x800000 (-22) ∧ fDecode 8 0x7FC00001 = .nan := by
  decide +kernel

theorem test_hyps_FsetComparesNumbers : fDecode 8 0x7FC00001 = .nan ∧ finite (fDecode 8 0x80000000) = true ∧ finite (fDecode 8 0x3F800000) = true := by
  decide +kernel

theorem test_hyps_CrossLaneWordsComplete : s1.issuer = some e1 ∧
    (Writable e1 true ⟨4, by decide⟩ ∧ Readable e1 .i64 2 ∧ Readable e1 .i32 3 ∧ NoDead e1 (e1.active fA) (srcRegs .i64 2 ++ srcRegs .i32 3)) ∧
    Ready1 e1 fA false .i32 ∧ NoDead e1 (e1.active fA) (srcRegs .i64 2) := by
  refine ⟨rfl, ?_, ?_, ?_⟩ <;> (try simp only [Ready1, Writable, Readable, NoDead]) <;> decide +kernel

theorem test_hyps_ReductionsAndScansComplete : s1.issuer = some e1 ∧ Ready1 e1 fA false .i32 ∧ Ready1 e1 fA false .f32 := by
  refine ⟨rfl, ?_, ?_⟩ <;> (try simp only [Ready1, Writable, Readable, NoDead]) <;> decide +kernel

/-- V2S with its lane active, and with none active (predicate p1 false everywhere). -/
theorem test_hyps_VectorToScalarCompletes : s1.issuer = some e1 ∧ Readable e1 .i32 2 ∧ ScalarReadable e1 66 ∧
    NoDead e1 (e1.active ⟨1, false, 2, 66, false, 0⟩) (srcRegs .i32 2) ∧ e1.active ⟨1, false, 2, 66, false, 0⟩ ≠ 0 ∧
    NoDead e1 (e1.active ⟨1, false, 2, 66, false, 1⟩) (srcRegs .i32 2) ∧ e1.active ⟨1, false, 2, 66, false, 1⟩ = 0 := by
  refine ⟨rfl, ?_, ?_, ?_, ?_, ?_, ?_⟩ <;> (try simp only [ScalarReadable, Readable, NoDead]) <;> decide +kernel

theorem test_hyps_ScalarWordsComplete : s1.issuer = some e1 ∧ (31 : BitVec 6).toNat < 32 ∧ ScalarReadable e1 64 ∧ ScalarReadable e1 105 := by
  refine ⟨rfl, ?_, ?_, ?_⟩ <;> (try simp only [ScalarReadable]) <;> decide +kernel

/-! ## Control words -/

theorem test_hyps_BranchWordsComplete : s1.issuer = some e1 ∧ e1.lanes ≠ 0 ∧
    TargetsOk e1 (((lanesOf e1.lanes).filter (takes e1 ⟨false, 0, 5⟩)).map fun l => (l, 0x18, false)) ∧ e1.c.freePaths ≠ [] ∧
    PushOk e1 ((lanesOf e1.lanes).filter (takes e1 ⟨false, 0, 5⟩)) := by
  refine ⟨rfl, ?_, ?_, ?_, ?_⟩ <;> (try simp only [TargetsOk, PushOk]) <;> decide +kernel

/-- The group with 0x10 on the return stack of its lane, the jump table in s2, and a loop whose body ends at 0x18. -/
def ctx5 : Ctx := { ctx1 with
  rstack := [(0, [0x10])]
  sregs := [(2, 0x20)]
  vregs := [(2 * 64, 0x18)]
  loops := [⟨5, 4, 4⟩] }
def e5 : Env := env ctx5 path1

/-- BRX and CALLR to 0x18 by v2, RET to 0x10, LBRK to 0x18. -/
theorem test_hyps_ComputedJumpWordsComplete : (st ctx5).issuer = some e5 ∧ e5.lanes ≠ 0 ∧
    (Readable e5 .i32 2 ∧ NoDead e5 e5.lanes (srcRegs .i32 2) ∧ TargetsOk e5 ((lanesOf e5.lanes).map fun l => (l, (opnd e5 2 (actor e5 l)).toNat, false)) ∧
      RoomFor e5 (fun l => ((opnd e5 2 (actor e5 l)).toNat, false)) ∧ PushOk e5 (lanesOf e5.lanes)) ∧
    ((∀ l ∈ lanesOf e5.lanes, stackOf e5 l ≠ []) ∧
      TargetsOk e5 ((lanesOf e5.lanes).map fun l => (l, e5.c.top (actor e5 l) / 4 * 4, nbit (e5.c.top (actor e5 l)) 0)) ∧
      RoomFor e5 (fun l => (e5.c.top (actor e5 l) / 4 * 4, nbit (e5.c.top (actor e5 l)) 0))) ∧
    e5.c.loops.getLast? = some ⟨5, 4, 4⟩ := by
  refine ⟨rfl, ?_, ⟨?_, ?_, ?_, ?_, ?_⟩, ⟨?_, ?_, ?_⟩, ?_⟩ <;>
    (try simp only [Readable, NoDead, TargetsOk, RoomFor, PushOk]) <;> decide +kernel

/-- JMPT through the table at 0x20 with v3 = 0, its one entry 0x10. -/
theorem test_hyps_ComputedJumpWordsComplete_jmpt : Readable e5 .i32 3 ∧ ScalarReadable e5 66 ∧ NoDead e5 e5.lanes (srcRegs .i32 3) ∧
    (e5.s.codeWords e5.c [0x20, 0x24]).2.toOption = some [1, 0x18] ∧
    (((e5.s.codeWords e5.c [0x20, 0x24]).1).codeWords e5.c [0x28]).2.toOption = some [0x10] ∧
    TargetsOk { e5 with s := (((e5.s.codeWords e5.c [0x20, 0x24]).1).codeWords e5.c [0x28]).1 } [(0, 0x10, false)] ∧
    RoomFor e5 (fun _ => (0x10, false)) ∧ PushOk e5 [0] := by
  refine ⟨?_, ?_, ?_, ?_, ?_, ?_, ?_, ?_⟩ <;>
    (try simp only [Readable, ScalarReadable, NoDead, TargetsOk, RoomFor, PushOk]) <;> decide +kernel

/-- The group with a full return stack; and as it is after ELECT of its path. -/
def ctx64 : Ctx := { ctx1 with rstack := [(0, List.replicate 64 0x10)] }
def ctxLed : Ctx := { ctx1 with leader := some 0 }

theorem test_hyps_ControlWordsTrap : (s1.issuer = some e1 ∧ e1.p.mask.getLsbD 0 = true ∧ e1.c.depth 0 = 0 ∧ e1.c.loops = [] ∧ e1.c.leader = none) ∧
    ((st ctx64).issuer = some (env ctx64 path1) ∧ (env ctx64 path1).p.mask.getLsbD 0 = true ∧ 64 ≤ (env ctx64 path1).c.depth 0) ∧
    ((st ctxLed).issuer = some (env ctxLed path1) ∧ ctxLed.leader = some 0 ∧ ctxLed.leaderPath = (env ctxLed path1).e) := by
  refine ⟨⟨rfl, ?_, ?_, rfl, rfl⟩, ⟨rfl, ?_, ?_⟩, rfl, rfl, rfl⟩ <;> decide +kernel

/-- LOOP with body end 0x18 (a header, inside the open body), 0x14 (no header) and, where a body ends at 0x10, outside it. -/
theorem test_hyps_LoopWordCompletes : (st ctx5).issuer = some e5 ∧ ScalarReadable e5 66 ∧ e5.p.nextHeader = 0x10 ∧ e5.c.loops.length < 3 ∧
    (e5.s.codeWord e5.c 0x18).2.toOption = some 0xF8680000 ∧ isHeader 0xF8680000 = true ∧
    (e5.c.loops.getLast? = some ⟨5, 4, 4⟩ ∧ 4 ≤ 0x10 ∧ 0x18 ≤ LoopLevel.fin ⟨5, 4, 4⟩) ∧
    ((e5.s.codeWord e5.c 0x14).2.toOption = some 0xEE000004 ∧ isHeader 0xEE000004 = false) ∧ ¬ 0x18 ≤ LoopLevel.fin ⟨5, 4, 2⟩ ∧
    3 ≤ ([⟨5, 4, 9⟩, ⟨5, 4, 8⟩, ⟨5, 4, 4⟩] : List LoopLevel).length := by
  refine ⟨rfl, ?_, ?_, ?_, ?_, ?_, ?_, ?_, ?_, ?_⟩ <;> (try simp only [ScalarReadable]) <;> decide +kernel

/-- Within two regions; with four windows of which two may go and four may come; on a core whose windows are all but gone. -/
theorem test_hyps_GroupStateAndWindowWordsComplete : (s1.issuer = some e1 ∧ e1.c.leader = none ∧ e1.c.rdepth = 0) ∧
    (ctxLed.leader = some 0 ∧ ctxLed.leaderPath = 0) ∧ 0 < ({ ctx1 with rdepth := 2 } : Ctx).rdepth ∧
    ((st ctx4).issuer = some e4 ∧ 2 < e4.c.walloc ∧ e4.c.walloc + 4 ≤ 8 ∧ 4 * e4.c.gran ≤ (st ctx4).freeG e4.c.gc) ∧
    ({ st ctx4 with cores := [(0, { Core.reset with leaving := [(9, 9, 1531)] })] } : State).freeG e4.c.gc < 2 * e4.c.gran := by
  refine ⟨⟨rfl, rfl, rfl⟩, ⟨rfl, rfl⟩, ?_, ⟨rfl, ?_, ?_, ?_⟩, ?_⟩ <;> decide +kernel

/-! ## Memory words -/

/-- The probe of a word's lanes. -/
def probed (e : Env) (f : FmtM) (w : Want) (n : Nat) : State × List (Nat × Home) × List (Nat × Nat × Miss) :=
  e.s.probeLanes e.c w f.space.toNat (laneSectors (asked e f) n e.c.chainSec)

theorem allHere (e : Env) (f : FmtM) (w : Want) (n : Nat) (h : Nat × Option Nat)
    (h0 : (probed e f w n).2.2.isEmpty = true ∧ (probed e f w n).2.1.isEmpty = false ∧ e.c.atHome h = true ∧
      ((probed e f w n).2.1.all fun x => decide (x.2.spot = h)) = true ∧ ((probed e f w n).1.absentLines (probed e f w n).2.1 w.n).isEmpty = true ∧
      ((probed e f w n).1.core e.c.gc).preds.isEmpty = true) :
    AllHere e f w n (probed e f w n).1 (probed e f w n).2.1 := by
  obtain ⟨a, b, c, d, g, k⟩ := h0
  refine ⟨Prod.ext rfl (Prod.ext rfl (List.isEmpty_iff.1 a)), ?_, ⟨h, c, ?_⟩, List.isEmpty_iff.1 g, List.isEmpty_iff.1 k⟩
  · intro hb
    simp [hb] at b
  · intro x hx
    simpa using List.all_eq_true.1 d x hx

/-- v16, or a run from it, and the address in v8:v9 (0). -/
def fM : FmtM := ⟨16, 8, 0, 0, 0, 4⟩

theorem test_hyps_MemoryWordsIssueAtTheirHome : (s1.issuer = some e1 ∧ e1.addrDefects fM = [] ∧ Unheld e1 fM true true ∧ Unheld e1 fM false true) ∧
    (e1.runDefects 16 1 1 = [] ∧ NoDead e1 e1.lanes (srcRegs .i64 8) ∧
      AllHere e1 fM ⟨1, 4, true, true, false⟩ 1 (probed e1 fM ⟨1, 4, true, true, false⟩ 1).1 (probed e1 fM ⟨1, 4, true, true, false⟩ 1).2.1) ∧
    (e1.dataDefects 16 4 = [] ∧ NoDead e1 e1.lanes (srcRegs .i64 8 ++ stRegs 16 1) ∧
      AllHere e1 fM ⟨2, 4, true, true, false⟩ 1 (probed e1 fM ⟨2, 4, true, true, false⟩ 1).1 (probed e1 fM ⟨2, 4, true, true, false⟩ 1).2.1 ∧
      (((probed e1 fM ⟨2, 4, true, true, false⟩ 1).2.1.any fun x => isDoor x.2.ref 4) = true → s1.released e1.cid e1.c.ownChain = true)) := by
  refine ⟨⟨rfl, ?_, ?_, ?_⟩, ⟨?_, ?_, allHere _ _ _ _ (0, none) ?_⟩, ⟨?_, ?_, allHere _ _ _ _ (0, none) ?_, ?_⟩⟩ <;>
    (try simp only [Unheld, NoDead]) <;> decide +kernel

theorem test_hyps_MemoryWordsIssueAtTheirHome_atomic : regSize 4 = true ∧
    (e1.runDefects 16 (atomRegs 4) (atomRegs 4) = [] ∧ NoDead e1 e1.lanes (srcRegs .i64 8 ++ run 16 (atomRegs 4)) ∧
      AllHere e1 fM ⟨3, 4, false, false, false⟩ 1 (probed e1 fM ⟨3, 4, false, false, false⟩ 1).1 (probed e1 fM ⟨3, 4, false, false, false⟩ 1).2.1) ∧
    (e1.runDefects 16 2 2 = [] ∧ NoDead e1 e1.lanes (srcRegs .i64 8 ++ run 16 2)) ∧
    (e1.runDefects 16 (ldtRegs 0) 8 = [] ∧ NoDead e1 e1.lanes (srcRegs .i64 8 ++ run 16 8) ∧
      AllHere e1 fM ⟨1, 32, true, false, false⟩ 1 (probed e1 fM ⟨1, 32, true, false, false⟩ 1).1 (probed e1 fM ⟨1, 32, true, false, false⟩ 1).2.1 ∧
      AllHere e1 fM ⟨2, 32, true, false, false⟩ 1 (probed e1 fM ⟨2, 32, true, false, false⟩ 1).1 (probed e1 fM ⟨2, 32, true, false, false⟩ 1).2.1) := by
  refine ⟨?_, ⟨?_, ?_, allHere _ _ _ _ (0, none) ?_⟩, ⟨?_, ?_⟩, ⟨?_, ?_, allHere _ _ _ _ (0, none) ?_, allHere _ _ _ _ (0, none) ?_⟩⟩ <;>
    (try simp only [NoDead]) <;> decide +kernel

/-- The address in v8:v9 is at home in stack 1. -/
def ctxAway : Ctx := { ctx1 with vregs := [(9 * 64, 4)] }
def eAway : Env := env ctxAway path1
def wantMig : Want := ⟨0, 0, true, true, false⟩

theorem test_hyps_MigrateHomeAndPostWordsComplete : (s1.issuer = some e1 ∧ e1.addrDefects fM = [] ∧ Unheld e1 fM false true ∧ Unheld e1 fM false false ∧ NoDead e1 e1.lanes (srcRegs .i64 8)) ∧
    (e1.addrDefects { fM with space := 2 } = [] ∧ Unheld e1 { fM with space := 2 } false false) ∧
    ((e1.s.probeLanes e1.c wantMig 0 (asked e1 fM)).2.2.isEmpty = true ∧
      ((e1.s.probeLanes e1.c wantMig 0 (asked e1 fM)).2.1.map fun x => x.2.spot) = [(0, none)] ∧ e1.c.atHome (0, none) = true) ∧
    ((st ctxAway).issuer = some eAway ∧ eAway.addrDefects fM = [] ∧ Unheld eAway fM false true ∧ NoDead eAway eAway.lanes (srcRegs .i64 8) ∧
      (eAway.s.probeLanes eAway.c wantMig 0 (asked eAway fM)).2.2.isEmpty = true ∧
      ((eAway.s.probeLanes eAway.c wantMig 0 (asked eAway fM)).2.1.map fun x => x.2.spot) = [(1, none)] ∧ eAway.c.atHome (1, none) = false ∧
      eAway.c.chain = [] ∧ eAway.c.place = .active ∧ (∀ k ∈ eAway.c.validPaths, (eAway.c.path k).wait ≠ .matrix) ∧ isRelease fM.order = false) ∧
    e1.dstDefects false 16 = [] := by
  refine ⟨⟨rfl, ?_, ?_, ?_, ?_⟩, ⟨?_, ?_⟩, ⟨?_, ?_, ?_⟩, ⟨rfl, ?_, ?_, ?_, ?_, ?_, ?_, rfl, rfl, ?_, ?_⟩, ?_⟩ <;>
    (try simp only [Unheld, NoDead]) <;> decide +kernel

/-- POST to a home in stack 1, sent and (under VISIT) kept. -/
theorem test_hyps_PostWordSends : eAway.dataDefects 16 4 = [] ∧ Unheld eAway fM false false ∧ NoDead eAway eAway.lanes (srcRegs .i64 8 ++ stRegs 16 1) ∧ eAway.c.visit = false ∧
    (let w : Want := ⟨4, 4, postStores 0, false, true⟩
     let p := eAway.s.probeLanes eAway.c w 0 ((lanesOf eAway.lanes).map fun l => (l, eAway.addr fM l))
     p.2.2.isEmpty = true ∧ (p.1.core eAway.c.gc).preds.isEmpty = true ∧ p.2.1.map (fun x => x.2.gs) = [1] ∧ p.1.reaches 0 1 = true ∧
       p.1.canSend 0 1 (planeOf 0) = true) ∧
    ({ ctxAway with visit := true } : Ctx).visit = true := by
  refine ⟨?_, ?_, ?_, rfl, ?_, rfl⟩ <;> (try simp only [Unheld, NoDead]) <;> decide +kernel

/-! ## Engine words -/

theorem team_of (c : Ctx) : (st c).team? 2 = some team1 := rfl

/-- s2 holds what its even-numbered pair and its count need; s4 the batch number 1, which only a team with a sealed batch has. -/
def ctxE : Ctx := { ctx1 with sregs := [(2, 0x100000), (4, 1)] }
def eE : Env := env ctxE path1

theorem test_hyps_CopyWordsIssue_unwatched : Unwatched (st ctxE) eE := ⟨by decide +kernel, fun _ => rfl⟩

theorem test_hyps_CopyWordsIssue : (st ctxE).issuer = some eE ∧ EngineFree eE false ∧ (st ctxE).team? eE.c.team = some team1 ∧ team1.saved = none ∧
    (fE.ea.toNat % 2 = 0 ∧ fE.eb.toNat % 2 = 0 ∧ fE.ec.toNat % 2 = 0 ∧ fE.ed.toNat % 2 = 0) := by
  refine ⟨rfl, ?_, rfl, rfl, ?_⟩ <;> (try simp only [EngineFree]) <;> decide +kernel

/-- SEAL with a batch to spare and with fifteen sealed; WAITB of 1 with 0 sealed, with 1 sealed and done, and with 1 sealed. -/
theorem test_hyps_CopyAndBatchWordsComplete : (st ctxE).acquiring eE.cid = false ∧ (eE.sreg 4).toNat = 1 ∧
    (let b : Batch := Batch.empty
     b.last - b.done < 15 ∧ b.last < 1) ∧ (15 ≤ (⟨0, 17, 2, []⟩ : Batch).last - (⟨0, 17, 2, []⟩ : Batch).done) ∧
    (1 ≤ (⟨0, 1, 1, []⟩ : Batch).last ∧ 1 ≤ (⟨0, 1, 1, []⟩ : Batch).done) ∧ (1 ≤ (⟨0, 1, 0, []⟩ : Batch).last ∧ (⟨0, 1, 0, []⟩ : Batch).done < 1) ∧
    mget ({ team1 with batches := [(batchKey 0 0, ⟨0, 1, 0, []⟩)] } : Team).batches (batchKey eE.c.gidx eE.issuingLane) Batch.empty = ⟨0, 1, 0, []⟩ := by
  decide +kernel

/-- The machine with its launch in a kernel with .quad, of a team with a matrix slot. -/
def stQ (c : Ctx) : State := { st c with
  launches := [(1, { launch1 with desc := { blankDesc with quad := true } })]
  teams := [(2, { team1 with mslots := [(0, 0)], groups := 4, left := [0, 1, 2, 3] })] }
def envQ (c : Ctx) (p : Path) : Env := ⟨stQ c, 3, c, 0, p, false⟩
def eQ : Env := envQ ctxE path1

/-- The format word of BF16 with TB, 0x0010_0000 (19 Table 19-13), is valid. -/
theorem test_hyps_TileWordsIssue : ((stQ ctxE).issuer = some eQ ∧ EngineFree eQ true ∧ ((stQ ctxE).team? eQ.c.team).isSome = true ∧ eQ.quadDefect = []) ∧
    (fE.eb.toNat % 2 = 0 ∧ (stQ ctxE).captures eQ.c.gc < 16) ∧
    (eQ.tileRunDefects 16 (partRegs eQ.c.width) = [] ∧ NoDead eQ (eQ.active fA) (run 16 (partRegs eQ.c.width))) ∧
    (eQ.srcDefects .i32 66 = [] ∧ NoDead eQ (eQ.active fA) (srcRegs .i32 66) ∧ eQ.active fA = 1 ∧ eQ.read .i32 66 0 = 0x100000 ∧ fwDefect 0x100000 = []) ∧
    (eQ.srcDefects .f32 2 = [] ∧ NoDead eQ (eQ.active fA) (srcRegs .f32 2)) := by
  refine ⟨⟨rfl, ?_, rfl, ?_⟩, ?_, ⟨?_, ?_⟩, ⟨?_, ?_, ?_, ?_, ?_⟩, ⟨?_, ?_⟩⟩ <;> (try simp only [EngineFree, NoDead]) <;> decide +kernel

/-- A path at `mma.ovw acc1, v0, v32, s2`, and the same path as it waits. -/
def pathM : Path := { path1 with clause := some ⟨0, 3, 0, 0, 0xFF, [0xD0080200, 0x84000000, nop], []⟩ }
def ctxM : Ctx := { ctxE with paths := pathM :: List.replicate 7 freePath }
def eM : Env := envQ ctxM pathM

/-- A second group of the quad at the same word, waiting, with its own format word. -/
def ctxN (w : Word) : Ctx := { ctxM with
  gidx := 1
  sregs := [(2, w)]
  paths := { pathM with wait := .matrix } :: List.replicate 7 freePath }
def stN (w : Word) : State := { stQ ctxM with ctxs := [(3, ctxM), (4, ctxN w)] }
def eN (w : Word) : Env := ⟨stN w, 3, ctxM, 0, pathM, false⟩

/-- The one group of a quad whose others have exited meets alone; with a second group that does not wait it waits; with a second group of
another format the words disagree. -/
theorem test_hyps_CollectiveWordsMeet : ((stQ ctxM).issuer = some eM ∧ EngineFree eM true ∧ eM.quadDefect = [] ∧ eM.c.atMeeting = false ∧
      eM.s.entries eM.c.gc + 4 ≤ 64) ∧
    (eM.tileRunDefects 0 (imageRegs eM.c.width) = [] ∧ eM.tileRunDefects 32 (imageRegs eM.c.width) = [] ∧ eM.srcDefects .i32 66 = [] ∧
      NoDead eM (eM.active fA) (run 0 32 ++ run 32 32 ++ srcRegs .i32 66) ∧ eM.active fA = 1 ∧ eM.read .i32 66 0 = 0x100000 ∧
      fwDefect 0x100000 ++ fadeDefect 0x100000 0 = []) ∧
    (1 ≤ eM.sval 4 ∧ eM.sval 4 ≤ 2 ^ 24 ∧ fwDefect (eM.sval 2) ++ fadeDefect (eM.sval 2) 0 = []) ∧
    ((bidsOf (stQ ctxM) eM).length = (liveOf (stQ ctxM) eM).length ∧ (bidsOf (stQ ctxM) eM).length = 1 ∧
      (bidsOf (stQ ctxM) eM).all (atMeeting (stQ ctxM) eM).bidReady = true) ∧
    ((bidsOf (stN 0x180000) (eN 0x180000)).length = 2 ∧ (liveOf (stN 0x180000) (eN 0x180000)).length = 2 ∧
      (bidsOf (stN 0x180000) (eN 0x180000)).all (atMeeting (stN 0x180000) (eN 0x180000)).bidReady = true ∧
      agreed ((bidsOf (stN 0x180000) (eN 0x180000)).map (·.fmt)) = none) ∧
    (bidsOf { stN 0 with ctxs := [(3, ctxM), (4, { ctxM with gidx := 1 })] } ⟨{ stN 0 with ctxs := [(3, ctxM), (4, { ctxM with gidx := 1 })] }, 3, ctxM, 0, pathM, false⟩).length = 1 := by
  refine ⟨⟨rfl, ?_, ?_, ?_, ?_⟩, ⟨?_, ?_, ?_, ?_, ?_, ?_, ?_⟩, ?_, ?_, ?_, ?_⟩ <;> (try simp only [EngineFree, NoDead]) <;> decide +kernel

theorem test_hyps_ValueRunWordsIssue : (st ctxE).issuer = some eE ∧ EngineFree eE true ∧ (st ctxE).team? eE.c.team = some team1 ∧
    (eE.sval 6 % 4 = 0 ∧ (2 : BitVec 5).toNat % 2 = 0) := by
  refine ⟨rfl, ?_, rfl, ?_⟩ <;> (try simp only [EngineFree]) <;> decide +kernel

/-! ## Barriers, joins, traps, system and debug words -/

/-- BAR and ARRIVE with the payload of v2; AWAIT with no arrival, with its arrival of generation 0 released, and with it still open. -/
theorem test_hyps_BarrierWordsComplete : s1.issuer = some e1 ∧ (s1.released 3 ctx1 = true ∧ s1.inGeneration 2 0 0 e1.p.mask = false ∧
      e1.srcDefects (payPos 1) 2 = [] ∧ NoDead e1 e1.lanes (srcRegs .i32 2) ∧ Writable e1 false 1) ∧ s1.acquiring 3 = false ∧
    mget ctx1.lastArr 0 0 = 0 ∧
    (let c : Ctx := { ctx1 with lastArr := [(0, 1)] }
     let u : State := { st c with teams := [(2, { team1 with bars := [(0, { BarRec.empty with gen := 1 })] })] }
     (lanesOf (env c path1).lanes).foldl (fun m l => max m (mget c.lastArr l 0)) 0 = 1 ∧ 1 ≤ u.barGen 2 0 ∧ (st c).barGen 2 0 < 1) := by
  refine ⟨rfl, ⟨?_, ?_, ?_, ?_, ?_⟩, ?_, ?_, ?_⟩ <;> (try simp only [NoDead, Writable]) <;> decide +kernel

/-- A translation of 16 GiB from 2^35 to the launch pages of stack 0, and a group with notify slot 0 of page 0 named by s6:s7. -/
def leafRegs : TlbEntry := ⟨0, 2, 34, 0x240000000FF⟩
def ctxJ : Ctx := { ctx1 with sregs := [(6, 0x10000000), (7, 8)] }
def stJ : State := { st ctxJ with cores := [(0, { Core.reset with tlb := [leaf, leafRegs] })] }
def eJ : Env := ⟨stJ, 3, ctxJ, 0, path1, false⟩
def compProbe : State × Except Miss (Nat × Nat) :=
  stJ.probeVa ⟨gsOf ctxJ.gc, some ctxJ.gc, ctxJ.pslot, ctxJ.user⟩ ⟨1, 8, true, true, false⟩ (pairOf eJ 70 + 16)

theorem test_hyps_JoinWordsComplete : s1.issuer = some e1 ∧ s1.acquiring 3 = false ∧ ({ ctx1 with splitPart := true } : Ctx).splitPart = true ∧
    (ctx1.splitPart = false ∧ ctx1.gc = ctx1.baseGc) ∧
    (let c : Ctx := { ctx1 with baseGc := 24 }
     c.gc ≠ c.baseGc ∧ c.leaving = none ∧ c.place = .active ∧ (∀ k ∈ c.validPaths, (c.path k).wait ≠ .matrix)) ∧
    (stJ.issuer = some eJ ∧ stJ.acquiring 3 = false ∧ IsPair 70 ∧ mget ctxJ.wslot (setSlot eJ) 0 < 255 ∧ pairOf eJ 70 % 1024 = 0 ∧
      compProbe.2.toOption.map (fun x => slotOfComp (paLoc (refPa x.1))) = some (some (0, 0))) := by
  refine ⟨rfl, ?_, rfl, ⟨rfl, rfl⟩, ?_, rfl, ?_, ?_, ?_, ?_, ?_⟩ <;> (try simp only [IsPair]) <;> decide +kernel

/-- A kernel with its handler at 0x10; within the handler with 0x10 to return to. -/
def ctxT : Ctx := { ctx1 with trap := 0x10 }
def ctxH : Ctx := { ctx5 with inHandler := true }

theorem test_hyps_TrapAndTretComplete_halting : (st ctxT).halting 3 = false := rfl

theorem test_hyps_TrapAndTretComplete : (st ctxT).issuer = some (env ctxT path1) ∧ Handled ctxT 0 ∧ ctxT.inHandler = false ∧
    ((st ctxH).issuer = some (env ctxH path1) ∧ ctxH.inHandler = true ∧ path1.mask ≠ 0 ∧
      (∀ l, path1.mask.getLsbD l = true → stackOf (env ctxH path1) l ≠ []) ∧
      TargetsOk (env ctxH path1) ((lanesOf path1.mask).map fun l => (l, ctxH.top l / 4 * 4, nbit (ctxH.top l) 0)) ∧
      RoomFor (env ctxH path1) (fun l => (ctxH.top l / 4 * 4, nbit (ctxH.top l) 0))) := by
  refine ⟨rfl, ⟨?_, rfl, rfl, ?_⟩, rfl, rfl, rfl, ?_, ?_, ?_, ?_⟩
  · decide
  · intro l h
    obtain rfl := lane0 h
    decide +kernel
  · decide
  · intro l h
    obtain rfl := lane0 h
    decide +kernel
  all_goals simp only [TargetsOk, RoomFor]; decide +kernel

theorem test_hyps_SystemWordsComplete_halt : ctx1.loops = [] ∧ e1.p.stopped = false ∧ ctx1.endsBody 0 (path1.pc + 4) = false := by decide +kernel

theorem test_hyps_SystemWordsComplete : s1.issuer = some e1 ∧ ((0x16 : BitVec 7).toNat < 0x17 ∧ Writable e1 (sysWide 0x16) 4) ∧
    (Readable e1 .i32 2 ∧ NoDead e1 e1.lanes (srcRegs .i32 2)) ∧ sysWide 2 = false ∧ mget (s1.stk 0).dmpSize 0 0 = 0 ∧
    mget (({ s1 with stks := [(0, { Stack.reset with dmpSize := [(0, 1)] })] } : State).stk 0).dmpSize 0 0 ≠ 0 ∧ e1.c.walloc = 8 ∧
    (e1.c.stop = none ∧ e1.p.stopped = false) := by
  refine ⟨rfl, ⟨?_, ?_⟩, ⟨?_, ?_⟩, ?_, ?_, ?_, rfl, rfl, rfl⟩ <;> (try simp only [Readable, Writable, NoDead]) <;> decide +kernel

/-- A debug agent: s4:s5 is the handle of place 1 of core 0, s6:s7 of place 2, s8:s9 a buffer at 0x1000, s10 a control word. -/
def ctxD : Ctx := { ctx1 with sregs := [(4, 0x40), (6, 0x80), (8, 0x1000)] }
/-- A halted group at place 1 and one that is not halted at place 2. -/
def haltedCtx : Ctx := { ctx1 with
  place := .pending
  slotNo := 1
  stop := some ⟨9, 0x82⟩ }
def stD (agent : Bool) : State := { st ctxD with
  launches := [(1, { launch1 with desc := { blankDesc with agent := agent } })]
  ctxs := [(3, ctxD), (4, haltedCtx), (5, { ctx1 with slotNo := 2 })] }
def eD (agent : Bool) : Env := ⟨stD agent, 3, ctxD, 0, path1, false⟩
def uD : State := ((eD true).target? 0x40).1

theorem target_halted : (eD true).target? (pairOf (eD true) 68) = (uD, some (4, haltedCtx)) := by
  refine Prod.ext rfl ?_
  decide +kernel

theorem test_hyps_DebugAgentWordsComplete_targets : (stD true).issuer = some (eD true) ∧ Targets (stD true) uD (eD true) 1 68 4 haltedCtx ∧
    ScalarReadable (eD true) 74 ∧ (sopnd (eD true) 74).toNat = 0 ∧ (haltedCtx.stepPath 0).isOk = true ∧ (haltedCtx.stepPath 2048).isOk = false := by
  refine ⟨rfl, ⟨?_, ?_, ?_, target_halted, ?_, ?_, ?_⟩, ?_, ?_, ?_, ?_⟩ <;> (try simp only [IsPair, ScalarReadable]) <;> decide +kernel

theorem test_hyps_DebugAgentWordsComplete_images : IsPair 72 ∧ pairOf (eD true) 72 % 64 = 0 ∧ mget (eD true).c.wslot (setSlot (eD true)) 0 < 255 ∧
    (uD.probeSpan ⟨0, some 0, 0, true⟩ ⟨2, 1, true, false, false⟩ 0x1000 (haltedCtx.rdctxBytes uD).length).2.isOk = true ∧
    ((stD true).cmds.all fun x => x.ctx ≠ 3) = true ∧
    (uD.probeSpan ⟨0, some 0, 0, true⟩ ⟨1, 1, true, false, false⟩ 0x1000 512).2.isOk = true := by
  refine ⟨?_, ?_, ?_, ?_, ?_, ?_⟩ <;> (try simp only [IsPair]) <;> decide +kernel

theorem test_hyps_DebugAgentWordsComplete_refusals : ((stD false).issuer = some (eD false) ∧ IsPair 68 ∧ (stD false).isAgent ctxD.launch = false) ∧
    (((eD true).target? 0x1000).2 = none) ∧
    ((((eD true).target? 0x80).2.map fun x => x.1) = some 5 ∧ ({ ctx1 with slotNo := 2 } : Ctx).halted = false) := by
  refine ⟨⟨rfl, ?_, ?_⟩, ?_, ?_⟩ <;> (try simp only [IsPair]) <;> decide +kernel

/-! ## Events of memory -/

/-- The last element of an access: four bytes at 0x100 of stack 0. -/
def elem1 : LaneAcc := ⟨0, 0x100, 4, 16, 0xAB, 0, 0x101, 0, false⟩
def acc1 (k : AccKind) : Access := ⟨7, 3, 0, k, 4, [elem1], some 0, false, none, false, 0⟩
def stAcc (k : AccKind) : State := { st { ctx1 with wslot := [(0, 1)] } with accs := [acc1 k] }

theorem test_hyps_AccessesPerform : (∀ k ∈ [AccKind.store, .load, .atom, .cas], LastElement (stAcc k) 7 (acc1 k) { ctx1 with wslot := [(0, 1)] } elem1) ∧
    ((0xFFFF : Mask).getLsbD 0 = true) ∧ (((stAcc .load).touchRow 0x100).decodeRead 0x100 4).2 = 0 := by
  simp only [LastElement]
  decide +kernel

/-- The launch records of stack 0, which ignore a write. -/
theorem test_hyps_Wrote : isRecord (refPa 0x20001B00000) = true ∧ isRecord (refPa 0x100) = false := by decide +kernel

theorem test_hyps_StoresTouchOnlyTheirCells : ((stAcc .store).accs.find? fun b => b.id = 7) = some (acc1 .store) ∧ (acc1 .store).kind = .store ∧
    (stAcc .store).ctx? 3 = some { ctx1 with wslot := [(0, 1)] } ∧ ctx1.step = none ∧
    (∀ x ∈ (acc1 .store).lanes, locKind (paGs (refPa x.pa)) (paLoc (refPa x.pa)) ≠ .regs ∧ ((stAcc .store).stk (paGs (refPa x.pa))).preds = []) ∧
    after (exec (.storePerform 7 0xFFFF) (stAcc .store)) (fun t => t.byte 0x100 = 0xAB) = true := by
  decide +kernel

/-- A post of four bytes to 0x100 of stack 1, as a store (op 0) and as an addition (op 1), under way; its acknowledgement; a group waiting for
a line that is present again. -/
def post1 (op : Nat) : PostMsg := ⟨2, 0, 0, 0, 1, 0, 0, 0, op, 0x40000000100, 5, 0, 0, 0⟩
def msg1 (op : Nat) : Msg := ⟨8, 0, 1, .post (post1 op), none, false, false, false⟩
def stMsg (op : Nat) : State := { st { ctx1 with anchor := 1, lineWait := [4] } with
  chan := [msg1 op]
  acks := [⟨9, 1, 2, 0, 0, 0, 0, false, false⟩] }

theorem test_hyps_PostEventsComplete : (∀ op ∈ [0, 1],
      ((stMsg op).chan.find? fun x => x.id = 8) = some (msg1 op) ∧ (stMsg op).headOf (msg1 op) = true ∧ (msg1 op).held = none ∧ (msg1 op).lost = false ∧
        (stMsg op).postAbsent (post1 op) (postBytes op) = false ∧ (stMsg op).refBusy (post1 op).pa = false ∧ (stMsg op).accs = [] ∧
        (stMsg op).postImage (post1 op) = none ∧ isHostRef (post1 op).pa = false ∧ ((stMsg op).stk 1).preds = [] ∧ paGs (refPa (post1 op).pa) = 1) ∧
    ((postStores 0 = true ∨ postStores 1 = true) ∧ (postStores 0 = false ∨ postStores 1 = false)) ∧
    (∀ op ∈ [0, 1], (((stMsg op).touchRow 0x40000000100).decodeRead 0x40000000100 4).2 = 0) ∧
    (((stMsg 0).acks.find? fun x => x.id = 9) = some ⟨9, 1, 2, 0, 0, 0, 0, false, false⟩ ∧ (stMsg 0).replyDue 1 0 9 = true ∧
      ((stMsg 0).ownerOf 2 0 0 0).map (·.1) = some 3 ∧ ({ ctx1 with anchor := 1, lineWait := [4] } : Ctx).standsOn 0 = true) ∧
    (∀ k ∈ ({ ctx1 with anchor := 1, lineWait := [4] } : Ctx).lineWait, mget (stMsg 0).absent k false = false) := by
  decide +kernel

/-- A path at the header at 0x10, at 0x14 (no header), and at a clause of class 0 that holds an EXIT. -/
def pathF (pc : Nat) : Path := { freePath with
  v := true
  pc := pc
  mask := 1 }
def ctxF (pc : Nat) : Ctx := { ctx1 with paths := pathF pc :: List.replicate 7 freePath }
def stF (pc : Nat) : State := st (ctxF pc)
def stBad : State := { stF 0x10 with mem := [(18, 0x40), (19, 0xF8), (20, 4), (23, 0xEE)] }

theorem test_hyps_FetchAndTranslationEventsComplete_fetch : (∀ pc ∈ [0x10, 0x14],
      (ctxF pc).runnable 0 = true ∧ (stF pc).frozen (ctxF pc) = false ∧ ((ctxF pc).path 0).clause = none ∧ (ctxF pc).parked = none ∧ (ctxF pc).depart = none ∧
        (ctxF pc).split = [] ∧ (ctxF pc).grow = 0 ∧ (ctxF pc).stop = none ∧ (ctxF pc).place = .active ∧ (ctxF pc).visits = [] ∧ (ctxF pc).slotFlags = []) ∧
    ((stF 0x14).codeWord (ctxF 0x14) 0x14).2.toOption.map isHeader = some false ∧
    (((stF 0x10).codeWord (ctxF 0x10) 0x10).2.toOption = some 0xF8680000 ∧ isHeader 0xF8680000 = true ∧ hdrN 0xF8680000 = 1 ∧
      (((stF 0x10).codeWord (ctxF 0x10) 0x10).1.codeWords (ctxF 0x10) [0x14]).2.toOption = some [0xEE000004] ∧
      clauseOk 16 0xF8680000 [0xEE000004] = true ∧ bits (0xF8680000 : Word).toNat 19 3 = 5 ∧ (ctxF 0x10).slotsZero 0 = true) ∧
    ((stBad.codeWord (ctxF 0x10) 0x10).2.toOption = some 0xF8400000 ∧ isHeader 0xF8400000 = true ∧ hdrN 0xF8400000 = 1 ∧
      clauseOk 16 0xF8400000 [0xEE000004] = false) := by
  decide +kernel

def inval1 : Inval := ⟨2, 0, 0, 0⟩

theorem test_hyps_FetchAndTranslationEventsComplete_xlat : (s1.lookup (gsOf 0) (some 0) 0 0x40).2.toOption = some leaf ∧
    ((s1.stk 0).invQueue.length < 9) ∧ 9 ≤ (List.replicate 9 inval1).length ∧
    (({ s1 with stks := [(0, { Stack.reset with invQueue := [inval1] })] } : State).stk 0).invQueue = [inval1] ∧ inval1.mark = 0 := by
  decide +kernel

/-! ## Migration and group events -/

/-- A group about to leave for another core, another stack, and another package not connected. -/
def ctxL (gs : Nat) (core : Option Nat) : Ctx := { ctx1 with depart := some ⟨.access, 0, gs, core⟩ }

/-- Two packages whose channels of plane 0 are up and know each other's incarnation. -/
def linkUp : Link := { Link.reset with trained := true, up := true }
def s2 : State := { s1 with pkgs := [
  (0, { Pkg.reset with peers := [(1, ⟨1, false⟩)], links := [(linkKey 0 1, linkUp)] }),
  (1, { Pkg.reset with peers := [(0, ⟨1, false⟩)], links := [(linkKey 0 0, linkUp)] })] }

theorem test_hyps_MigrationEventsComplete_depart : (∀ g ∈ [(0, some 1), (1, none), (16, none)],
      (st (ctxL g.1 g.2)).ctx? 3 = some (ctxL g.1 g.2) ∧ (st (ctxL g.1 g.2)).mayLeave 3 (ctxL g.1 g.2) 0 = true) ∧
    ((ctxL 0 (some 1)).fixExt.granules ≤ (st (ctxL 0 (some 1))).freeG 1 ∧ (st (ctxL 0 (some 1))).seats 1 < 64 ∧ (st (ctxL 0 (some 1))).traced 0 = false) ∧
    ((st (ctxL 1 none)).reaches 0 1 = true ∧ (ctxL 1 none).anchor = 0 ∧ (st (ctxL 1 none)).creditOk 0 1 ((ctxL 1 none).packUp 0).flits = true ∧
      (st (ctxL 1 none)).canSend 0 1 (planeOf 0) = true ∧ (st (ctxL 1 none)).traced 0 = false) ∧
    (st (ctxL 16 none)).reaches 0 16 = false := by
  decide +kernel

theorem test_hyps_MigrationEventsComplete_pool : (pkgOf 0 ≠ pkgOf 16 ∧ ((s2.stk 16).grants.any fun g => g.src = 0) = false ∧ ((s2.stk 16).offers.any fun o => o.1 = 0) = false ∧
      s2.reaches 0 16 = true) ∧
    (let u : State := { s2 with
       stks := [(16, { Stack.reset with offers := [(0, 8)] })]
       pkgs := [(0, s2.pkg 0), (1, { s2.pkg 1 with got := [(8, 1)] })] }
     ((u.stk 16).offers.find? fun o => u.handed o.1 16 o.2 1) = some (0, 8) ∧ (u.stk 16).grants.length < 95 ∧ u.reaches 16 0 = true) := by
  decide +kernel

/-- A context that lands in stack 1; its acknowledgement; the notice; the context landed; a context between two cores. -/
def ctxMoving : Ctx := { ctxL 1 none with place := .moving }
def stMoving : State := { st ctxMoving with
  chan := [⟨8, 0, 1, .context 3 24, none, false, false, false⟩]
  landAcks := [⟨9, 1, 3, 0, 8, ctxMoving⟩]
  notices := [⟨10, 2, 0, 1⟩] }
def ctxLanded : Ctx := { ctxL 1 none with place := .landed, gc := 24 }
def stLanded : State := { st ctxLanded with stks := [(1, { Stack.reset with landing := [(3, 0, 24)] })] }
def ctxCore : Ctx := { ctxL 0 (some 1) with place := .moving }

theorem test_hyps_MigrationEventsComplete_land : ((stMoving.chan.find? fun x => x.id = 8) = some ⟨8, 0, 1, .context 3 24, none, false, false, false⟩ ∧
      stMoving.ctx? 3 = some ctxMoving ∧ stMoving.headOf ⟨8, 0, 1, .context 3 24, none, false, false, false⟩ = true) ∧
    ((stMoving.landAcks.find? fun x => x.id = 9) = some ⟨9, 1, 3, 0, 8, ctxMoving⟩ ∧ stMoving.replyDue 1 0 9 = true) ∧
    ((stMoving.notices.find? fun y => y.id = 10) = some ⟨10, 2, 0, 1⟩ ∧ (stMoving.team? 2).isSome = true ∧
      (stMoving.notices.any fun y => y.gs = 1 && y.team = 2 && decide (y.id < 10)) = false ∧ stMoving.handed 1 0 10 1 = true) ∧
    (stLanded.ctx? 3 = some ctxLanded ∧ stLanded.landCore (gsOf ctxLanded.gc) ctxLanded = some 24 ∧ (stLanded.stk 1).landing = [(3, 0, 24)] ∧
      stLanded.traced 24 = false ∧ ctxLanded.step = none ∧ ctxLanded.stop = none ∧ ctxLanded.stopRec = none) ∧
    ((st ctxCore).ctx? 3 = some ctxCore ∧ gsOf 1 = gsOf ctxCore.gc ∧ (st ctxCore).traced 1 = false ∧ ctxCore.step = none ∧ ctxCore.stop = none ∧ ctxCore.stopRec = none) := by
  decide +kernel

/-- A group whose word asks for two homes, a visit chain, a part at JOIN away from its base core, a group that waits for the extension. -/
def ctxS : Ctx := { ctx1 with split := [⟨0, 0, none, 1⟩, ⟨0, 1, none, 2⟩], splitB := 4 }
def ctxV : Ctx := { ctx1 with chain := [(1, none)] }
def pathJ : Path := { path1 with wait := .join 2 }
def ctxP : Ctx := { ctx1 with splitPart := true, baseGc := 24, paths := pathJ :: List.replicate 7 freePath }
def ctxX : Ctx := { ctx1 with grow := 16 }

theorem test_hyps_GroupEventsComplete_parts : ((st ctxS).ctx? 3 = some ctxS ∧ 2 ≤ ctxS.splitB ∧ ctxS.anchor = 0 ∧ (st ctxS).atRest 3 ctxS 0 = true ∧
      ((st ctxS).joinks.any fun j => j.ctx = 3) = false ∧ 3 < (st ctxS).nextId ∧ ctxS.atHome (0, none) = true ∧ ctxS.atHome (1, none) = false) ∧
    ((st ctxV).ctx? 3 = some ctxV ∧ ctxV.depart = none ∧ ctxV.split = [] ∧ ctxV.parked = none ∧ ctxV.place = .active ∧ ctxV.stop = none ∧
      ((st ctxV).accs.any fun a => a.ctx = 3) = false ∧ ctxV.atHome (1, none) = false ∧ (∀ k ∈ ctxV.validPaths, (ctxV.path k).wait ≠ .matrix)) ∧
    ((st ctxP).ctx? 3 = some ctxP ∧ (ctxP.path ctxP.firstPath).wait = .join 2 ∧ ctxP.visits = [] ∧
      (ctxP.validPaths.all fun e => (ctxP.path e).wait = .join 2 && !(ctxP.path e).stopped) = true ∧ ctxP.slotsClear = true ∧ ctxP.gc ≠ ctxP.baseGc) ∧
    ((st ctxX).ctx? 3 = some ctxX ∧ ctxX.ext = false ∧ 6 * ctxX.gran ≤ (st ctxX).freeG ctxX.gc) := by
  decide +kernel

/-- Two parts of a group at JOIN on their base core: the second to come meets the first. -/
def ctxP0 : Ctx := { ctxP with baseGc := 0 }
def stJoin (there : List Nat) : State := { st ctxP0 with
  teams := [(2, { team1 with joins := [(joinKey 2 0, there)] })]
  ctxs := [(3, ctxP0), (4, { ctxP0 with part := 1, lanes := 2, paths := { pathJ with mask := 2 } :: List.replicate 7 freePath })] }

theorem test_hyps_GroupEventsComplete_join : ((stJoin []).groupLanes 2 0 &&& ~~~(1 : Mask) ≠ 0 ∧ (stJoin [4]).groupLanes 2 0 &&& ~~~(3 : Mask) = 0) ∧
    (let there := addNew (mget ((((stJoin [4]).team? 2).map (·.joins)).getD []) (joinKey 2 0) []) 3
     let parts := there.filterMap fun k => ((stJoin [4]).ctx? k).map fun d => (k, d)
     there = [4, 3] ∧ (parts.all fun x => x.2.residentOn 0) = true ∧ (stJoin [4]).frozen ctxP0 = false ∧
       leastBy (fun a b : Nat × Ctx => decide (a.2.part ≤ b.2.part)) parts = some (3, ctxP0)) ∧
    (ctxP0.gc = ctxP0.baseGc ∧ ctxP0.splitPart = true ∧ ctxP0.stop = none ∧ ctxP0.depart = none ∧
      ((stJoin [4]).accs.any fun a => a.ctx = 3) = false ∧ ctxP0.slotsClear = true) := by
  decide +kernel

/-- Paths held at a loop's end, at a ninth path, at a join for 4,096 cycles, and at a barrier that is released. -/
def heldPath (k : HoldKind) : Path := { freePath with
  v := true
  pc := 0x18
  mask := 1
  hold := true
  kind := k }
def ctxK (k : HoldKind) : Ctx := { ctx1 with paths := heldPath k :: List.replicate 7 freePath, loops := [⟨5, 4, 4⟩] }
def stK (k : HoldKind) : State := { st (ctxK k) with cores := [(0, { Core.reset with cycle := 5000 })] }
def pathB : Path := { path1 with wait := .barrier 0 0 (some 3) 1 }
def ctxB : Ctx := { ctx1 with paths := pathB :: List.replicate 7 freePath }

theorem test_hyps_GroupEventsComplete_holds :
    ((stK .loop).ctx? 3 = some (ctxK .loop) ∧ (ctxK .loop).loops.getLast? = some ⟨5, 4, 4⟩ ∧ (ctxK .loop).stop = none ∧ ((ctxK .loop).path 0).stopped = false ∧
      ((ctxK .loop).validPaths.any fun e => decide (4 ≤ ((ctxK .loop).path e).pc) && decide (((ctxK .loop).path e).pc < LoopLevel.fin ⟨5, 4, 4⟩)) = false ∧
      ((ctxK .loop).path 0).v = true ∧ ((ctxK .loop).path 0).hold = true ∧ ((ctxK .loop).path 0).kind = .loop ∧ ((ctxK .loop).path 0).pc = LoopLevel.fin ⟨5, 4, 4⟩) ∧
    (((ctxK .ninth).path 0).kind = .ninth ∧ (ctxK .ninth).freePaths ≠ [] ∧ 0 < (ctxK .ninth).paths.length) ∧
    (((ctxK .join).path 0).kind = .join ∧ ((ctxK .join).path 0).clause = none ∧ 4096 ≤ (stK .join).now 0 - ((ctxK .join).path 0).since) := by
  decide +kernel

/-- An arrival of lane 0 while a second group has still to arrive; JOINK's answer of an idle slot. -/
def stB : State := { st ctxB with
  teams := [(2, { team1 with groups := 2, left := [0, 1] })]
  bars := [⟨9, 0, 2, 0, 0, 1, 0, none, 0⟩]
  joinks := [⟨10, 3, 0, 0, 8, 0⟩] }

theorem test_hyps_GroupEventsComplete_barrier : ((stB.bars.find? fun x => x.id = 9) = some ⟨9, 0, 2, 0, 0, 1, 0, none, 0⟩ ∧
      stB.barDue ⟨9, 0, 2, 0, 0, 1, 0, none, 0⟩ = true ∧ (stB.bars.any fun x => x.id ≠ 9 && x.team = 2 && x.nb = 0) = false ∧
      (([0, 1] : List Nat).all fun g => mget (mset ([] : Map Mask) 0 1 0) g 0 ≠ 0 && stB.groupLanes 2 g &&& ~~~mget (mset ([] : Map Mask) 0 1 0) g 0 = 0) = false ∧
      (([0] : List Nat).all fun g => mget (mset ([] : Map Mask) 0 1 0) g 0 ≠ 0 && stB.groupLanes 2 g &&& ~~~mget (mset ([] : Map Mask) 0 1 0) g 0 = 0) = true) ∧
    ((ctxB.path 0).wait = .barrier 0 0 (some 3) 1 ∧ ctxB.stop = none ∧ (ctxB.path 0).stopped = false ∧ 0 < ({ BarRec.empty with gen := 1 } : BarRec).gen) ∧
    ((stB.joinks.find? fun x => x.id = 10) = some ⟨10, 3, 0, 0, 8, 0⟩ ∧ stB.slotComp 0 0 % 16 ≠ 1 ∧ stB.slotComp 0 0 % 16 ≠ 2) := by
  decide +kernel


/-- A release that has come to the stack where its context stands, and one that its context has left. -/
def rel1 (dst : Nat) : RelMsg := ⟨11, 0, dst, 3, 0, 0⟩
def stRel (dst : Nat) : State := { stB with
  teams := [(2, { team1 with bars := [(0, { BarRec.empty with gen := 1 })] })]
  rels := [rel1 dst] }

theorem test_hyps_GroupEventsComplete_told : (∀ dst ∈ [0, 1], ((stRel dst).rels.find? fun x => x.ctx = 3 && x.nb = 0 && x.gen = 0) = some (rel1 dst) ∧
      (stRel dst).replyDue 0 dst 11 = true) ∧ gsOf ctxB.gc = (rel1 0).dst ∧ gsOf ctxB.gc ≠ (rel1 1).dst ∧
    0 < (mget ({ team1 with bars := [(0, { BarRec.empty with gen := 1 })] } : Team).bars 0 BarRec.empty).gen := by
  decide +kernel
/-! ## Events of a stack: bank units, DRAM, channels -/

/-- A doorbell on a slot whose launch runs, and on one that has none. -/
theorem test_hyps_BankEventsComplete_doorbell :
    (let u : State := { s1 with stks := [(0, { Stack.reset with nslots := [(nslotKey 3 0, ⟨1, false⟩)] })] }
     (mget (u.stk 0).nslots (nslotKey 3 0) NSlot.reset).launch = 1 ∧ u.launch? 1 = some launch1 ∧ launch1.busy = true) ∧
    s1.launch? (mget (s1.stk 0).nslots (nslotKey 3 0) NSlot.reset).launch = none ∧ s1.booted (pkgOf 0) = false ∧
    ({ s1 with pkgs := [(0, { Pkg.reset with boot := .ready })] } : State).booted (pkgOf 0) = true := by
  decide +kernel

/-- A bank launch: its descriptor (KIND 2, one word) at 0x4000, its arguments (ROWBASE 0x0200_0000, U 1) at 0x5000, its program at 0x6000. -/
def bankLaunch : Launch := ⟨.notify 0 0, 0, 0, 1, 0x4000, 0x5000, 0, true, .queued, 0, 0, false, true, blankDesc, 0, 0, 0, 1, 0, false, false, 0, 0, 0⟩
def bankQueued : BankRun := ⟨1, false, [], 0, 0, [], 0, 0, 0, 0, 0, [], 0, 0, false, [], [], [], [], [], 0, 0, 0, none, none, 0, []⟩
def leafBank : TlbEntry := ⟨0, 0, 34, 0x73F⟩
/-- The cell of a byte of an unstriped page. -/
def at52 (a : Nat) : Nat := refCell (2 ^ 52 + a)
def stBank : State := { State.reset with
  mem := [(at52 0x4000, 2), (at52 0x4002, 1), (at52 0x4009, 0x60), (at52 0x5003, 2), (at52 0x5008, 1)]
  launches := [(1, bankLaunch)]
  stks := [(0, { Stack.reset with tlb := [leafBank], bankQueue := [bankQueued] })]
  nextId := 2 }
def askBank : Asker := ⟨0, none, 0, true⟩
def db1 : List Byte := stBank.refBytes (2 ^ 52 + 0x4000) 64
def ab1 : List Byte := stBank.refBytes (2 ^ 52 + 0x5000) 320
def pb1 : List Byte := stBank.refBytes (2 ^ 52 + 0x6000) 8

theorem pair_of {σ ε α : Type} {p : σ × Except ε α} {t : σ} {a : α} (h : p.1 = t ∧ p.2.toOption = some a) : p = (t, .ok a) := Prod.ext h.1 (ok_of h.2)

theorem bq1 : stBank.readSpan askBank 1 0x4000 64 = (stBank, .ok db1) := pair_of (by decide +kernel)
theorem bq2 : stBank.readSpan askBank 1 0x5000 320 = (stBank, .ok ab1) := pair_of (by decide +kernel)
theorem bq3 : stBank.readSpan askBank 1 0x6000 8 = (stBank, .ok pb1) := pair_of (by decide +kernel)

theorem foldl_fix {α β : Type} (f : β → α → β) (b : β) : ∀ l : List α, (∀ x ∈ l, f b x = b) → l.foldl f b = b
  | [], _ => rfl
  | x :: l, h => by
    rw [List.foldl_cons, h x List.mem_cons_self]
    exact foldl_fix f b l fun y hy => h y (List.mem_cons_of_mem _ hy)

theorem bank_lookup (va : Nat) (h : va / 2 ^ 34 = 0) : stBank.lookup 0 none 0 va = (stBank, .ok leafBank) := by
  have ht : (stBank.stk 0).tlb = [leafBank] := by decide +kernel
  have hit : TlbEntry.hits leafBank 0 va = true := by simp only [TlbEntry.hits, leafBank, h]; rfl
  have hu : stBank.updStk 0 (fun k => { k with tlb := tlbTouch k.tlb leafBank 16384 }) = stBank := by decide +kernel
  simp only [State.lookup, ht, List.find?, hit, hu, Option.bind]

theorem bank_page (i : Nat) (h : i < 512) : leafBank.pa (0x2000000 + 0 * 2 ^ 25 + i * 65536) = 0x2000000 + i * 65536 ∧
    (0x2000000 + 0 * 2 ^ 25 + i * 65536) / 2 ^ 34 = 0 ∧ aperOk (pkgOf 0) leafBank.aper (0x2000000 + i * 65536) 65536 = true ∧
    paGs (0x2000000 + i * 65536) = 0 ∧ isDram (paLoc (0x2000000 + i * 65536)) = true := by
  revert i
  decide +kernel

theorem bank_row_page (first : Option Nat) (i : Nat) (h : i < 512) (hf : first = none ∧ i = 0 ∨ first = some 0x2000000) :
    State.rowPage 0 askBank (0x2000000 + 0 * 2 ^ 25) (stBank, .ok first) i = (stBank, .ok (some 0x2000000)) := by
  have hm : ¬ 2 ^ 57 ≤ 0x2000000 + 0 * 2 ^ 25 + i * 65536 := by omega
  have hn : nbit leafBank.entry.toNat 2 = true ∧ nbit leafBank.entry.toNat 3 = true ∧ nbit leafBank.entry.toNat 5 = true ∧
    nbit leafBank.entry.toNat 9 = true ∧ nbit leafBank.entry.toNat 10 = true ∧ leafBank.aper = 0 := by decide +kernel
  obtain ⟨p1, p2, p3, p4, p5⟩ := bank_page i h
  rw [hn.2.2.2.2.2] at p3
  have hl := bank_lookup _ p2
  have hp : askBank.pslot = 0 := rfl
  obtain ⟨rfl, rfl⟩ | rfl := hf <;>
    simp only [State.rowPage, if_neg hm, hp, hl, p1, p4, p5, hn.1, hn.2.1, hn.2.2.1, hn.2.2.2.1, hn.2.2.2.2.1, hn.2.2.2.2.2] <;>
    simpa using p3

theorem foldl_from {β : Type} (f : β → Nat → β) (b c : β) (n : Nat) (h0 : f b 0 = c) (h : ∀ i, i < n + 1 → f c i = c) :
    (List.range (n + 1)).foldl f b = c := by
  rw [List.range_succ_eq_map, List.foldl_cons, h0]
  refine foldl_fix _ _ _ fun x hx => ?_
  obtain ⟨k, hk, rfl⟩ := List.mem_map.1 hx
  have := List.mem_range.1 hk
  exact h _ (by omega)

theorem row_chunk_of (u : State) (g : Nat) (a : Asker) (va p : Nat) (h0 : State.rowPage g a va (u, .ok none) 0 = (u, .ok (some p)))
    (h : ∀ i, i < 512 → State.rowPage g a va (u, .ok (some p)) i = (u, .ok (some p))) : u.rowChunk g a va = (u, .ok (some p)) := by
  unfold State.rowChunk
  exact foldl_from _ _ _ 511 h0 h

theorem bank_row_chunk : stBank.rowChunk 0 askBank (0x2000000 + 0 * 2 ^ 25) = (stBank, .ok (some 0x2000000)) :=
  row_chunk_of _ _ _ _ _ (bank_row_page none 0 (by decide) (.inl ⟨rfl, rfl⟩)) fun i hi => bank_row_page _ i hi (.inr rfl)

theorem row_chunks_one (u : State) (b p : Nat) (h : u.rowChunk 0 askBank (b + 0 * 2 ^ 25) = (u, .ok (some p))) :
    u.rowChunks 0 askBank b 1 0 = (u, .ok [paLoc p / 2 ^ 25]) := by
  have e : u.rowChunks 0 askBank b 1 0 = match u.rowChunk 0 askBank (b + 0 * 2 ^ 25) with
    | (s, .error x) => (s, .error x)
    | (s, .ok none) => (s, .error (0x23, b + 0 * 2 ^ 25))
    | (s, .ok (some p)) =>
      match s.rowChunks 0 askBank b 0 1 with
      | (s, .error x) => (s, .error x)
      | (s, .ok hs) => (s, .ok (paLoc p / 2 ^ 25 :: hs)) := rfl
  rw [e, h]
  rfl

theorem bq4 : stBank.rowChunks 0 askBank 0x2000000 1 0 = (stBank, .ok [1]) := by
  rw [row_chunks_one _ _ _ bank_row_chunk, show paLoc 0x2000000 / 2 ^ 25 = 1 by decide +kernel]

theorem bank_fields : field db1 0 8 = 0x10002 ∧ field db1 8 8 = 0x6000 ∧ field ab1 0 8 = 0x2000000 ∧ field ab1 8 4 = 1 ∧ field ab1 12 1 = 0 ∧
    field ab1 13 1 = 0 ∧ field ab1 16 8 = 0 ∧ field ab1 24 8 = 0 ∧ field ab1 32 8 = 0 := by
  decide +kernel

theorem stream_none (a : Asker) (u : State) (b : Nat) : StreamOk a u b 0 u := by
  simp [StreamOk]

theorem bank_program : pb1 = [0, 0, 0, 0, 0, 0, 0, 0] := by decide +kernel
theorem bank_program_words : words64 [0, 0, 0, 0, 0, 0, 0, 0] = [0] := by decide +kernel

theorem bank_words : words64 pb1 = [0] := bank_program ▸ bank_program_words

theorem bank_codes : ∀ w ∈ ([0] : List (BitVec 64)), bankWordCode w = 0 := by
  intro w hw
  rw [List.mem_singleton.1 hw]
  decide

theorem bank_accepts : BankAccepts stBank 0 bankLaunch db1 ab1 pb1 [1] stBank := by
  obtain ⟨h0, h1, h2, h3, h4, h5, h6, h7, h8⟩ := bank_fields
  have h9 : bits 0x10002 16 9 = 1 := by decide
  have hr : bankLaunch.khandle = 0x4000 ∧ bankLaunch.args = 0x5000 ∧ bankLaunch.pslot = 0 ∧ bankLaunch.user = true := ⟨rfl, rfl, rfl, rfl⟩
  simp only [BankAccepts, h0, h1, h2, h3, h4, h5, h6, h7, h8, h9, bank_words, hr.1, hr.2.1, hr.2.2.1, hr.2.2.2, if_true, Nat.mul_zero, Nat.zero_mul, Nat.mul_one]
  have ha : (⟨0, none, 0, true⟩ : Asker) = askBank := rfl
  rw [ha]
  refine ⟨trivial, trivial, ⟨stBank, stBank, stBank, stBank, stBank, stBank, ?_⟩, ?_, ?_, ?_, ?_⟩
  · exact ⟨bq1, bq2, bq3, stream_none _ _ _, stream_none _ _ _, stream_none _ _ _, bq4⟩
  · decide +kernel
  · decide +kernel
  · exact bank_codes
  · decide +kernel

theorem test_hyps_BankEventsComplete_start : (stBank.stk 0).bankQueue = [bankQueued] ∧ stBank.bankHeld 0 bankQueued = false ∧
    bankQueued.started = false ∧ stBank.earlierBank 0 bankQueued.launch = false ∧
    stBank.launch? bankQueued.launch = some bankLaunch ∧ BankAccepts stBank 0 bankLaunch db1 ab1 pb1 [1] stBank ∧
    ({ bankLaunch with khandle := 0x4004 } : Launch).khandle % 64 ≠ 0 ∧ (stBank.stk 0).lines.any (fun x => x.1 = bankLaunch.pslot) = false :=
  ⟨by decide +kernel, by decide +kernel, rfl, by decide +kernel, by decide +kernel, bank_accepts, by decide, by decide +kernel⟩

/-- Two columns of a pass's row; a stream write to an address of stack 0. -/
theorem test_hyps_BankEventsComplete_writes : risesFrom 0 [(5, (7 : BitVec 256)), (300, 9)] = true ∧ mfind [(5, (7 : BitVec 256)), (300, 9)] 300 = some 9 ∧
    300 < 131072 ∧ (let r := 2 ^ 52 + 0x7000
     ∃ u, stBank.probeVa ⟨0, none, bankLaunch.pslot, bankLaunch.user⟩ ⟨2, 32, true, true, false⟩ 0x7000 = (u, .ok (r, 0)) ∧ u.refBusy r = false ∧
       (u.stk (paGs (refPa r))).streams = [] ∧ (u.stk (paGs (refPa r))).preds = [] ∧ isRecord (refPa r) = false) := by
  refine ⟨by decide, by decide, by decide, _, pair_ok ?_, ?_, ?_, ?_, ?_⟩ <;> decide +kernel

/-- The same launch before a pass, within one with a bank to emulate, at its end, and after its last pass. -/
def bankRun (pass col : Nat) (inPass : Bool) (modes : Map BankMode) (done : List Nat) : BankRun :=
  { bankQueued with started := true, words := [0], chunks := [1], pass := pass, col := col, inPass := inPass, modes := modes, emuDone := done }
def stRun (r : BankRun) : State := { stBank with stks := [(0, { Stack.reset with bankQueue := [r] })] }

theorem run_no_preds (r : BankRun) (g : Nat) : ((stRun r).stk g).preds = [] := by
  simp only [State.stk, stRun, mget, mfind]
  split <;> rfl

/-- Of every such run: nothing holds it, its launch is there, no predicate watches and no stream write waits. -/
theorem test_hyps_BankEventsComplete_runs : (∀ r ∈ [bankRun 0 0 false [] [], bankRun 0 0 true [] [], bankRun 0 1 true [(3, .emulated)] [],
      bankRun 0 1 true [(3, .emulated)] [3], bankRun 8 0 false [] []],
      ((stRun r).stk 0).bankQueue = [r] ∧ (stRun r).bankHeld 0 r = false ∧ (stRun r).launch? r.launch = some bankLaunch ∧ r.started = true ∧ r.aout = 0 ∧
        ((stRun r).stks.any fun kk => kk.2.streams.any fun x => x.launch = r.launch) = false) ∧
    ∀ g, ((stRun (bankRun 0 0 true [] [])).stk g).preds = [] := by
  refine ⟨?_, run_no_preds _⟩
  decide +kernel

theorem test_hyps_BankEventsComplete_passes :
    (0 < 8 * (bankRun 0 0 false [] []).chunks.length ∧ ((stRun (bankRun 0 0 false [] [])).stk 0).visiting = [] ∧ ((stRun (bankRun 0 0 false [] [])).stk 0).preds = []) ∧
    ((bankRun 0 0 true [] []).words[0]? = some 0 ∧ bits (0 : BitVec 64).toNat 13 3 ≠ 1 ∧ bits (0 : BitVec 64).toNat 13 3 ≠ 3 ∧
      (stRun (bankRun 0 0 true [] [])).columnError (colPa 0 5 ((bankRun 0 0 true [] []).row 0) 0) = none) ∧
    (((List.range 512).find? fun k => (bankRun 0 1 true [(3, .emulated)] []).mode k = .emulated && !(bankRun 0 1 true [(3, .emulated)] []).emuDone.contains k) = some 3 ∧
      (stRun (bankRun 0 1 true [(3, .emulated)] [])).rowLost 0 3 0 = false) ∧
    ((bankRun 0 1 true [(3, .emulated)] [3]).words.length ≤ 1 ∧ ∀ m ∈ (bankRun 0 1 true [(3, .emulated)] [3]).modes, m.2 = .emulated → m.1 ∈ (bankRun 0 1 true [(3, .emulated)] [3]).emuDone) ∧
    8 * (bankRun 8 0 false [] []).chunks.length ≤ 8 := by
  decide +kernel

/-- No bound of a stop holds the units, no host write waits, the columns' words write nothing at a pass's end. -/
theorem test_hyps_BankEventsComplete_free : (stRun (bankRun 0 0 true [] [])).unitSpent (.bankUnits 0) 1 = false ∧ (bankRun 0 0 true [] []).modes = [] ∧
    wbCount (bankRun 0 1 true [] []).words 4 = 0 ∧ ((stRun (bankRun 0 1 true [] [])).stk 0).streams = [] := by
  decide +kernel

theorem test_hyps_NoHostWaits (r : BankRun) : NoHostWaits (stRun r) 0 ∧ NoHostWaits s1 0 := by
  refine ⟨?_, ?_⟩ <;> exact fun m hm => nomatch hm

theorem test_hyps_DramEventsComplete : s1.bankBusy 0 5 = false ∧
    (mget (({ s1 with stks := [(0, { Stack.reset with visiting := [(5, 8)] })] } : State).stk 0).visiting 5 0 = 7 + 1) ∧
    (({ s1 with stks := [(0, { Stack.reset with visiting := [(5, 8)] })] } : State).stk 0).streams = [] ∧ s1.slotsOn 0 = [] ∧
    (let u : State := { s1 with stks := [(0, { Stack.reset with xlatRoot := [(3, 1)] })] }
     u.partStacks 3 = [0] ∧ pkgOf 0 = 0 ∧ ((u.stk 0).firsts.any fun f => f.1 = 3) = false) := by
  decide +kernel

/-- The channel of package 0 to package 1 on plane 0 (number 1), before and after training, and with two flits held. -/
def flit (seq kind : Nat) : Flit := ⟨seq, 1, 0, kind, 0, 0⟩
def held2 : List Flit := [flit 7 0, flit 8 0]
def stCh (l : Link) : State := { s2 with pkgs := [(0, { Pkg.reset with boot := .ready, peers := [(1, ⟨1, false⟩)], links := [(linkKey 0 1, l)] })] }

theorem test_hyps_ChannelEventsComplete_flits : chPeer 1 < 64 ∧ flitKind 0 = none ∧ (∀ k ∈ [0, 6, 7, 9], flitKind (flit 0 k).word = some k) ∧
    (flitOf (flit 7 0).word 0 = flit 7 0) ∧ ({ flit 0 0 with inc := 2 } : Flit).inc ≠ (stCh linkUp).pinc 0 1 ∧ (flit 0 0).inc = (stCh linkUp).pinc 0 1 ∧
    (s2.exchanged 1 = true ∧ (flit 0 0).inc = s2.pinc 0 1 ∧ (s2.chan? 1).expect = 0) ∧ ((flit 4000 0).seq ≠ linkUp.expect ∧ (linkUp.expect + 4096 - (flit 4000 0).seq) % 4096 ≤ 2048) ∧
    afterSeq 7 held2 = some [flit 8 0] := by
  decide +kernel

theorem test_hyps_ChannelEventsComplete_ends :
    (({ linkUp with sinceAck := 32 } : Link).sinceAck ≠ 0 ∧ linkUp.switching = false ∧ 32 ≤ ({ linkUp with sinceAck := 32 } : Link).sinceAck) ∧
    (let u : State := { stCh { linkUp with retry := held2 } with cores := [(0, { Core.reset with cycle := 5000 })] }
     (u.chan? 1).up = true ∧ (u.chan? 1).switching = false ∧ (u.chan? 1).retry ≠ [] ∧ 4096 ≤ u.chNow 1 - (u.chan? 1).lastHeard) ∧
    (let l : Link := { linkUp with replays := 16 }
     l.up = true ∧ l.switching = false ∧ l.training = false ∧ 16 ≤ l.replays) ∧
    ({ linkUp with switching := true } : Link).switching = true ∧ ({ linkUp with spare := true, training := true } : Link).training = true ∧
    ((stCh Link.reset).pkg 0).boot = .ready ∧ ((stCh Link.reset).pkg 0).planesBad.getLsbD (chPlane 1) = false ∧ chPkg 1 ≠ chPeer 1 ∧
    (stCh Link.reset).pinc (chPkg 1) (chPeer 1) = 1 := by
  decide +kernel

/-- Both ends of a channel that trains again. -/
theorem test_hyps_ChannelEventsComplete_retrain :
    (let s : State := { s2 with pkgs := [(0, { s2.pkg 0 with boot := .ready }), (1, { s2.pkg 1 with boot := .ready })] }
     s.trains 1 = true ∧ s.trains (chBack 1) = true) := by
  decide +kernel

theorem test_hyps_ChannelEventsComplete_peer_down :
    ((List.range 8).any fun p => ((stCh { linkUp with up := false, dark := true }).link 0 p 1).trained &&
      ((stCh { linkUp with up := false, dark := true }).link 0 p 1).dark) = true := by
  decide +kernel


/-! ## Events of the engines -/

theorem some_ok {σ ε α : Type} {p : σ × Except ε α} (h : p.2.toOption.isSome = true) : ∃ v a, p = (v, .ok a) := by
  obtain ⟨v, r⟩ := p
  cases r with
  | error e => cases h
  | ok a => exact ⟨v, a, rfl⟩

theorem pair_none {σ α : Type} {p : σ × Option α} (h : p.2 = none) : p = (p.1, none) := Prod.ext rfl h

theorem some_error {σ ε α : Type} {p : σ × Except ε α} (h : p.2.toOption.isSome = false) : ∃ v e, p = (v, .error e) := by
  obtain ⟨v, r⟩ := p
  cases r with
  | error e => exact ⟨v, e, rfl⟩
  | ok a => cases h

theorem mget_all {α : Type} {p : α → Bool} {d : α} (hd : p d = true) (m : Map α) (h : (m.all fun k => p k.2) = true) (k : Nat) : p (mget m k d) = true := by
  induction m with
  | nil => exact hd
  | cons x m ih =>
    obtain ⟨h1, h2⟩ := Bool.and_eq_true_iff.1 (List.all_cons ▸ h)
    simp only [mget, mfind]
    split
    · exact h1
    · exact ih h2

/-- No predicate watches where none is listed. -/
theorem noPreds_of {s : State} (h : ((s.cores.all fun k => k.2.preds.isEmpty) && s.stks.all fun k => k.2.preds.isEmpty) = true) : NoPreds s := by
  obtain ⟨hc, hk⟩ := Bool.and_eq_true_iff.1 h
  exact ⟨fun g => List.isEmpty_iff.1 (mget_all (p := fun k : Core => k.preds.isEmpty) rfl _ hc g),
    fun g => List.isEmpty_iff.1 (mget_all (p := fun k : Stack => k.preds.isEmpty) rfl _ hk g)⟩

/-- A team of one group with a scratchpad of 4 KiB and matrix slot 0, one of its commands, and the machine that holds it. -/
def teamC : Team := { team1 with
  scratch := 4096
  mslots := [(0, 0)] }
def cmdC (k : CmdKind) (started : Bool) (xs : List Sector) : Cmd := ⟨7, 0, 2, 0, 3, 0, 0, some 0, k, true, started, [], [], xs, 0, false, false, none, 0, [], none, none⟩
def stC (c : Cmd) (m : List Msg) : State := { st ctx1 with
  teams := [(2, teamC)]
  cmds := [c]
  chan := m }

/-- CPYI of `n` bytes from global address `a` to team address 0, its one sector to be read, in another package, and read. -/
def cpK (a n : Nat) : CopyOp := { blankCopy .cpyi with
  src := a
  dstSp := 1
  bytes := n }
def secW (a : Nat) : Sector := emptySector 0 [(0, a, 32)]
def secS : Sector := { secW 0x100 with
  st := .sent
  probed := some (9, 34)
  refs := [0x100] }
def secR : Sector := { secW 0x100 with
  st := .read
  data := (List.range 32).map fun i => (i, 7) }
def stCp (a : Nat) : State := stC (cmdC (.copy (cpK a 32)) true [secW a]) []

theorem test_hyps_CopyEventsComplete_start : (∀ n ∈ [32, 3],
      (let c := cmdC (.copy (cpK 0x100 n)) false []
       let s := stC c []
       s.cmd? 7 = some c ∧ s.team? 2 = some teamC ∧ teamC.saved = none ∧ s.runs c = true ∧ s.mayStart c = true)) ∧
    copyRefusal teamC (cpK 0x100 3) [] = some (2, 0) ∧ copyRefusal teamC (cpK 0x100 32) [] = none ∧ (cpK 0x100 32).form ≠ .fill ∧
    sectorsOfRuns ((cpK 0x100 32).runs []) ≠ [] ∧ (cpK 0x100 32).listSpan teamC = [] ∧ (cpK 0x100 3).listSpan teamC = [] := by
  decide +kernel

def spotsCp (a : Nat) := (stCp a).partSpots (cmdC (.copy (cpK a 32)) true [secW a]) teamC 5 0 (secW a).parts

/-- The ends of these commands kill no sibling, and their team goes on. -/
theorem test_hyps_over : (let c := cmdC (.copy (cpK 0x100 3)) false []
      GroupsLeft (stC c []) c ∧ Lone (stC c []) c ∧ (stC c []).saves = [] ∧ (stC c []).stops = [] ∧ c.slot = some 0 ∧ c.ctx ∉ c.also ∧
        (stC c []).ctx? c.ctx = some ctx1 ∧ ((stC c []).reports.all fun r => r.cmd ≠ c.id || r.gidx ≠ c.gidx) = true) := by
  have h : ∀ tm, (stC (cmdC (.copy (cpK 0x100 3)) false []) []).team? 2 = some tm → tm.left ≠ [] := by
    rintro _ ⟨⟩
    decide
  exact ⟨h, fun tm k => .inl (h tm k), by decide +kernel⟩

theorem test_hyps_CopyEventsComplete_read : NextSector (cmdC (.copy (cpK 0x100 32)) true [secW 0x100]) 0 (secW 0x100) ∧
    sourceWaits (cpK 0x100 32) [] (secW 0x100) = false ∧
    (∃ u ps, spotsCp 0x100 = (u, .ok ps) ∧ Near u (cmdC (.copy (cpK 0x100 32)) true [secW 0x100]) ps ∧ NoPreds u) ∧
    (∃ u e, spotsCp (2 ^ 56) = (u, .error e)) ∧ (spotsCp (2 ^ 56)).1.queueFull 0 = false := by
  refine ⟨by simp only [NextSector]; decide +kernel, by decide +kernel, ⟨_, _, pair_ok (a := [((0, 0x100, 32), .ref 0x100 0 34)]) ?_, ?_, noPreds_of ?_⟩,
    some_error ?_, ?_⟩ <;> (try simp only [Near]) <;> decide +kernel

/-- A sector read, before it lands. -/
def cmdR : Cmd := cmdC (.copy (cpK 0x100 32)) true [secR]
def spotR := (stC cmdR []).spotOf cmdR teamC 6 1 (secR.dst + secR.cover.1) secR.cover.2

theorem test_hyps_CopyEventsComplete_land : cmdR.sectors[0]? = some secR ∧ secR.st = .read ∧ secR.held = none ∧
    (∃ u p v, spotR = (u, .ok p) ∧ u.sectorTurn cmdR teamC 1 false 0 p.home = true ∧ u.spotBusy cmdR p = false ∧ p.far = false ∧
      u.sectorWrite cmdR teamC secR 4 p = (v, none)) := by
  refine ⟨rfl, rfl, rfl, spotR.1, .ref (teamC.pa 0) 0 0, _, pair_ok ?_, ?_, ?_, ?_,
    pair_none ?_⟩ <;> decide +kernel

/-- The same copy served by a peer home: its read request and its write. -/
def cmdS : Cmd := cmdC (.copy (cpK 0x100 32)) true [secS]
def reqS : Msg := ⟨9, 0, 1, .tileRead 7 [0], none, false, false, false⟩
def reqW : Msg := ⟨9, 0, 1, .tileWrite 7 [0], none, false, false, false⟩
def cmdW : Cmd := cmdC (.copy (cpK 0x100 32)) true [{ secR with
  st := .sent
  probed := some (9, 34)
  refs := [0x200] }]
def stS : State := stC cmdS [reqS]
def stW : State := stC cmdW [reqW]

theorem test_hyps_CopyEventsComplete_serve : ((stS.chan.find? fun y => y.id = 9) = some reqS ∧ cmdS.sectors[0]? = some secS ∧ secS.st = .sent ∧ secS.probed.map (·.1) = some reqS.id ∧
      stS.tileTurn reqS cmdS 0 = true ∧ stS.tileBusy [(0, secS)] = false ∧ NoPreds stS) ∧
    ((stW.chan.find? fun y => y.id = 9) = some reqW ∧ (cmdW.sectors.all fun x => x.st = .sent && x.probed.map (·.1) = some reqW.id && !stW.tileBusy [(0, x)]) = true ∧
      stW.tileTurn reqW cmdW 0 = true ∧ NoPreds stW ∧ cmdW.tooEarly [0] = false) := by
  refine ⟨⟨?_, ?_, ?_, ?_, ?_, ?_, noPreds_of ?_⟩, ?_, ?_, ?_, noPreds_of ?_, ?_⟩ <;> decide +kernel

/-- The collectives of a quad of which two groups live, on tiles 0 and 8, in BF16. -/
def part1 (q : Nat) : QuadPart := ⟨q, q, 3, true, true, 1, 0x8000 * q, 0, 0, 0, [], [], 0x100, 0x200, 0, List.replicate 16 0, 0, 0, 0⟩
def cmdMma : Cmd := cmdC (.mma 0x100000 [part1 0, part1 1]) true []
def cmdLoop (n step : Nat) (run : Bool) : Cmd := { cmdC (.mloop 0x100000 n step [part1 0]) true [secW 0x100] with capture := run }
def loopRead := (stC (cmdLoop 2 1 false) []).loopSpots ((cmdLoop 2 1 false).as (part1 0)) teamC (descSpace (part1 0).dwords 0) (secW 0x100)

/-- Nothing else runs in the arrays. -/
theorem array_turn {s : State} {c : Cmd} (h : (((s.stampSteps c.gc).cmd? c.id).map fun d => (s.stampSteps c.gc).arrayTurn d) = some true) : ArrayTurn s c := by
  intro d hd
  rw [hd] at h
  exact Option.some.inj h

theorem test_hyps_MatrixEventsComplete_collectives :
    ((stC cmdMma []).cmd? 7 = some cmdMma ∧ (stC cmdMma []).team? 2 = some teamC ∧ (stC cmdMma []).cmdAway teamC cmdMma = false ∧
      (stC cmdMma []).runs cmdMma = true ∧ (stC cmdMma []).mayStart cmdMma = true ∧ ([part1 0, part1 1].any fun p => p.votes) = true ∧
      [part1 0, part1 1].Pairwise (fun a b => a.tile + 0x1000 ≤ b.tile ∨ b.tile + 0x1000 ≤ a.tile)) ∧ ArrayTurn (stC cmdMma []) cmdMma ∧
    ((cmdLoop 2 1 false).started = true ∧ (cmdLoop 2 1 false).capture = false ∧ (stC (cmdLoop 2 1 false) []).cmdAway teamC (cmdLoop 2 1 false) = false ∧
      (stC (cmdLoop 2 1 false) []).runs (cmdLoop 2 1 false) = true ∧
      (((cmdLoop 2 1 false).sectors.filter fun x => x.ofStep 1).all fun x => x.st = .read && !x.poison) = true) ∧
    ArrayTurn (stC (cmdLoop 2 1 false) []) (cmdLoop 2 1 false) ∧
    ((cmdLoop 2 1 true).capture = true ∧ 1 + 1 = 2 ∧ 0 + 1 ≠ 2) ∧
    (NextSector (cmdLoop 2 0 false) 0 (secW 0x100) ∧ ([part1 0].find? fun y => y.q = (secW 0x100).dst / 2 % 4) = some (part1 0) ∧
      ∃ u ps, loopRead = (u, .ok ps) ∧ Near u ((cmdLoop 2 1 false).as (part1 0)) ps ∧ NoPreds u) := by
  refine ⟨?_, array_turn ?_, ?_, array_turn ?_, ?_, ?_, ?_, _, _, pair_ok (p := loopRead) (a := [((0, 0x100, 32), .ref 0x100 0 34)]) ?_, ?_, noPreds_of ?_⟩ <;>
    (try simp only [NextSector, Near]) <;> decide +kernel

/-- A tile load of FP32 in rows of 256 bytes, sound and with a pitch that is too small. -/
def cmdMld (pitch : Nat) (started : Bool) : Cmd := cmdC (.tile (.mld false 0 0 pitch 0)) started []

theorem test_hyps_MatrixEventsComplete_tiles :
    (mldDefect teamC false 0 0 4 0 = some 2 ∧ mldDefect { teamC with scratch := 4096 } false 0 0 256 0 = none ∧
      (cmdMld 256 false).started = false ∧ (stC (cmdMld 256 false) []).mayStart (cmdMld 256 false) = true ∧ (cmdMld 256 true).started = true ∧
      NoPreds (stC (cmdMld 256 true) []) ∧
      ((mldSpans false 0 256 0).any fun r => (stC (cmdMld 256 true) []).teamBad teamC r.1 (r.1 + r.2)) = false) ∧
    ((([(0, 5), (1, 6)] : List (Nat × Word)).map (·.1)).Nodup) ∧
    ((stC (cmdC (.tile (.maccv 0 0 16 1)) true []) []).ctx? 3 = some ctx1 ∧ (ctx1.width = 16 ∨ ctx1.width = 32 ∨ ctx1.width = 64)) := by
  refine ⟨⟨?_, ?_, ?_, ?_, ?_, noPreds_of ?_, ?_⟩, ?_⟩ <;> decide +kernel

/-- An MST of FP32 to team address 0 with rows of 256 bytes, and one to rows that overlap. -/
def mst1 : MstCtl := ⟨false, false, false, false, 0, false, false, 0, false, 8, 1⟩
def cmdMst (pitch : Nat) (started : Bool) (xs : List Sector) : Cmd := cmdC (.mst mst1 0 0 pitch 0 0 0 0) started xs
def stMst : State := stC (cmdMst 256 true [secR]) []
def spotM := stMst.spotOf (cmdMst 256 true [secR]) teamC 8 (mstPlace mst1 0).1
  (({ secR with dst := (mstPlace mst1 secR.dst).2 } : Sector).dst + ({ secR with dst := (mstPlace mst1 secR.dst).2 } : Sector).cover.1)
  ({ secR with dst := (mstPlace mst1 secR.dst).2 } : Sector).cover.2

theorem test_hyps_MatrixEventsComplete_mst :
    (mstDefect (stC (cmdMst 4 false []) []) teamC 0 0 mst1 0 0 4 0 = some 2 ∧ mstDefect (stC (cmdMst 256 false []) []) teamC 0 0 mst1 0 0 256 0 = none ∧
      (cmdMst 256 false []).started = false ∧ (stC (cmdMst 256 false []) []).mayStart (cmdMst 256 false []) = true) ∧
    ((cmdMst 256 true []).started = true ∧ (cmdMst 256 true []).sectors = [] ∧ NoPreds (stC (cmdMst 256 true []) []) ∧
      (stC (cmdMst 256 true []) []).teamBad teamC 0 (0 + 256) = false) ∧
    ((cmdMst 256 true [secR]).sectors[0]? = some secR ∧ secR.st = .read ∧ secR.held = none ∧ (cmdMst 256 true [secR]).saved = false ∧
      ∃ u p v, spotM = (u, .ok p) ∧ u.spotBusy (cmdMst 256 true [secR]) p = false ∧ p.far = false ∧
        u.sectorWrite (cmdMst 256 true [secR]) teamC { secR with dst := (mstPlace mst1 secR.dst).2 } 1 p = (v, none)) := by
  refine ⟨?_, ⟨?_, ?_, noPreds_of ?_, ?_⟩, ?_, ?_, ?_, ?_, spotM.1, .ref (teamC.pa 0) 0 0, _, pair_ok ?_, ?_, ?_, pair_none ?_⟩ <;> decide +kernel

/-- A value run: a record of 8 columns over 16 positions, in FP32, and the words that use it. -/
def vr1 : VrCfg := ⟨true, 3, false, 0, false, false, 0x400, 0x800, 16, 4, []⟩
def cmdV (k : CmdKind) : Cmd := { cmdC k false [] with lane := 0 }
def teamV (g : VrCfg) : Team := { teamC with vrcfg := [(0, g)] }
def stV (c : Cmd) (g : VrCfg) (bytes : List Host.Cell) : State := { stC c [] with
  mem := bytes
  teams := [(2, teamV g)] }

theorem test_hyps_ValueRunEventsComplete_records :
    (let c := cmdV (.vrset vr1 0)
     let s := stV c vr1 []
     s.cmd? 7 = some c ∧ s.team? 2 = some (teamV vr1) ∧ (teamV vr1).saved = none ∧ s.runs c = true ∧ s.vrReady (teamV vr1) c = true ∧ NoPreds s ∧
       vrsetDefect (teamV vr1) 0 { vr1 with k := 0 } 0 = some 2 ∧ vrsetDefect (teamV vr1) 0 vr1 0 = none ∧ vr1.vfmt = 0 ∧ (teamV vr1).left ≠ [] ∧
       vrsetDefect (teamV vr1) 0 { vr1 with vfmt := 1 } 0 = none ∧ s.teamBad (teamV vr1) 0 (0 + 256 * 2) = false) ∧
    (let c := cmdV (.vract 0x200 0x600)
     (stV c vr1 []).vrReady (teamV vr1) c = true ∧ ((teamV VrCfg.reset).vr 0).valid = false ∧ ((teamV vr1).vr 0).valid = true) ∧
    (let c := cmdV (.vrrun 1 0 14 0 VrCfg.reset [] none)
     (stV c vr1 []).vrReady (teamV vr1) c = true ∧ vrrunDefect (teamV vr1) 0 vr1 1 0 13 = some 2 ∧ vrrunDefect (teamV vr1) 0 ((teamV vr1).vr 0) 1 0 14 = none) := by
  refine ⟨⟨?_, ?_, ?_, ?_, ?_, noPreds_of ?_, ?_⟩, ?_⟩ <;> decide +kernel

/-- A stream of one row of index 1 at team address 0: one group of value 0x3F80 at position 2. -/
def rowTokens : List Nat := [0xFFFE, 1, 0, 1, 0x3F80, 2, 0xFFFF]
def rowBytes : List Byte := rowTokens.flatMap fun t => [BitVec.ofNat 8 t, BitVec.ofNat 8 (t / 256)]
def rowCells : List Host.Cell := (List.range 14).map fun i => (refCell (teamC.pa i), rowBytes.getD i 0)
def cmdRun (rows : List VrRow) : Cmd := cmdC (.vrrun 1 0 14 0 vr1 rows none) true []
def stRow (rows : List VrRow) : State := stV (cmdRun rows) vr1 rowCells

theorem row_parses : parseRow vr1 0 PRow.start rowTokens = .row 1 [(0x3F80, [2])] false 7 := by
  simp [parseRow, rowTokens, PRow.start, vr1]

theorem test_hyps_ValueRunEventsComplete_handoff : (cmdRun []).kind.run? = some ⟨1, 0, 14, 0, vr1, [], none⟩ ∧
    (⟨1, 0, 14, 0, vr1, [], none⟩ : VrRun).where = some (0, none) ∧ (cmdRun []).started = true ∧ (stRow []).evicting (cmdRun []).team = false ∧
    ((cmdRun []).sectors.all fun x => x.st ≠ .sent) = true ∧ NoPreds (stRow []) ∧
    parseRow vr1 0 PRow.start ((stRow []).tokens (cmdRun []) (teamV vr1) 1 14 0).1 = .row 1 [(0x3F80, [2])] false 7 ∧
    parseRow vr1 0 PRow.start ((stV (cmdRun []) vr1 []).tokens (cmdRun []) (teamV vr1) 1 14 0).1 = .bad 1 ∧
    (stV (cmdRun []) vr1 []).streamBad (cmdRun []) (teamV vr1) 1 0 (0 + 2 * 1) = false ∧
    (((stRow []).cmds.takeWhile fun o => o.id ≠ (cmdRun []).id).all fun o => o.gc ≠ (cmdRun []).gc || !(stRow []).vrCanHand o) = true ∧
    (stRow []).streamBad (cmdRun []) (teamV vr1) 1 0 (0 + 2 * 7) = false ∧ (stRow []).freeQueue 0 = some 0 := by
  refine ⟨rfl, ?_, rfl, ?_, ?_, noPreds_of ?_, ?_, ?_, ?_, ?_, ?_, ?_⟩
  any_goals first | decide +kernel | skip
  · rw [show ((stRow []).tokens (cmdRun []) (teamV vr1) 1 14 0).1 = rowTokens by decide +kernel, row_parses]
  · rw [show ((stV (cmdRun []) vr1 []).tokens (cmdRun []) (teamV vr1) 1 14 0).1 = 0 :: List.replicate 6 0 by decide +kernel]
    simp [parseRow, PRow.start]

/-- The row in queue 0, before and after it is multiplied. -/
def rowQ (results : Option (List Word)) : VrRow := ⟨1, 0, 0, [(0x3F80, [2])], results, 0, none, false⟩
def rowDone : VrRow := rowQ (some [1, 2, 3, 4, 5, 6, 7, 8])

theorem test_hyps_ValueRunEventsComplete_rows : ((rowQ none).queue < 8 ∧ (rowQ none).results = none ∧ NoPreds (stRow [rowQ none]) ∧
      (stRow [rowQ none]).stopping (.valueRun 0) ((stRow [rowQ none]).cmdLaunch (cmdRun [rowQ none])) = false ∧
      (∀ p ∈ (rowQ none).positions, (stRow [rowQ none]).teamBad (teamV vr1) (vr1.actAt p 0) (vr1.actAt p vr1.cols) = false)) ∧
    (rowDone.results = some [1, 2, 3, 4, 5, 6, 7, 8] ∧
      ((stRow [rowDone]).vrStore (cmdRun [rowDone]) (teamV vr1) vr1.osz (4 * 0 + 3) 0
        ((([1, 2, 3, 4, 5, 6, 7, 8] : List Word).zipIdx).map fun y => (vr1.dstAt rowDone.index y.2, y.1))).2 = false) := by
  refine ⟨⟨?_, ?_, noPreds_of ?_, ?_⟩, ?_⟩ <;> decide +kernel

/-! ## Events of scheduling and eviction -/

/-- A queued launch with its descriptor at 0x4000: a kernel of 16 lanes and 8 registers at CODE 0x10, and the same with a reserved bit set. -/
def launchQ (kh : Nat) : Launch := { launch1 with
  khandle := kh
  state := .queued
  checked := false }
def stL (kh : Nat) (b3 : Byte) : State := { State.reset with
  mem := code1 ++ [(0x4000, 1), (0x4001, 0x20), (0x4002, 2), (0x4003, b3), (0x4005, 4), (0x4008, 0x10), (0x4020, 1), (0x4024, 1), (0x4028, 1)]
  launches := [(1, launchQ kh)]
  stks := [(0, { Stack.reset with tlb := [leaf] })]
  nextId := 2 }
def readL (b3 : Byte) := (stL 0x4000 b3).readSpan (launchQ 0x4000).asker 1 0x4000 64
def descL (b3 : Byte) : List Byte := (stL 0x4000 b3).refBytes 0x4000 64

theorem test_hyps_SchedulingEventsComplete_check : ((stL 0x4004 0).launch? 1 = some (launchQ 0x4004) ∧ (launchQ 0x4004).khandle % 64 ≠ 0) ∧
    (∀ b ∈ ([0, 0x20] : List Byte), (stL 0x4000 b).launch? 1 = some (launchQ 0x4000) ∧ (launchQ 0x4000).state = .queued ∧ (launchQ 0x4000).checked = false ∧
      (launchQ 0x4000).khandle % 64 = 0 ∧ (readL b).2.toOption = some (descL b) ∧ descField (descL b) 0 0 8 = 1 ∧
      ((readL b).1.launchSpans (launchQ 0x4000) (Desc.ofBytes (descL b))).2 = none) ∧
    descReservedZero (descL 0x20) = false ∧
    (let d := Desc.ofBytes (descL 0)
     let v := ((readL 0).1.launchSpans (launchQ 0x4000) d).1
     descReservedZero (descL 0) = true ∧ d.inRange (v.privArea 0) = true ∧ d.fitsEmpty = true ∧ d.agent = false ∧ v.placeHeld 1 (launchQ 0x4000) = false) := by
  decide +kernel

/-- The same descriptor with AGENT, from a user queue, and what a privileged queue sends. -/
theorem test_hyps_SchedulingEventsComplete_agent : ¬Privileged (launchQ 0x4000) ∧ Privileged { launchQ 0x4000 with user := false } ∧
    (readL 8).2.toOption = some (descL 8) ∧ descField (descL 8) 0 0 8 = 1 ∧
    (let d := Desc.ofBytes (descL 8)
     let v := (readL 8).1.launchSpans (launchQ 0x4000) d
     v.2 = none ∧ descReservedZero (descL 8) = true ∧ d.inRange (v.1.privArea 0) = true ∧ d.fitsEmpty = true ∧ d.agent = true) := by
  refine ⟨fun h => Bool.noConfusion h.1, ⟨rfl, 0, 0, rfl⟩, ?_, ?_, ?_⟩ <;> decide +kernel

/-- A launch that waits for its first team on an empty stack, long since raised. -/
def launchP : Launch := { launch1 with
  nextTeam := 0
  desc := { blankDesc with ceiling := 1 } }
def stP : State := { State.reset with
  launches := [(1, launchP)]
  cores := [(0, { Core.reset with cycle := 1048576 })]
  nextId := 2 }

theorem test_hyps_SchedulingEventsComplete_place : (launchP.ages = true ∧ 1048576 ≤ stP.stkNow 0 - launchP.agedAt) ∧
    (serveOrder (stP.launches.filter fun kl => kl.2.gs = 0 && kl.2.waits) = [(1, launchP)] ∧ (stP.teamTarget launchP).2 = 0 ∧
      (stP.teamTarget launchP).1.bestSpot launchP.desc 0 = some (0, 0) ∧ gsOf 0 = 0 ∧ (stP.teamTarget launchP).1.carveTeam 0 0 launchP.desc = some [] ∧
      (stP.teamTarget launchP).1.carveTeam 0 (stP.teamTarget launchP).1.nextId launchP.desc ≠ none ∧
      (stP.teamTarget launchP).1.lineUp 0 launchP.pslot = false ∧ (stP.teamTarget launchP).1.returnFirst 0 launchP.prio = false ∧
      launchP.bornStopped = false) := by
  decide +kernel

theorem test_hyps_SchedulingEventsComplete_core :
    (let k : Core := { Core.reset with
       hot := true
       coolSince := some 5 }
     k.coolSince = some 5 ∧ 80 ≤ (s1.stk 0).tcool ∧ 80 < (s1.stk 0).thot ∧ (s1.stk 0).thot ≤ 200 ∧ (k.droops.all fun d => decide (125000 ≤ k.cycle - d)) = true) ∧
    (bits 0x5A59 0 8 ≤ bits 0x5A59 8 8 ∧ bits 0x595A 8 8 < bits 0x595A 0 8) := by
  decide +kernel

/-- A pending group on a core, alone, beside eight active ones, and one that waits for a window. -/
def ctxPend : Ctx := { ctxF 0x10 with place := .pending }
def stPend (n : Nat) : State := { st ctxPend with
  ctxs := (3, ctxPend) :: (List.range n).map fun k => (10 + k, { ctxF 0x10 with lastArr := [] })
  cores := [(0, { Core.reset with cycle := 5000 })] }
def ctxGrow : Ctx := { ctxF 0x10 with
  walloc := 4
  grow := 2 }
def oldOf (s : State) := leastBy (fun a b => lexLe [a.2.lastIssue, a.2.activeAt, a.1] [b.2.lastIssue, b.2.activeAt, b.1]) (s.activeOn 0)

theorem test_hyps_SchedulingEventsComplete_sets : (∀ n ∈ [0, 8], (stPend n).nextPending 0 = some (3, ctxPend)) ∧
    (((stPend 0).residents 0).all fun kc => kc.2.grow = 0) = true ∧ ((stPend 0).activeOn 0).length < 8 ∧
    (oldOf (stPend 8) = some (10, { ctxF 0x10 with lastArr := [] }) ∧ 8 ≤ ((stPend 8).activeOn 0).length ∧ 4096 ≤ (stPend 8).now 0 - ctxPend.since ∧
      ((ctxF 0x10).validPaths.all fun e => !((ctxF 0x10).path e).started && ((ctxF 0x10).path e).wait ≠ .matrix) = true) ∧
    ((((st ctxGrow).residents 0).filter fun kc => kc.2.grow ≠ 0 && decide (kc.2.grow ≤ 8)) = [(3, ctxGrow)] ∧
      ctxGrow.grow * ctxGrow.gran ≤ (st ctxGrow).freeG 0) ∧
    ((stPend 0).ctx? 3 = some ctxPend ∧ (ctxPend.path 0).v = true ∧ 256 ≤ (stPend 0).now ctxPend.gc - (ctxPend.path 0).lastIssue) := by
  decide +kernel

/-- Every core of stack 0 holds a team of priority 0 with its whole scratchpad, and a launch of priority 1 waits for as much. -/
def deskE : Desc := { blankDesc with scratch := 0x80000 }
def launchHi : Launch := { launch1 with
  nextTeam := 0
  prio := 1
  desc := deskE }
def stFull : State := { State.reset with
  launches := [(1, { launch1 with desc := deskE }), (2, launchHi)]
  teams := (List.range 24).map fun k => (100 + k, { team1 with
    baseGc := k
    scratch := 0x80000 })
  stks := [(0, { Stack.reset with saveSize := 0xFFFF })]
  nextId := 200 }

theorem test_hyps_EvictionEventsComplete_preempt : (stFull.saves.any fun i =>
      i.phase = .saving && ((stFull.team? i.team).map fun t => decide (gsOf t.baseGc = 0)).getD false) = false ∧ (stFull.stk 0).saveSize ≠ 0 ∧
    stuckOn stFull 0 = [] ++ (2, launchHi) :: [] ∧ ((bestPlan stFull 0 launchHi).bind fun p => stFull.beginPlan p.2.1 p.2.2.1).isSome = true ∧
    (stFull.beginSave 100 true []).isSome = true := by
  decide +kernel

/-- One group waits for windows, and nothing is saved. -/
def stG : State := { st ctxGrow with stks := [(0, { Stack.reset with saveSize := 0xFFFF })] }

theorem test_hyps_EvictionEventsComplete_grow : stG.saves = [] ∧ (stG.stk 0).saveSize ≠ 0 ∧ (∀ kc ∈ stG.residents 0, Waiting kc.2) ∧
    sortBy (fun kc => [2 ^ 64 - kc.2.bornAt, 64 - kc.2.gidx, kc.1])
      ((stG.residents 0).filter fun kc => kc.2.grow ≠ 0 && stG.unitWhole [0] kc.2) = [(3, ctxGrow)] ∧
    (stG.beginSave ctxGrow.team false ((stG.unitOf [0] ctxGrow).map (·.1))).isSome = true := by
  refine ⟨?_, ?_, ?_, ?_, ?_⟩ <;> (try simp only [Waiting]) <;> decide +kernel

/-- Images of the group of `s1`: being written, with the group still there or taken, and being put back. -/
def img1 (whole : Bool) (phase : SavePhase) (taken want : List Nat) : SaveImg := ⟨7, whole, 2, 0, 0, 16, phase, taken, want, [0], 1, [], [], [(3, (0, 4096))]⟩
def ctxSaved : Ctx := { ctxF 0x10 with place := .saved }
def stI (c : Ctx) (i : SaveImg) : State := { st c with
  saves := [i]
  stks := [(0, { Stack.reset with saveSize := 0xFFFF })] }

theorem test_hyps_EvictionEventsComplete_images :
    (let i := img1 false .saving [] [3]
     let s := stI (ctxF 0x10) i
     s.ctx? 3 = some (ctxF 0x10) ∧ s.imageFor 3 (ctxF 0x10) = some i ∧ i.phase = .saving ∧ 3 ∈ i.want ∧ s.isQuad (ctxF 0x10) = false ∧
       s.takeable 3 (ctxF 0x10) = true ∧ i.want.Nodup ∧ 3 ∉ i.taken ∧ (ctxF 0x10).gidx ∈ i.groups ∧
       ((s.imageCtxs i).filter fun kd => kd.2.gidx = (ctxF 0x10).gidx).length < i.parts) ∧
    (let i := img1 false .saving [3] []
     let s := stI ctxSaved i
     (s.saves.find? fun j => j.id = 7 && j.phase = .saving) = some i ∧ s.team? 2 = some team1 ∧ i.whole = false ∧
       (i.want.all fun k => ((s.ctx? k).map fun c => !c.residentOn c.gc).getD true) = true ∧ s.midStep i = false) ∧
    (let i := img1 true .saving [3] []
     let s := stI ctxSaved i
     i.whole = true ∧ s.atBase 2 team1 = [] ∧ (s.cmds.all fun c => c.team ≠ 2 || c.quiet) = true) ∧
    (let i := img1 false .saved [3] []
     (stI ctxSaved i).returnSet i = some [3] ∧ ((stI ctxSaved i).saves.find? fun j => j.id = 7) = some i) ∧
    (let i : SaveImg := { img1 false .restoring [3] [] with coming := [3] }
     ((stI ctxSaved i).saves.find? fun j => j.id = 7 && j.phase = .restoring) = some i ∧ i.whole = false ∧ i.taken = [3] ∧ i.coming = [3] ∧
       mfind i.ctxOffs 3 = some (0, 4096) ∧
       (stI ctxSaved i).ctx? 3 = some ctxSaved) ∧
    (let i : SaveImg := { img1 true .restoring [3] [] with coming := [3] }
     ((stI ctxSaved i).saves.find? fun j => j.id = 7 && j.phase = .restoring) = some i ∧ i.whole = true ∧ (stI ctxSaved i).team? 2 = some team1) := by
  decide +kernel

/-- A group whose lanes have all exited. -/
def ctxEnd : Ctx := { ctx1 with
  lanes := 0
  paths := List.replicate 8 freePath }

theorem test_hyps_EvictionEventsComplete_end : (st ctxEnd).ctx? 3 = some ctxEnd ∧ (ctxEnd.place = .active ∨ ctxEnd.place = .pending) ∧ ctxEnd.lanes = 0 ∧
    ctxEnd.stop = none ∧ ctxEnd.visits = [] ∧ ctxEnd.anchor = 0 ∧ ((st ctxEnd).accs.all fun a => a.ctx ≠ 3) = true ∧ (∀ k, k < 8 → mget ctxEnd.wslot k 0 = 0) ∧
    (∀ kd ∈ (st ctxEnd).ctxs, kd.1 ≠ 3 → kd.2.team = ctxEnd.team → kd.2.gidx = ctxEnd.gidx → kd.2.alive = false) ∧
    (st ctxEnd).team? ctxEnd.team = some team1 := by
  decide +kernel

/-! ## Events of faults and debug -/

/-- A report of the group, not yet sent or sent to a stack; a team whose groups have all ended has nobody to take it. -/
def rep1 (sent : Option Nat) : Report := ⟨7, 9, 2, 0, 0x60, 2, 0, 5, 0, 0x100, 4, 0, 0, none, sent, 12, 0⟩
def ctxRep : Ctx := { ctxF 0x10 with trap := 0x18 }
def stRep (c : Ctx) (sent : Option Nat) : State := { st c with reports := [rep1 sent] }
/-- The same with a landing notice of the group on its way. -/
def stDue : State := { stRep ctxRep none with notices := [⟨5, 2, 0, 1⟩] }

theorem test_hyps_FaultAndDebugEventsComplete_reports :
    (((stRep ctxEnd none).reports.find? fun x => x.id = 7 && x.receiver.isNone) = some (rep1 none) ∧ (stRep ctxEnd none).team? 2 = some team1 ∧
      (stRep ctxEnd none).reportGroup (rep1 none) = none) ∧
    ((stRep ctxRep none).reportGroup (rep1 none) = some 0 ∧ (stRep ctxRep none).landingDue 2 0 = false ∧
      (3, ctxRep) ∈ (stRep ctxRep none).liveCtxs 2 0 ∧ gsOf ctxRep.gc = (mfind team1.landedAt 0).getD (gsOf team1.baseGc)) ∧
    (stDue.reportGroup (rep1 none) = some 0 ∧ stDue.landingDue 2 0 = true ∧ (rep1 none).after ≤ mget team1.noted 0 0) ∧
    ((stRep ctxRep (some 16)).reportGroup (rep1 (some 16)) = some 0 ∧ (stRep ctxRep (some 16)).reaches 0 16 = false) ∧
    ((stRep ctxRep (some 1)).reportGroup (rep1 (some 1)) = some 0 ∧ (stRep ctxRep (some 1)).handed 0 1 12 1 = true ∧
      (((stRep ctxRep (some 1)).liveCtxs 2 0).all fun k => gsOf k.2.gc ≠ 1) = true) ∧
    (let s := stRep ctxRep (some 0)
     s.reportGroup (rep1 (some 0)) = some 0 ∧ s.reaches 0 0 = true ∧ s.handed 0 0 12 1 = true ∧
      pickLane 0 ((s.liveCtxs 2 0).filter fun kc => gsOf kc.2.gc = 0 && kc.2.place ≠ .moving) = some (3, ctxRep) ∧
      (s.reports.takeWhile fun x => x.id ≠ 7) = [] ∧
      (ctxRep.place = .active ∨ ctxRep.place = .pending) ∧ ctxRep.inHandler = false ∧ ctxRep.stop = none ∧
      ctxRep.parked = none ∧ ctxRep.depart = none ∧ ctxRep.split = [] ∧ ctxRep.chain = [] ∧ s.nextClausePath 3 ctxRep = some 0) := by
  decide +kernel

/-- A group parked at place 5 of stack 0, and a stop on its way to a group: behind an older one of the same stacks, and come to the group. -/
def ctxPark : Ctx := { ctxF 0x10 with parked := some ⟨0x20, 0, 5, 0⟩ }
def stop1 (line : Bool) : StopMsg := ⟨8, 0, 11, .group 3, 0x82, 0, 0, 0, false, line, 0, 0, 0, 0, false, []⟩
def stopOld : StopMsg := { stop1 false with id := 7 }
def stopAt (line : Bool) : StopMsg := { stop1 line with reached := true }
def stStop (c : Ctx) (ms : List StopMsg) : State := { st c with stops := ms }

theorem test_hyps_FaultAndDebugEventsComplete_stops : (s1.parkedAt 0 (5 % 2048) = none ∧ (st ctxPark).parkedAt 0 (5 % 2048) = some (3, ctxPark) ∧
      (st ctxPark).launch? ctxPark.launch = some launch1) ∧
    (∀ b ∈ [false, true], ((stStop ctx1 [stop1 b]).stops.find? fun x => x.id = 8 && (if b then x.line else !x.line)) = some (stop1 b) ∧
      (stop1 b).reached = false ∧ (stStop ctx1 [stop1 b]).heard (stop1 b) = true ∧ (stopAt b).reached = true ∧ (stopAt b).target = .group 3 ∧
      ((stStop ctx1 [stopAt b]).stops.find? fun x => x.id = 8 && (if b then x.line else !x.line)) = some (stopAt b)) ∧
    (∀ b ∈ [false, true], (stStop ctx1 [stopOld, stop1 b]).heard (stop1 b) = false ∨ b = true) ∧
    ((stStop { ctx1 with place := .landed } [stop1 false]).heard (stop1 false) = true) ∧
    ((stop1 false).target = .group 3 ∧ s1.ctx? 3 = some ctx1 ∧ ctx1.place ≠ .moving ∧ ctx1.place ≠ .landed ∧ ctx1.stop = none) ∧
    (s1.launch? 1 = some launch1 ∧ launch1.pkg = 0 ∧ launch1.pslot = 0 ∧ launch1.desc.agent = false ∧ launch1.busy = true ∧ (∀ kk ∈ s1.stks, kk.2.streams = [])) := by
  decide +kernel

theorem test_hyps_FaultAndDebugEventsComplete_kill : NoHostWaitsAt s1 := by
  intro gs m hm
  cases hm

/-- VCTL armed with SCOPE 7, which no predicate takes; with EN 0. -/
theorem test_hyps_FaultAndDebugEventsComplete_refused : nbit 0xF000000000000000 63 = true ∧ nbit 0x7000000000000000 63 = false ∧
    (let q := mget (s1.core 0).preds 3 Pred.reset
     q.en = false ∧ armFieldsOk false { q with vctl := BitVec.ofNat 64 0xF000000000000000 } (0xF000000000000000 % 2 ^ 64) = false) ∧
    (mget (({ s1 with cores := [(0, { Core.reset with preds := [(3, { Pred.reset with vctl := 0x8000000000000000 })] })] } : State).core 0).preds 3 Pred.reset).en = true := by
  decide +kernel

/-- VCTL armed with valid fields on a core (predicate 3) and at a home (predicate 20); a home refuses a unit bit. -/
theorem test_hyps_FaultAndDebugEventsComplete_armed :
    (let v := 0x8000000000000001
     let q : Pred := { mget (s1.core 0).preds 3 Pred.reset with vctl := BitVec.ofNat 64 v }
     nbit v 63 = true ∧ armFieldsOk false q (v % 2 ^ 64) = true ∧ runMixes (mset (s1.core 0).preds 3 q Pred.reset) 0 15 3 = false) ∧
    (let v := 0x8000000000000001
     let q : Pred := { mget (s1.stk 0).preds 20 Pred.reset with vctl := BitVec.ofNat 64 v }
     (mget (s1.stk 0).preds 20 Pred.reset).en = false ∧ armFieldsOk true q (v % 2 ^ 64) = true ∧
       armFieldsOk true { q with vctl := BitVec.ofNat 64 (v + 64) } ((v + 64) % 2 ^ 64) = false) := by
  decide +kernel

/-- A halt or dump of the launch of number 1; a dump ring with room, and one of no size. -/
def stHalt (size : Nat) : State := { s1 with stks := [(0, { Stack.reset with
  htgt := 1
  dmpSize := [(0, size)] })] }

theorem test_hyps_FaultAndDebugEventsComplete_requests :
    (bits 0x30 4 3 = 3 ∧ nbit 0x30 13 = false ∧ nbit 0x30 14 = false ∧ nbit 0x4030 14 = true ∧ nbit 0x2030 13 = true) ∧
    (bits 0x60 4 3 = 6 ∧ nbit 0x60 13 = false ∧ nbit 0x60 14 = false ∧ bits 0x4020 4 3 = 2 ∧ nbit 0x4020 13 = false ∧ nbit 0x4020 14 = true) ∧
    ((3, ctx1) ∈ (stHalt 0).ctxs ∧ ctx1.alive = true ∧ ctx1.stop = none ∧
      (stHalt 0).named (pkgOf 0) 6 (bits 0x60 7 6) (bits ((stHalt 0).stk 0).htgt.toNat 0 32) (bits ((stHalt 0).stk 0).htgt.toNat 32 32) ctx1 = true) ∧
    (bits 0x2060 4 3 = 6 ∧ nbit 0x2060 13 = true ∧ (stHalt 0).teams = [(2, team1)] ∧ (stHalt 0).launch? team1.launch = some launch1 ∧ launch1.pkg = pkgOf 0 ∧
      launch1.id = bits ((stHalt 0).stk 0).htgt.toNat 0 32 ∧ ((stHalt 0).stk (gsOf team1.baseGc)).dumpFree 0 < (stHalt 0).dumpOwed 0 0 + ((stHalt 0).dropAtReg 0).dumpLen 2 team1 none ∧
      (stHalt 0xFFFF).dumpOwed 0 0 + ((stHalt 0xFFFF).dropAtReg 0).dumpLen 2 team1 none ≤ ((stHalt 0xFFFF).stk (gsOf team1.baseGc)).dumpFree 0) ∧
    (∀ kc ∈ (stHalt 0).ctxs, kc.2.atRegion = false) ∧ (3, ctx1) ∈ (stHalt 0).teamCtxs 2 := by
  decide +kernel

/-- A pass of launch 1 in bank group 5 of stack 1. -/
theorem test_hyps_FaultAndDebugEventsComplete_banks :
    (let s : State := { stHalt 0 with stks := (stHalt 0).stks ++ [(1, { Stack.reset with bankQueue := [bankQueued] })] }
     bankQueued ∈ (s.stk 1).bankQueue ∧ s.launch? bankQueued.launch = some launch1 ∧ launch1.pkg = pkgOf 0 ∧
       launch1.id = bits (s.stk 0).htgt.toNat 0 32) := by
  decide +kernel

theorem test_hyps_FaultAndDebugEventsComplete_trace : nbit 1 0 = true ∧ nbit 2 0 = false ∧ (s1.ctxs.all fun kc => gsOf kc.2.gc ≠ 1) = true ∧
    (s1.stk 1).trcEn = false := by
  decide +kernel

/-- A dump of the halted group, to the ring and to a peer, before and after its image is written, and after the peer has written it. -/
def dump1 (peer written : Bool) (reply : Option Nat) : Dump := ⟨7, 0, 0, 1, 2, none, 64, 0, peer, written, reply, 9⟩
def stDump (d : Dump) (pk size : Nat) (m : List Msg) (got0 got1 : Map Nat) : State := { stD true with
  ctxs := [(4, haltedCtx)]
  dumps := [d]
  chan := m
  pkgs := [(0, { s2.pkg 0 with got := got0 }), (1, { s2.pkg 1 with got := got1 })]
  stks := [(0, { Stack.reset with
    dmpPkg := pk
    dmpSize := [(0, size)] })] }
def stD0 (peer : Bool) (size : Nat) : State := stDump (dump1 peer false none) 1 size [] [] []
def imgD (p : Bool) (size : Nat) : State × List Byte := (stD0 p size).teamImage 2 team1 3 true ((stD0 p size).dumpCtxs 2 none)
def msgD : Msg := ⟨20, 0, 16, .dump 7 1, none, false, false, false⟩

/-- An image is written to the ring that has room for it, which leaves the channels and the peer of the dump as they were; else it is not. -/
theorem putDump_eq (s : State) (d : Dump) (t : Team) {v : State} {img : List Byte}
    (hv : s.teamImage d.team t (if d.group.isNone then 3 else 4) d.group.isNone (s.dumpCtxs d.team d.group) = (v, img)) :
    let short := (v.stk d.gs).dumpFree d.pslot < (padTo 64 (v.dumpHead d t img.length ++ img)).length
    (short → s.putDump d t = none) ∧
    (¬ short → ∃ u d', s.putDump d t = some (u, d') ∧ u.pkgs = v.pkgs ∧ (u.stk d.gs).dumpDst = (v.stk d.gs).dumpDst) := by
  have hs (w : State) (a b c : Nat) (x : List Byte) : OnlyErrs w (w.ringBytes a b c x) := (w.store_onlyErrs _ _).trans (State.store_onlyErrs _ _ _)
  have k (w : State) (f : Stack → Map Nat) : ((w.updStk d.gs fun k => { k with dmpHead := f k }).stk d.gs).dumpDst = (w.stk d.gs).dumpDst := by
    simp [State.updStk, Stack.dumpDst]
  have hu (w : State) (f : Stack → Stack) : (w.updStk d.gs f).pkgs = w.pkgs := rfl
  unfold State.putDump
  rw [hv]
  simp only
  refine ⟨fun h => if_pos h, fun h => ?_⟩
  rw [if_neg h]
  refine ⟨_, _, rfl, ?_, ?_⟩
  · rw [hu]
    exact (hs _ _ _ _ _).pkgs
  · rw [k]
    exact (hs _ _ _ _ _).dumpDst _

def shortD (p : Bool) (v : State × List Byte) : Bool :=
  decide ((v.1.stk 0).dumpFree 0 < (padTo 64 (v.1.dumpHead (dump1 p false none) team1 v.2.length ++ v.2)).length)

theorem dump_short : shortD false (imgD false 0) = true := by decide +kernel
theorem dump_fits : shortD false (imgD false 0xFFFF) = false := by decide +kernel
theorem dump_fits_peer : shortD true (imgD true 0xFFFF) = false := by decide +kernel
theorem dump_reaches : (imgD true 0xFFFF).1.reaches 0 ((imgD true 0xFFFF).1.stk 0).dumpDst = true := by decide +kernel

theorem test_hyps_FaultAndDebugEventsComplete_short : (stD0 false 0).putDump (dump1 false false none) team1 = none := by
  have h := dump_short
  generalize hv : imgD false 0 = v at h
  exact (putDump_eq _ (dump1 false false none) _ hv).1 (of_decide_eq_true h)

theorem test_hyps_FaultAndDebugEventsComplete_fits : ∃ u d', (stD0 false 0xFFFF).putDump (dump1 false false none) team1 = some (u, d') := by
  have h := dump_fits
  generalize hv : imgD false 0xFFFF = v at h
  obtain ⟨u, d', hp, -⟩ := (putDump_eq _ (dump1 false false none) _ hv).2 (of_decide_eq_false h)
  exact ⟨u, d', hp⟩

theorem test_hyps_FaultAndDebugEventsComplete_fitsPeer : ∃ u d', (stD0 true 0xFFFF).putDump (dump1 true false none) team1 = some (u, d') ∧
    u.reaches 0 (u.stk 0).dumpDst = true := by
  have h := dump_fits_peer
  have hr := dump_reaches
  generalize hv : imgD true 0xFFFF = v at h hr
  obtain ⟨u, d', hp, h1, h2⟩ := (putDump_eq _ (dump1 true false none) _ hv).2 (of_decide_eq_false h)
  refine ⟨u, d', hp, ?_⟩
  rw [show u.stk 0 = u.stk (dump1 true false none).gs from rfl, h2, State.reaches, State.link, State.pkg, h1]
  exact hr

theorem test_hyps_FaultAndDebugEventsComplete_written :
    (∀ p ∈ [false, true], (stD0 p 0xFFFF).dumps.find? (fun x => x.id = 7 && !x.written) = some (dump1 p false none) ∧
      (∀ kc ∈ (stD0 p 0xFFFF).dumpCtxs 2 none, kc.2.stop.isSome = true ∧ kc.2.place ≠ .moving ∧ kc.2.place ≠ .landed) ∧
      (stD0 p 0xFFFF).team? 2 = some team1) ∧ ({ stD0 false 0xFFFF with teams := [] } : State).team? 2 = none := by
  decide +kernel

theorem test_hyps_FaultAndDebugEventsComplete_peer :
    (let d := dump1 true true none
     (let s := stDump d 1 1 [] [] []
      s.dumps.find? (fun x => x.id = 7 && x.written) = some d ∧ d.bytes / 64 = 1 ∧ (s.stk 0).dumpDst = 16 ∧ (s.chan.find? fun m => m.body = .dump 7 1) = none) ∧
     ((stDump d 1 1 [msgD] [] []).chan.find? fun m => m.body = .dump 7 1) = some msgD ∧ (stDump d 1 1 [msgD] [] []).headOf msgD = false ∧
     (stDump d 1 1 [msgD] [] [(20, 1)]).headOf msgD = true) ∧
    (let d := dump1 true true (some 12)
     (stDump d 2 1 [] [] []).reaches 32 0 = false ∧ ((stDump d 2 1 [] [] []).stk 0).dumpDst = 32 ∧
       (stDump d 1 1 [] [] []).handed 16 0 12 1 = false ∧
       (((stDump d 1 1 [] [] []).link 1 (planeOf 16) 0).retry ++ ((stDump d 1 1 [] [] []).link 1 (planeOf 16) 0).queue).all (fun f => f.tag ≠ 12) = true ∧
       (stDump d 1 1 [] [(12, 1)] []).reaches 16 0 = true ∧ (stDump d 1 1 [] [(12, 1)] []).handed 16 0 12 1 = true) := by
  decide +kernel

/-- RDCTX and WRCTX under way: an image of 512 zero bytes at 0x1000, and one whose LIVE names every window of a group of four. -/
def cmdX (k : CmdKind) : Cmd := { cmdC k true [] with sectors := [{ emptySector 0 [(0, 0x1000, 512)] with st := .read }] }
def stX (k : CmdKind) (live : Byte) : State := { stD true with
  mem := [(0x1000, live)]
  ctxs := [(3, ctxD), (4, { haltedCtx with walloc := 4 })]
  cmds := [cmdX k] }

theorem test_hyps_FaultAndDebugEventsComplete_contexts : (stX (.rdctx 4 0x1000 [] 12) 0).cmd? 7 = some (cmdX (.rdctx 4 0x1000 [] 12)) ∧
    (stX (.wrctx 4 0x1000 0 12) 0).cmd? 7 = some (cmdX (.wrctx 4 0x1000 0 12)) ∧ (stX (.wrctx 4 0x1000 0 12) 0).ctx? 3 = some ctxD ∧ 4 ≠ 3 ∧
    (stX (.wrctx 4 0x1000 0 12) 0).ctx? 4 = some { haltedCtx with walloc := 4 } ∧
    (let bs (s : State) := (cmdX (.wrctx 4 0x1000 0 12)).sectors.flatMap fun z => z.pieces.flatMap fun p => s.refBytes p.2.1 p.2.2
     imgBad { haltedCtx with walloc := 4 } (bs (stX (.wrctx 4 0x1000 0 12) 0xFF)) = true) ∧
    imgBad { haltedCtx with
        walloc := 4
        paths := List.replicate 8 freePath } (List.replicate 512 0) = false := by
  decide +kernel

/-! ## Events of the host -/

/-- A package that runs, its link up, with queue 0 of four entries at 0x8000, one of them waiting; an entry is given by its first 40 bytes. -/
def hostQ : HostQ := { HostQ.reset with
  base := 0x8000
  log2n := 2
  en := true
  tail := 1 }
def pkgH : Pkg := { Pkg.reset with
  boot := .ready
  linkUp := true
  queues := [(0, hostQ)]
  attBuf := 0x40 }
def stH (entry : List Host.Cell) : State := { State.reset with
  mem := entry
  pkgs := [(0, pkgH)]
  stks := [(0, { Stack.reset with tlb := [leaf] })] }

theorem test_hyps_HostEventsComplete_bars : ((stH []).pkg 0).linkUp = true ∧
    (pkgH.answers (barSpot 0 0 0x50030 8) = true ∧ barSpot 0 0 0x50030 8 = .regs 0 0x50030 ∧ barSize 0x50030 8 = true ∧ (stH []).hostTurn 0 0 = true) ∧
    (pkgH.answers (barSpot 0 2 0x100 4) = true ∧ barSpot 0 2 0x100 4 = .dram 0 0x100 ∧ (stH []).spanBusy (paOf 0 0x100) 4 = false) ∧
    (Pkg.reset.answers (barSpot 0 2 0x100 4) = false) := by
  decide +kernel

/-- Entries: a kind that is none, NOP, LAUNCH, and SIGNAL to 0x4, to 2^56, and to 0x100. -/
theorem test_hyps_HostEventsComplete_queues :
    (((stH [(0x8000, 9)]).hqEntry 0 0).map Entry.bad = some true) ∧
    (((stH []).hqEntry 0 0).map fun e => (e.bad, e.kind)) = some (false, 0) ∧
    (((stH [(0x8000, 1)]).hqEntry 0 0).map fun e => (e.bad, e.kind)) = some (false, 1) ∧ (stH []).hqBusy 0 0 = false ∧
    (((stH [(0x8000, 2), (0x8020, 4)]).hqEntry 0 0).map fun e => (e.bad, e.kind, decide (e.addr % 8 = 0))) = some (false, 2, false) ∧
    (((stH [(0x8000, 2), (0x8027, 1)]).hqEntry 0 0).map fun e => (e.bad, e.kind, e.addr)) = some (false, 2, 2 ^ 56) ∧
    ((stH []).probeVa ⟨0, none, 0, true⟩ ⟨2, 8, true, true, false⟩ (2 ^ 56)).2.toOption = none ∧
    (((stH [(0x8000, 2), (0x8021, 1)]).hqEntry 0 0).map fun e => (e.bad, e.kind, e.addr)) = some (false, 2, 0x100) ∧
    (∃ u v x y, (stH [(0x8000, 2), (0x8021, 1)]).probeVa ⟨0, none, 0, true⟩ ⟨2, 8, true, true, false⟩ 0x100 = (u, .ok (0x100, 0)) ∧
      u.reaches 0 0 = true ∧ u.canSend 0 0 (planeOf 0) = true ∧ u.hostTurn 0 0 = true ∧ u.refAbsent 0x100 8 = false ∧ u.refBusy 0x100 = false ∧
      u.perform .nobody false ⟨1, 0, 8, 0, none, 0⟩ 0x100 8 (.write 0) = (v, .done x y)) := by
  refine ⟨?_, ?_, ?_, ?_, ?_, ?_, ?_, ?_, ((stH [(0x8000, 2), (0x8021, 1)]).probeVa ⟨0, none, 0, true⟩ ⟨2, 8, true, true, false⟩ 0x100).1, ?_⟩
  case refine_9 =>
    have hd : ∀ p : State × Done, (match p.2 with
        | .done _ _ => true
        | _ => false) = true → ∃ v x y, p = (v, .done x y) := by
      rintro ⟨v, d⟩ h
      cases d <;> first | exact ⟨_, _, _, rfl⟩ | cases h
    obtain ⟨v, x, y, h⟩ := hd (((stH [(0x8000, 2), (0x8021, 1)]).probeVa ⟨0, none, 0, true⟩ ⟨2, 8, true, true, false⟩ 0x100).1.perform .nobody false
      ⟨1, 0, 8, 0, none, 0⟩ 0x100 8 (.write 0)) (by decide +kernel)
    exact ⟨v, x, y, pair_ok (by decide +kernel), by decide +kernel, by decide +kernel, by decide +kernel, by decide +kernel, by decide +kernel, h⟩
  all_goals decide +kernel

/-- A precise predicate of home 0 on every write holds the host's, and the entry's store. -/
def stHeld : State := { stH [(0x8000, 2), (0x8021, 1)] with stks := [(0, { Stack.reset with
  tlb := [leaf]
  preds := [(16, { Pred.reset with
    vctl := 0x8000000000000003
    hi := BitVec.allOnes 64 })] })] }

theorem held_of {p : State × Done} (h : (match p.2 with
    | .held _ => true
    | _ => false) = true) : ∃ v ev, p = (v, .held ev) := by
  obtain ⟨v, d⟩ := p
  cases d <;> first | exact ⟨_, _, rfl⟩ | cases h

theorem test_hyps_HostEventsComplete_held : stHeld.signalHeld 0 0 = false ∧ (stH []).signalHeld 0 0 = false ∧ pkgH.boot = .ready ∧ Pkg.reset.boot ≠ .ready ∧
    (∃ v ev, stHeld.perform .nobody false ⟨1, 0, 4, 0, none, 0⟩ (paOf 0 0x100) 4 (.write 0) = (v, .held ev)) ∧
    ∃ v ev, (stHeld.probeVa ⟨0, none, 0, true⟩ ⟨2, 8, true, true, false⟩ 0x100).1.perform .nobody false ⟨1, 0, 8, 0, none, 0⟩ 0x100 8 (.write 0) = (v, .held ev) := by
  refine ⟨by decide +kernel, by decide +kernel, rfl, by decide, held_of ?_, held_of ?_⟩ <;> decide +kernel

theorem test_hyps_HostEventsComplete_registers : Pkg.reset.boot = .testing ∧ nbit 1 0 = true ∧ pkgH.attBusy = false ∧ attBufOk 0 0x40 = true ∧ attBufOk 0 0x41 = false ∧
    ({ pkgH with attBusy := true } : Pkg).attBusy = true ∧ isHostRef 0x40 = false ∧
    (isHostRef 0x30000000000 = true ∧ ({ pkgH with linkUp := false } : Pkg).linkUp = false) ∧ 10 < bits 11 0 4 ∧ bits 3 0 4 ≤ 10 ∧
    ({ pkgH with capWanted := some 3 } : Pkg).capWanted = some 3 ∧
    (let k : Stack := { Stack.reset with privUsed := [(1, 0, 128)] }
     k.privUsed ≠ []) ∧ ((stH []).stk 0).privUsed = [] ∧ hostQ.en = true ∧ HostQ.reset.en = false := by
  decide +kernel

/-! ## Encodings, steps and memory -/

theorem test_hyps_DecodeInvertsEncode : isWord (.iadd ⟨1, false, 0x70, 0x69, false, 0⟩) = true ∧ (Instr.iadd ⟨1, false, 0x70, 0x69, false, 0⟩).WellFormed := by
  decide +kernel

theorem test_hyps_DecodedWordsAreTheirEncodings :
    decode (wordBytes 0x000B8690) = .ok (.iadd ⟨1, false, 0x70, 0x69, false, 0⟩, []) := ok_of (by decide +kernel)

/-- The state before the issue of `iadd v1, %lane, 1` (06 Table 6-19). -/
def stStep : State := State.reset.withFetchWord 32 0x000B8690
def rStep : State := { stStep with agenda := [] }

/-- The same word watched by a precise execute predicate, and SEAL of a lane with fifteen batches sealed. -/
def rFire : State := rStep.updCore 0 fun k => { k with
  tlb := [leaf]
  preds := [(0, { Pred.reset with
    vctl := 0xD000000000000040
    hi := BitVec.allOnes 64 })] }
def sSeal : State := let s := State.reset.withFetchWord 32 (((encode (.seal ⟨0, 0, 0, 0, 0⟩)).headD 0).toNat)
  { s with teams := s.teams.map fun t => (t.1, { t.2 with batches := [(batchKey 0 0, ⟨0, 17, 2, []⟩)] }) }
def rSeal : State := { sSeal with agenda := [] }
def iAdd : Instr := .iadd ⟨1, false, 0x70, 0x69, false, 0⟩
/-- What an instruction answers under the cursor: whether it issued, and whether a precise predicate stops it. -/
def outSent (r : State) (i : Instr) : Option (Bool × Bool) :=
  match exec i (r.aim 3 0 false) with
  | .next t => some ((r.aim 3 0 false).sent t 3 0, ((r.aim 3 0 false).watchExecute 3 0).2)
  | _ => none
def heldOf (r : State) : Bool := after (runWord r 0 3 0 false) (fun t => heldAtIssue r t 3)

theorem test_hyps_StepRunsTheDecodedWord_words :
    (∀ r ∈ [rStep, rFire], ((r.ctx? 3).bind fun c => (c.path 0).clause.map (·.words)) = some [0x000B8690, 0]) ∧
    (decode (([0x000B8690, 0] : List Word).flatMap wordBytes)).toOption = some (iAdd, wordBytes 0) ∧
    outSent rStep iAdd = some (true, false) ∧ after (exec iAdd (((rStep.aim 3 0 false).watchExecute 3 0).1.traceHeader 3 0)) (fun _ => true) = true ∧
    outSent rFire iAdd = some (true, true) ∧
    ((rSeal.ctx? 3).bind fun c => (c.path 0).clause.bind fun k => (decode (k.words.flatMap wordBytes)).toOption.map (·.1)) = some (.seal ⟨0, 0, 0, 0, 0⟩) ∧
    outSent rSeal (.seal ⟨0, 0, 0, 0, 0⟩) = some (false, false) := by
  decide +kernel

theorem test_hyps_StepRunsTheDecodedWord_steps : (stStep.agenda = .issue 0 :: [] ∧ rStep.ranked 0 = [(3, 0)] ∧ heldOf rStep = false) ∧
    (sSeal.agenda = .issue 0 :: [] ∧ rSeal.ranked 0 = [(3, 0)] ∧ heldOf rSeal = true) ∧
    (let q := rStep
     q.mayPair 0 3 0 = true ∧ after (runWord q 0 3 0 true) (fun t => !heldAtIssue q t 3) = true) ∧
    ({ rStep with cursor := { rStep.cursor with pair := some (3, 0) } } : State).cursor.pair = some (3, 0) ∧
    ({ State.reset with agenda := [.event (.coreCycle 0)] } : State).agenda = .event (.coreCycle 0) :: [] := by
  decide +kernel

theorem test_hyps_TakingATrap : (st ctxT).ctx? 3 = some ctxT ∧ Handled ctxT 0 ∧ (ctx1.trap = 0xFFFFFFFF ∧ ctx1.stop = none ∧
    ((s1.launch? ctx1.launch).map (·.desc.killsib)) ≠ some true ∧ s1.isAgent ctx1.launch = false ∧
    s1.halting 3 = false ∧ (st ctxT).halting 3 = false ∧ (stStop ctxT [stop1 true]).halting 3 = true ∧ s1.ownsPlace 3 ctx1 = true ∧ ctx1.slotNo < 64 ∧
    s1.launch? ctx1.launch = some launch1 ∧ pkgOf 0 = pkgOf (gsOf ctx1.gc) ∧
    (mget (({ s1 with stks := [(0, { Stack.reset with xlatRoot := [(0, 1)] })] } : State).stk 0).xlatRoot ctx1.pslot 0).getLsbD 0 = true) :=
  ⟨rfl, test_hyps_TrapAndTretComplete.2.1, by decide +kernel⟩

theorem test_hyps_EveryStepKeepsMemoryCanonical : State.reset.memInv ∧ after (step stStep) (fun _ => true) = true := by
  refine ⟨?_, ?_⟩ <;> (try simp only [State.memInv]) <;> decide +kernel

theorem test_hyps_PerformingKeepsMemoryCanonical : performing (.storePerform 7 0xFFFF) ∧ (stAcc .store).memInv ∧
    after (exec (.storePerform 7 0xFFFF) (stAcc .store)) (fun _ => true) = true := by
  refine ⟨.inl ⟨7, 0xFFFF, .inl rfl⟩, ?_, ?_⟩ <;> (try simp only [State.memInv]) <;> decide +kernel

/-! ## Single steps with the values of 10 Tables 10-13 and 10-15 -/

/-- One step of a word on a group whose v1 is lane + 1 and whose v2 is the exclusive sum of v1. -/
def lanesCtx (c : Ctx) : Ctx := (List.range 16).foldl (fun c l => (c.setV 1 l (l + 1)).setV 2 l (l * (l + 1) / 2)) c
def stepOf (nbits w : Nat) : Host.Outcome State Fault Refusal := step ((State.reset.withFetchWord nbits w).updCtx 3 lanesCtx)
def vAre (r : Nat) (vs : List Nat) (t : State) : Bool :=
  ((t.ctx? 3).map fun c => decide ((List.range 16).map (fun l => (c.v r l).toNat) = vs)).getD false

theorem test_iadd_lane : after (step stStep) (vAre 1 [1, 2, 3, 4, 5, 6, 7, 8, 9, 10, 11, 12, 13, 14, 15, 16]) = true := by decide +kernel
theorem test_scan_excl : after (stepOf 64 0x000001109A100800) (vAre 2 [0, 1, 3, 6, 10, 15, 21, 28, 36, 45, 55, 66, 78, 91, 105, 120]) = true := by
  decide +kernel
theorem test_redx : after (stepOf 64 0x9A200800) (vAre 4 (List.replicate 16 136)) = true := by decide +kernel
theorem test_shfl_xor : after (stepOf 64 0x0000003096181690) (vAre 3 [1, 0, 6, 3, 15, 10, 28, 21, 45, 36, 66, 55, 91, 78, 120, 105]) = true := by
  decide +kernel
theorem test_smovi : after (stepOf 32 0x72200014) (fun t => ((t.ctx? 3).map fun c => decide (c.sreg 4 = 20)).getD false) = true := by decide +kernel
/-- p1 := v2 > s4 with s4 = 20. -/
theorem test_iset : after (step ((State.reset.withFetchWord 64 0x000000402C081440).updCtx 3 fun c => { lanesCtx c with sregs := [(4, 20)] }))
    (fun t => ((t.ctx? 3).map fun c => decide (c.pred 1 = 0xFFC0)).getD false) = true := by decide +kernel
/-- EXIT ends the group's lanes. -/
theorem test_exit : after (stepOf 32 0xEE000004) (fun t => ((t.ctx? 3).map fun c => decide (c.lanes = 0)).getD true) = true := by decide +kernel
/-- A word with a reserved opcode takes the unhandled trap 0x01 and stops its group (15 Table 15-1). -/
theorem test_illegal : after (stepOf 32 0xFE000000) (fun t => ((t.ctx? 3).map fun c => decide ((c.stop.map (·.code)) = some 1)).getD false) = true := by
  decide +kernel

/-- 05 Table 5-3, the channel at expect 0x066: a flit with a CRC error counts and sends NAK 0x065; one ahead of the gap is discarded with no second
NAK; one delivered before is counted in DUP. -/
def stGap (nak : Bool) : State := { s2 with pkgs := [(0, { s2.pkg 0 with links := [(linkKey 0 1, { linkUp with
  expect := 0x066
  nakOut := nak })] }), (1, s2.pkg 1)] }
theorem test_replay_nak : after (exec (.channelFlitReceive 1 0) (stGap false))
    (fun t => decide ((t.chan? 1).expect = 0x066 ∧ (t.chan? 1).out.map (fun f => (f.kind, f.seq)) = [(7, 0x065)] ∧ (t.pkg 0).crcerr ≠ (s2.pkg 0).crcerr)) = true := by
  decide +kernel
theorem test_replay_discards : after (exec (.channelFlitReceive 1 (flit 0x067 0).word) (stGap true))
    (fun t => decide ((t.chan? 1).expect = 0x066 ∧ (t.chan? 1).out = [] ∧ (t.pkg 0).dup = (s2.pkg 0).dup)) = true := by decide +kernel
theorem test_replay_dup : after (exec (.channelFlitReceive 1 (flit 0x065 0).word) (stGap false))
    (fun t => decide ((t.chan? 1).expect = 0x066 ∧ (t.chan? 1).out = [] ∧ (t.pkg 0).dup ≠ (s2.pkg 0).dup)) = true := by decide +kernel

/-- 13 Table 13-3: group 0's lanes 16,777,216 and 1.0 fold to 0x4B80_0000 with INEXACT, and so do the record's 16,777,216 and 1.0. -/
theorem test_barsum : payFold 2 [0x4B800000, 0x3F800000] = (0x4B800000, flInexact) ∧ payFold 2 [0x3F800000] = (0x3F800000, 0) := by decide +kernel

/-! ## Witnesses of the statements on values -/

theorem test_hyps_SumsAndProductsAreExact : (∀ v ∈ [FVal.fin false 3 0, .fin true 1 (-1)], finite v = true) ∧ finite (.fin true 1 (-1)) = true ∧
    FTerm.val .nan ∈ [FTerm.val .nan] ∧ (FTerm.val .nan ∉ [FTerm.bad] ∧ FTerm.bad ∈ [FTerm.bad]) ∧
    (FTerm.val .nan ∉ [FTerm.val (.inf true)] ∧ FTerm.bad ∉ [FTerm.val (.inf true)] ∧ FTerm.val (.inf true) ∈ [FTerm.val (.inf true)] ∧
      FTerm.val (.inf (!true)) ∉ [FTerm.val (.inf true)] ∧ fmtHasInf 8 = true) := by
  decide

/-- Rounding 5 units of 2^0 to units of 2^1 (a tie), and 4 to them (whole); the least FP32 subnormal and the greatest finite E4M3. -/
theorem test_hyps_RoundingModes : (1 : Int) ≤ 1 ∧ (0 : Int) < 1 ∧ (2 ^ ((1 : Int) - 0).toNat ∣ 4) ∧ 2 * 5 = (2 * (5 / 2) + 1) * 2 ^ ((1 : Int) - 0).toNat ∧
    (∃ q, fDecode 8 1 = .fin false 1 q) ∧ (∃ m q, fDecode 11 0x7E = .fin false m q) ∧ 0x7E < 2 ^ (fmtSign 11 + 1) := by
  refine ⟨by decide, by decide, by decide, by decide, ⟨_, rfl⟩, ⟨_, _, rfl⟩, by decide⟩

end Sys2Proof.Tests
end

section
/-! The words of 10 "Vector instructions": the shapes of a word with two or three sources, the field words (R213), the special functions
of special inputs (R228), and V2S (R233). -/

namespace Sys2Proof.Certificates

open Sys2Proof Sys2Proof.Machine

/-! ## Operands as 32-bit words -/

/-- A 32-bit position delivers the low 32 bits of what it reads (06 R107). -/
theorem read_i32_lt (e : Env) (code l : Nat) : e.read .i32 code l < 2 ^ 32 :=
  Nat.mod_lt _ (by decide)

@[simp] theorem toNat_opnd (e : Env) (code : BitVec 7) (l : Nat) : (opnd e code l).toNat = e.read .i32 code.toNat l :=
  Nat.mod_eq_of_lt (read_i32_lt e _ _)

@[simp] theorem toNat_sopnd (e : Env) (code : BitVec 7) : (sopnd e code).toNat = e.read .i32 code.toNat 0 :=
  Nat.mod_eq_of_lt (read_i32_lt e _ _)

/-! ## Words with two and three 32-bit sources -/

/-- A ready word of two 32-bit sources completes with `r` of them where its operation on numbers is `r` on words. -/
theorem Word2.of_wordV2 {s : State} {e : Env} {f : FmtA} {nw : Nat} {i : Instr} {op : Nat → Nat → Nat × Flags}
    {r : Word → Word → Word × Flags} (he : s.issuer = some e) (hr : Ready2 e f false .i32 .i32)
    (hi : exec i s = wordV2 f nw .i32 .i32 op s) (hop : ∀ a b : Word, op a.toNat b.toNat = ((r a b).1.toNat, (r a b).2)) :
    Word2 s e f nw i r := by
  obtain ⟨hd, ha, hb, hdead⟩ := hr
  have hds : e.dstDefects false f.d.toNat ++ e.srcDefects .i32 f.a.toNat ++ e.srcDefects .i32 f.b.toNat = [] := by
    rw [hd, ha, hb]; rfl
  refine GivesVector.of_perLane he i nw false f.n f.d.toNat (e.active f) 0
    (fun l => op (e.read .i32 f.a.toNat l) (e.read .i32 f.b.toNat l)) _ ?_ fun l _ => ?_
  · rw [hi, wordV2, withIssuer_some he, Env.checked_ok _ _ _ _ _ hds hdead]
  · simpa using hop (opnd e f.a l) (opnd e f.b l)

/-- The same of a word of three 32-bit sources. -/
theorem Word3.of_wordV3 {s : State} {e : Env} {f : FmtA} {x : FmtX} {i : Instr} {op : Nat → Nat → Nat → Nat × Flags}
    {r : Word → Word → Word → Word × Flags} (he : s.issuer = some e) (hr : Ready3 e f x false .i32 .i32 .i32)
    (hi : exec i s = wordV3 f x false .i32 .i32 .i32 op s)
    (hop : ∀ a b c : Word, op a.toNat b.toNat c.toNat = ((r a b c).1.toNat, (r a b c).2)) : Word3 s e f x i r := by
  obtain ⟨hd, ha, hb, hc, hdead⟩ := hr
  have hds : e.dstDefects false f.d.toNat ++ e.srcDefects .i32 f.a.toNat ++ e.srcDefects .i32 f.b.toNat ++
      e.srcDefects .i32 x.sc.toNat = [] := by
    rw [hd, ha, hb, hc]; rfl
  refine GivesVector.of_perLane he i 2 false f.n f.d.toNat (e.active f) 0
    (fun l => op (e.read .i32 f.a.toNat l) (e.read .i32 f.b.toNat l) (e.read .i32 x.sc.toNat l)) _ ?_ fun l _ => ?_
  · rw [hi, wordV3, withIssuer_some he, Env.checked_ok _ _ _ _ _ hds hdead]
  · simpa using hop (opnd e f.a l) (opnd e f.b l) (opnd e x.sc l)

/-! ## Bit fields (10 R213) -/

theorem bits_toNat {w : Nat} (x : BitVec w) (lo len : Nat) : bits x.toNat lo len = (x.extractLsb' lo len).toNat := by
  rw [BitVec.extractLsb'_toNat, Nat.shiftRight_eq_div_pow, bits]

theorem fieldLen_le (b : Word) : fieldLen b ≤ 32 := Nat.min_le_right _ _

/-- A field of at most 32 bits, sign-extended and wrapped to 32 bits: where its top bit is set, the bits above it are set too. -/
theorem wrap_sint_of_lt {len d : Nat} (hlen : len ≤ 32) (hd : d < 2 ^ len) :
    wrap 32 (sint len d) = if 2 ^ (len - 1) ≤ d then d + 2 ^ 32 - 2 ^ len else d := by
  have hpow : 2 ^ len ≤ 2 ^ 32 := Nat.pow_le_pow_right (by decide) hlen
  have hcast : ((2 : Int) ^ len) = ((2 ^ len : Nat) : Int) := by push_cast; rfl
  unfold wrap sint
  rw [Nat.mod_eq_of_lt hd, hcast]
  generalize 2 ^ len = p at hd hpow
  by_cases hneg : 2 ^ (len - 1) ≤ d
  · rw [if_pos hneg, if_neg (by omega)]; omega
  · rw [if_neg hneg, if_pos (by omega)]; omega

/-- BFX on numbers is the field its control names. -/
theorem bfxOp_toNat (a b : Word) : bfxOp a.toNat b.toNat = (fieldOut a b).toNat := by
  have hlen := fieldLen_le b
  have hpow : 2 ^ fieldLen b ≤ 2 ^ 32 := Nat.pow_le_pow_right (by decide) hlen
  have hu : a.toNat / 2 ^ fieldPos b % 2 ^ fieldLen b < 2 ^ fieldLen b := Nat.mod_lt _ (Nat.two_pow_pos _)
  have hop : bfxOp a.toNat b.toNat =
      if b.getLsbD 16 = true ∧ fieldLen b ≠ 0 then wrap 32 (sint (fieldLen b) (a.toNat / 2 ^ fieldPos b % 2 ^ fieldLen b))
      else a.toNat / 2 ^ fieldPos b % 2 ^ fieldLen b := by
    simp only [bfxOp, bits_toNat, nbit, BitVec.testBit_toNat, Bool.and_eq_true, decide_eq_true_eq]
    rfl
  rw [hop, wrap_sint_of_lt hlen hu, fieldOut]
  simp only [Nat.pos_iff_ne_zero]
  generalize a.toNat / 2 ^ fieldPos b % 2 ^ fieldLen b = u at hu
  by_cases hs : b.getLsbD 16 = true ∧ fieldLen b ≠ 0
  · by_cases hneg : 2 ^ (fieldLen b - 1) ≤ u
    · rw [if_pos hs, if_pos hneg, if_pos ⟨hs.1, hs.2, hneg⟩, BitVec.toNat_ofNat, Nat.mod_eq_of_lt (by omega)]
    · rw [if_pos hs, if_neg hneg, if_neg fun h => hneg h.2.2, BitVec.toNat_ofNat, Nat.mod_eq_of_lt (by omega)]
  · rw [if_neg hs, if_neg fun h => hs ⟨h.1, h.2.1⟩, BitVec.toNat_ofNat, Nat.mod_eq_of_lt (by omega)]

/-- BFI on numbers puts the field its control names into C. -/
theorem bfiOp_toNat (a b c : Word) : bfiOp a.toNat b.toNat c.toNat = (fieldIn a b c).toNat := by
  simp only [bfiOp, bits_toNat, fieldIn, fieldPos, fieldLen, BitVec.toNat_or, BitVec.toNat_and, BitVec.toNat_not,
    BitVec.toNat_shiftLeft, BitVec.toNat_ofNat, Nat.shiftLeft_eq]

/-- Settles O2: on words, BFX and BFI are the extraction and the insertion of the field. -/
theorem bitFieldWordsComplete : Obligations.BitFieldWordsComplete := by
  intro s e f x he
  exact ⟨fun hr => Word2.of_wordV2 he hr (exec_bfx f s) fun a b => by rw [bfxOp_toNat],
    fun hr => Word3.of_wordV3 he hr (exec_bfi f x s) fun a b c => by rw [bfiOp_toNat]⟩

/-! ## Special functions of special inputs (10 Table 10-11), by the row's kind of value -/

/-- The rows +0 and -0. -/
theorem special_of_zero {code : Nat} {neg : Bool} {q : Int} (h : fDecode 8 code = .fin neg 0 q) :
    special 0x40 code = (withSign 8 neg 0x7F800000, flDivZ) ∧ special 0x41 code = (withSign 8 neg 0x7F800000, flDivZ) ∧
    special 0x42 code = (withSign 8 neg 0, 0) ∧ special 0x43 code = (0x3F800000, 0) ∧
    special 0x44 code = (withSign 8 true 0x7F800000, flDivZ) ∧ special 0x45 code = (withSign 8 neg 0, 0) ∧
    special 0x46 code = (0x3F800000, 0) ∧ special 0x47 code = (withSign 8 neg 0, 0) := by
  simp [special, h, spEx2, spTrig, spTanh]

/-- The rows of the infinities. -/
theorem special_of_inf {code : Nat} {neg : Bool} (h : fDecode 8 code = .inf neg) :
    special 0x40 code = (withSign 8 neg 0, 0) ∧
    special 0x41 code = (if neg then (0x7FC00000, flInvalid) else (0, 0)) ∧
    special 0x42 code = (if neg then (0x7FC00000, flInvalid) else (0x7F800000, 0)) ∧
    special 0x43 code = (if neg then (0, 0) else (0x7F800000, 0)) ∧
    special 0x44 code = (if neg then (0x7FC00000, flInvalid) else (0x7F800000, 0)) ∧
    special 0x45 code = (0x7FC00000, flInvalid) ∧ special 0x46 code = (0x7FC00000, flInvalid) ∧
    special 0x47 code = (withSign 8 neg 0x3F800000, 0) := by
  simp [special, h]

/-- The row of negative finite values, in the columns RSQ, SQRT and LG2. -/
theorem special_of_negative {code m : Nat} {q : Int} (h : fDecode 8 code = .fin true m q) (hm : m ≠ 0) :
    special 0x41 code = (0x7FC00000, flInvalid) ∧ special 0x42 code = (0x7FC00000, flInvalid) ∧
    special 0x44 code = (0x7FC00000, flInvalid) := by
  simp [special, h, hm]

/-- The row of NaN, in every column. -/
theorem special_of_nan {code : Nat} (h : fDecode 8 code = .nan) (opc : Nat) : special opc code = (0x7FC00000, flNanIn) := by
  simp [special, h]

/-- Settles O12: the table's codes decode to its zeros and infinities, and each row is that of its kind of value. -/
theorem specialFunctionsOfSpecialInputs : Obligations.SpecialFunctionsOfSpecialInputs := by
  have hpz : fDecode 8 0 = .fin false 0 (-149) := by decide
  have hnz : fDecode 8 0x80000000 = .fin true 0 (-149) := by decide
  have hpi : fDecode 8 0x7F800000 = .inf false := by decide
  have hni : fDecode 8 0xFF800000 = .inf true := by decide
  obtain ⟨pz0, pz1, pz2, pz3, pz4, pz5, pz6, pz7⟩ := special_of_zero hpz
  obtain ⟨nz0, nz1, nz2, nz3, nz4, nz5, nz6, nz7⟩ := special_of_zero hnz
  obtain ⟨pi0, pi1, pi2, pi3, pi4, pi5, pi6, pi7⟩ := special_of_inf hpi
  obtain ⟨ni0, ni1, ni2, ni3, ni4, ni5, ni6, ni7⟩ := special_of_inf hni
  exact ⟨⟨pz0, nz0, pi0, ni0⟩, ⟨pz1, nz1, pi1, ni1⟩, ⟨pz2, nz2, pi2, ni2⟩, ⟨pz3, nz3, pi3, ni3⟩, ⟨pz4, nz4, pi4, ni4⟩,
    ⟨pz5, nz5, pi5, ni5⟩, ⟨pz6, nz6, pi6, ni6⟩, ⟨pz7, nz7, pi7, ni7⟩, fun _ _ _ => special_of_negative,
    fun _ h opc _ _ => special_of_nan h opc⟩

/-! ## V2S (10 R233) -/

/-- The lowest lane of a mask that is not empty is in it, and no lane below it is. -/
theorem lowLane_spec {m : Mask} (h : m ≠ 0) : m.getLsbD (lowLane m) = true ∧ ∀ j, j < lowLane m → m.getLsbD j = false := by
  have hsorted := lanesOf_lt m
  have hmem := mem_lanesOf m
  unfold lowLane
  cases hls : lanesOf m with
  | nil =>
    refine absurd (BitVec.eq_of_getLsbD_eq fun i _ => ?_) h
    have hi : m.getLsbD i ≠ true := fun hi => by simpa [hls] using (hmem i).mpr hi
    simpa using hi
  | cons x xs =>
    rw [hls] at hsorted hmem
    refine ⟨(hmem x).mp (.head _), fun j hj => Bool.eq_false_iff.mpr fun hm => ?_⟩
    rw [List.headD_cons] at hj
    rcases List.mem_cons.mp ((hmem j).mpr hm) with rfl | hxs
    · exact Nat.lt_irrefl _ hj
    · exact Nat.lt_asymm hj (List.rel_of_pairwise_cons hsorted hxs)

/-- The value V2S delivers: the named lane's A, else the lowest active lane's, else the register's own. -/
def v2sValue (e : Env) (f : FmtA) : Nat :=
  if e.active f = 0 then (e.c.sreg f.d.toNat).toNat
  else if (sopnd e f.b).toNat < e.c.width ∧ (e.active f).getLsbD (sopnd e f.b).toNat = true then
    (opnd e f.a (sopnd e f.b).toNat).toNat
  else (opnd e f.a (lowLane (e.active f))).toNat

/-- V2S without defect writes that value back, as with NWB where no lane is active. -/
theorem exec_v2s_ready {s : State} {e : Env} {f : FmtA} (he : s.issuer = some e) (hd : f.d.toNat < 32) (ha : Readable e .i32 f.a)
    (hb : ScalarReadable e f.b) (hdead : NoDead e (e.active f) (srcRegs .i32 f.a.toNat)) :
    exec (.v2s f) s = .next (e.finishS 1 (f.n || decide (e.active f = 0)) f.d.toNat (v2sValue e f)) := by
  have hds : rangeDefects f.d.toNat 32 ++ e.srcDefects .i32 f.a.toNat ++ e.scalarDefects .i32 f.b.toNat = [] := by
    rw [rangeDefects, if_pos hd, ha, hb]; rfl
  rw [exec_v2s, execV2s, withIssuer_some he, Env.checked_ok _ _ _ _ _ hds hdead]
  simp only [v2sValue, toNat_opnd, toNat_sopnd, Bool.and_eq_true, decide_eq_true_eq]

/-- Settles O18, by whether a lane is active. -/
theorem vectorToScalarCompletes : Obligations.VectorToScalarCompletes := by
  intro s e f he hd ha hb hdead
  have hexec := exec_v2s_ready he hd ha hb hdead
  refine ⟨fun hact => ?_, fun hact => ?_⟩
  · obtain ⟨hlow, hbelow⟩ := lowLane_spec hact
    refine ⟨lowLane (e.active f), hlow, hbelow, GivesScalar.of_finishS he _ 1 f.n _ _ ?_⟩
    rw [hexec, v2sValue, if_neg hact, decide_eq_false hact, Bool.or_false, apply_ite BitVec.toNat]
  · refine GivesScalar.of_finishS he _ 1 true _ _ ?_
    rw [hexec, v2sValue, if_pos hact, decide_eq_true hact, Bool.or_true]

end Sys2Proof.Certificates
end
